-- ==== Sys2Proof/Word.lean ====
section
/-! DEFINITION. The word types of the machine and its table type (00 R4, 01 R10). -/

namespace Sys2Proof

/-- A byte of memory. -/
abbrev Byte := BitVec 8
/-- An instruction word, a lane, a literal. -/
abbrev Word := BitVec 32
/-- A pilot register, a virtual address. -/
abbrev DWord := BitVec 64
/-- The payload of a token, a wide register, a slot of a store (01 R10). -/
abbrev Wide := BitVec 256

/-- Data kept by number, in ascending order of the number; what is not listed has a default. -/
abbrev Tbl (α : Type) := List (Nat × α)

/-- The tag of a token (01 R10). -/
structure Tag where
  lvl : BitVec 3
  hdr : Bool
  seq : BitVec 12
  deriving DecidableEq, Repr

/-- The tag of a token read from a register or a literal. -/
def Tag.zero : Tag := ⟨0, false, 0⟩

/-- A token: payload and tag (01 R10). -/
structure Token where
  pay : Wide
  tag : Tag
  deriving DecidableEq, Repr

end Sys2Proof
end

