-- ==== Sys2Proof/Config.lean ====
section
/-! DEFINITION. What one implementation fixes, and the free values: constants with no body, so that no proof can lean
on what they are. -/

namespace Sys2Proof.Config

/-- FREE VALUE (log 10). The f32 result of FRCP, kept within the bound of 05 R133 by its user. -/
opaque frcp32 : BitVec 32 → BitVec 32
/-- FREE VALUE (log 10). The f32 result of FRSQ. -/
opaque frsq32 : BitVec 32 → BitVec 32
/-- FREE VALUE (log 10). The f32 result of FEXP2. -/
opaque fexp232 : BitVec 32 → BitVec 32
/-- FREE VALUE (log 10). The f32 result of FLOG2. -/
opaque flog232 : BitVec 32 → BitVec 32
/-- FREE VALUE (log 11). Whether the L1 still holds a line it was filled with (09 R232 gives no eviction rule). -/
opaque l1Keeps : Nat → Bool
/-- FREE VALUE (log 11). The line that makes room in a full L1. -/
opaque l1Victim : Nat → Nat
/-- FREE VALUE (log 12). Whether an unordered read joins an older pending read of its sector (08 R196: it may). -/
opaque merges : Nat → Bool
/-- FREE VALUE (log 86). How many sectors of a request a slice serves in one clk while others are under way at them (12 R287). -/
opaque atOnce : Nat → Nat
/-- FREE VALUE (log 59). Whether a pilot goes on while a load is under way (09 R234: loads may complete out of program order). -/
opaque runsOn : Nat → Bool
/-- FREE VALUE (log 86). The sectors of a line, by bit, that an L1 fill takes before the others, and whether it does (12 R295). -/
opaque fillFirst : Nat → BitVec 8
opaque fillSplit : Nat → Bool
/-- FREE VALUE (log 13). Byte of a save image, whose layout is not architectural (16 R365). -/
opaque saveByte : Nat → Nat → Byte
/-- FREE VALUE (log 14). A signature of a die's responder over a transcript (15 R351). -/
opaque signature : Nat → Nat → Wide → BitVec 768
/-- FREE VALUE (log 14). A random number a responder draws. -/
opaque randomOf : Nat → Wide
/-- FREE VALUE (log 15). The ciphertext of a poisoned or failed sector is not stated (16 R373): what is read. -/
opaque poisoned : Nat → BitVec 128
/-- FREE VALUE (log 31). The package and port that send on a channel id to a port: the receive table is not said to hold them. -/
opaque sender : Nat → BitVec 17

/-- FREE VALUE (log 35). The action that the record of a failing HBM stack names: none of the three of 16 R374 is stated for it. -/
opaque hbmAction : Byte
/-- FREE VALUE (log 36). A word of a cell store, or a register, that was lost to an uncorrectable error. -/
opaque lost : Nat → BitVec 256

/-- FREE VALUE (log 92). The number of this package on the Seaway (17 R386). -/
opaque package : BitVec 14
/-- FREE VALUE (log 92). Byte i of what AES-GCM-256 seals under a key, an IV and additional data, its tag last (17 R386). -/
opaque gcm : Wide → BitVec 96 → List Byte → List Byte → Nat → Byte
/-- FREE VALUE (log 14). The digest of a die's certificate chain, and the chain (15 R351). -/
opaque digest : Nat → List (BitVec 64)
opaque certificate : Nat → List (BitVec 64)

/-- Frames of 64 KiB in the 768 GiB of HBM (00 R6). -/
def frames : Nat := 12582912
/-- Cells: columns of a strip, fabric rows (00 R6). -/
def cols : Nat := 8
def rows : Nat := 96
def strips : Nat := 48
/-- Lines of 128 bytes in each of a pilot's L1 caches: 64 KiB (00 R6). -/
def l1Lines : Nat := 512
/-- clk of an LD that hits the L1 (14 R326). -/
def l1Clk : Nat := 3
/-- Entries of a cell store's roadstead and of a quay's (10 R251). -/
def cellRoad : Nat := 16
def quayRoad : Nat := 64
/-- clk that a transfer whose duration is not architectural takes in the model (13 R397; log 9). -/
def workClk : Nat := 64
/-- The duration of KILLING: every token in flight lands first (16 R364).-/
def killClk : Nat := 512
/-- The beacon's latency from strip to root, and from root to strip (14 R329). -/
def beaconClk : Nat := 36
/-- Phases of a halt, counted from the request (16 R364). -/
def haltSignal : Nat := 36
def haltGate : Nat := 38
def haltSettle : Nat := 258
def haltReads : Nat := 3258
def haltDone : Nat := 3400
/-- The dredger's period, and the WFE limit (11 R281, 09 R236). -/
def dredgerClk : Nat := 1024
def wfeClk : Nat := 65536
/-- clk without a store after which a coalesced line is sent (08 R197). -/
def coalesceClk : Nat := 256
/-- Instances of an arbiter class (15 R339): quays, slices, stacks, die boundaries in each direction, ports. -/
def classInst (cls : Nat) : Nat := [96, 96, 12, 6, 8].getD cls 0

/-- Capacity for each 1,024 clk and largest transaction of each arbiter class (15 R339). -/
def classCap (c : Nat) : Nat := [2048, 512, 1927529, 2228224, 240640].getD c 0
def classX (c : Nat) : Nat := [1, 1, 128, 32, 1024].getD c 1
/-- Seaway times in clk at fclk: 1 ms, 100 ms and 10 µs (17 R387, R389; 00 R2). -/
def heartbeatClk : Nat := 1700000
def lossClk : Nat := 170000000
def ackClk : Nat := 17000

end Sys2Proof.Config
end

