-- ==== Sys2Proof/Machine/Bits.lean ====
section
/-! DEFINITION. Lanes, elements, bytes and fields of words (00 R3, R4; 01 R10; 04 R89). -/

namespace Sys2Proof.Machine

/-- Lane l of a payload (01 R10). -/
def lane (v : Wide) (l : Nat) : Word := v.extractLsb' (32 * l) 32

/-- Element i of width n (04 R89). -/
def elt (n : Nat) (v : Wide) (i : Nat) : BitVec n := v.extractLsb' (n * i) n

/-- The payload whose elements of width n are given from element 0 up; the rest is zero. -/
def ofElts {n : Nat} : List (BitVec n) → Wide
  | [] => 0
  | x :: xs => (ofElts xs <<< n) ||| x.setWidth 256

/-- The elements of width n of a payload. -/
def elts (n : Nat) (v : Wide) : List (BitVec n) := (List.range (256 / n)).map (elt n v)

/-- The payload whose lanes are given. -/
def ofLanes (xs : List Word) : Wide := ofElts xs

/-- A literal in each of the eight lanes (03 R67). -/
def splat (k : Word) : Wide := ofLanes (List.replicate 8 k)

/-- A 64-bit value in lanes 1:0. -/
def lo64 (v : Wide) : DWord := v.setWidth 64

/-- A value in lane 0, the other lanes zero. -/
def inLane0 (v : Word) : Wide := v.setWidth 256

/-- Element by element from one operand. -/
def map1 (n : Nat) (f : BitVec n → BitVec n) (a : Wide) : Wide := ofElts ((elts n a).map f)

/-- Element by element from two operands. -/
def map2 (n : Nat) (f : BitVec n → BitVec n → BitVec n) (a b : Wide) : Wide :=
  ofElts (List.zipWith f (elts n a) (elts n b))

/-- Element by element from three operands. -/
def map3 (n : Nat) (f : BitVec n → BitVec n → BitVec n → BitVec n) (a b c : Wide) : Wide :=
  ofElts (List.zipWith (fun g z => g z) (List.zipWith f (elts n a) (elts n b)) (elts n c))

/-- Sign extension to 64 bits. -/
def sext64 {n : Nat} (v : BitVec n) : DWord := v.signExtend 64

/-- Zero extension to 64 bits. -/
def zext64 {n : Nat} (v : BitVec n) : DWord := v.setWidth 64

/-- Little-endian bytes of a value, n of them (00 R4). -/
def toBytes {w : Nat} (v : BitVec w) : Nat → List Byte
  | 0 => []
  | n + 1 => v.setWidth 8 :: toBytes (v >>> 8) n

/-- The value of little-endian bytes. -/
def ofBytes (w : Nat) : List Byte → BitVec w
  | [] => 0
  | b :: bs => (ofBytes w bs <<< 8) ||| b.setWidth w

/-- Bits lo to lo + n - 1 of a word as a number. -/
def bf {w : Nat} (v : BitVec w) (lo n : Nat) : Nat := v.toNat / 2 ^ lo % 2 ^ n

/-- One bit. -/
def bit {w : Nat} (v : BitVec w) (i : Nat) : Bool := v.getLsbD i

/-- A word with bit i set or cleared. -/
def setBit {w : Nat} (v : BitVec w) (i : Nat) (b : Bool) : BitVec w :=
  if b then v ||| (1#w <<< i) else v &&& ~~~(1#w <<< i)

/-- Set bits of a word. -/
def popcount {w : Nat} (v : BitVec w) : Nat := (List.range w).countP fun i => v.getLsbD i

/-- Leading zeros, counted from the top of n bits down; n for zero. -/
def clzN {w : Nat} (v : BitVec w) : Nat → Nat
  | 0 => 0
  | n + 1 => if v.getLsbD n then 0 else 1 + clzN v n

/-- Trailing zeros; n for zero. -/
def ctzN {w : Nat} (v : BitVec w) (i : Nat) : Nat → Nat
  | 0 => 0
  | n + 1 => if v.getLsbD i then 0 else 1 + ctzN v (i + 1) n

/-- Position of the highest set bit of a number; 0 for 0. -/
def log2 (n : Nat) : Nat := n.log2

/-- The bits of a word as a list of positions. -/
def bitsOf {w : Nat} (v : BitVec w) : List Nat := (List.range w).filter fun i => v.getLsbD i

/-- Natural number difference without order. -/
def dist (a b : Nat) : Nat := (a - b) + (b - a)

end Sys2Proof.Machine
end

