-- ==== Sys2Proof/Machine/Aes.lean ====
section
/-! DEFINITION. AES-256 and its XTS mode on one block, the cipher of the HBM controllers (15 R347). The spec names AES-XTS-256 and defines
it no further: this is the cipher of FIPS 197 and IEEE 1619 (log 5). -/

namespace Sys2Proof.Machine

/-! The field of 256 elements, and the S-box: byte b of a table is what it makes of b. -/

def xtime (b : Byte) : Byte := (b <<< 1) ^^^ (if b.msb then 0x1B else 0)
/-- A product with a coefficient below 16. -/
def gmul (a b : Byte) : Byte :=
  ((List.range 4).foldl (fun (x : Byte × Byte) i => (if b.getLsbD i then x.1 ^^^ x.2 else x.1, xtime x.2)) (0, a)).1
/-- The S-box of FIPS 197, byte 0 lowest. -/
def sboxTable : BitVec 2048 :=
  0x16bb54b00f2d99416842e6bf0d89a18cdf2855cee9871e9b948ed9691198f8e1#256 ++
  0x9e1dc186b95735610ef6034866b53e708a8bbd4b1f74dde8c6b4a61c2e2578ba#256 ++
  0x08ae7a65eaf4566ca94ed58d6d37c8e779e4959162acd3c25c2406490a3a32e0#256 ++
  0xdb0b5ede14b8ee4688902a22dc4f816073195d643d7ea7c41744975fec130ccd#256 ++
  0xd2f3ff1021dab6bcf5389d928f40a351a89f3c507f02f94585334d43fbaaefd0#256 ++
  0xcf584c4a39becb6a5bb1fc20ed00d153842fe329b3d63b52a05a6e1b1a2c8309#256 ++
  0x75b227ebe28012079a059618c323c7041531d871f1e5a534ccf73f362693fdb7#256 ++
  0xc072a49cafa2d4adf04759fa7dc982ca76abd7fe2b670130c56f6bf27b777c63#256
/-- Its inverse. -/
def invSboxTable : BitVec 2048 :=
  0x7d0c2155631469e126d677ba7e042b17619953833cbbebc8b0f52aae4d3be0a0#256 ++
  0xef9cc9939f7ae52d0d4ab519a97f51605fec8027591012b131c7078833a8dd1f#256 ++
  0xf45acd78fec0db9a2079d2c64b3e56fc1bbe18aa0e62b76f89c5291d711af147#256 ++
  0x6edf751ce837f9e28535ade72274ac9673e6b4f0cecff297eadc674f4111913a#256 ++
  0x6b8a130103bdafc1020f3fca8f1e2cd00645b3b80558e4f70ad3bc8c00abd890#256 ++
  0x849d8da75746155edab9edfd5048706c92b6655dcc5ca4d41698688664f6f872#256 ++
  0x25d18b6d49a25b76b224d92866a12e084ec3fa420b954cee3d23c2a632947b54#256 ++
  0xcbe9dec444438e3487ff2f9b8239e37cfbd7f3819ea340bf38a53630d56a0952#256
def sbox (b : Byte) : Byte := sboxTable.extractLsb' (8 * b.toNat) 8
def invSbox (b : Byte) : Byte := invSboxTable.extractLsb' (8 * b.toNat) 8

/-! The rounds, on 16 bytes: byte 4 × column + row. -/

def shiftRows (s : List Byte) : List Byte := (List.range 16).map fun i => s.getD (4 * ((i / 4 + i % 4) % 4) + i % 4) 0
def invShiftRows (s : List Byte) : List Byte := (List.range 16).map fun i => s.getD (4 * ((i / 4 + 4 - i % 4) % 4) + i % 4) 0
/-- Each column multiplied by the circulant matrix of a row of coefficients. -/
def mixWith (k : List Byte) (s : List Byte) : List Byte :=
  (List.range 16).map fun i => (List.range 4).foldl (fun (x : Byte) j => x ^^^ gmul (s.getD (i / 4 * 4 + j) 0) (k.getD ((j + 4 - i % 4) % 4) 0)) 0
def mixColumns : List Byte → List Byte := mixWith [2, 3, 1, 1]
def invMixColumns : List Byte → List Byte := mixWith [14, 11, 13, 9]
def xorBytes (a b : List Byte) : List Byte := List.zipWith (· ^^^ ·) a b

/-! The key schedule: 60 words of 4 bytes. -/

/-- The words so far, the newest first. -/
def keyStep (w : List (List Byte)) (i : Nat) : List (List Byte) :=
  let t := w.headD []
  let u := if i % 8 = 0 then
      match (t.drop 1 ++ t.take 1).map sbox with
      | b :: r => (b ^^^ (1#8 <<< (i / 8 - 1))) :: r
      | [] => []
    else if i % 8 = 4 then t.map sbox else t
  xorBytes (w.getD 7 []) u :: w
/-- The 15 round keys, in order. -/
def roundKeys (key : List Byte) : List (List Byte) :=
  let first := ((List.range 8).map fun i => (key.drop (4 * i)).take 4).reverse
  let ws := (((List.range 52).map (· + 8)).foldl keyStep first).reverse
  (List.range 15).map fun r => ((ws.drop (4 * r)).take 4).flatten

def aesEnc (key b : List Byte) : List Byte :=
  let ks := roundKeys key
  let s := ((ks.drop 1).take 13).foldl (fun s k => xorBytes (mixColumns (shiftRows (s.map sbox))) k) (xorBytes b (ks.headD []))
  xorBytes (shiftRows (s.map sbox)) (ks.getD 14 [])
def aesDec (key b : List Byte) : List Byte :=
  let ks := (roundKeys key).reverse
  let s := ((ks.drop 1).take 13).foldl (fun s k => invMixColumns (xorBytes ((invShiftRows s).map invSbox) k)) (xorBytes b (ks.headD []))
  xorBytes ((invShiftRows s).map invSbox) (ks.getD 14 [])

/-! XTS, on a data unit of one block. -/

/-- The mask of a sector: its number encrypted under the second key. -/
def xtsMask (key : List Byte) (sector : Nat) : List Byte := aesEnc (key.drop 32) (toBytes (BitVec.ofNat 128 sector) 16)
def xtsEnc (key : List Byte) (sector : Nat) (b : List Byte) : List Byte :=
  let t := xtsMask key sector
  xorBytes (aesEnc (key.take 32) (xorBytes b t)) t
def xtsDec (key : List Byte) (sector : Nat) (b : List Byte) : List Byte :=
  let t := xtsMask key sector
  xorBytes (aesDec (key.take 32) (xorBytes b t)) t

/-- A sector written under one key and read under another: the stored bytes decrypted with the other (12 R290, 15 R347). -/
def crossKey (wr rd : BitVec 512) (sector : Nat) (v : BitVec 128) : BitVec 128 :=
  ofBytes 128 (xtsDec (toBytes rd 64) sector (xtsEnc (toBytes wr 64) sector (toBytes v 16)))

end Sys2Proof.Machine
end

