-- ==== Sys2Proof/Syntax.lean ====
section
/-! DEFINITION. The instruction table as syntax: operand selects, operand shapes, what events carry, and Instr. -/

namespace Sys2Proof

/-- A source select (03 R67). -/
inductive Sel where
  | w (i : Fin 8)
  | inp (i : Fin 4)
  | h (i : Fin 4)
  | k (i : Fin 16)
  deriving DecidableEq, Repr

/-- A destination select (03 R68). -/
inductive Dst where
  | w (i : Fin 8)
  | h (i : Fin 4)
  | out (i : Fin 4)
  | pr
  | nul
  deriving DecidableEq, Repr

/-- The out-tag rule (03 R69). -/
inductive TagRule where
  | ofA | ofB | zero | next
  deriving DecidableEq, Repr

/-- The element type of a typed integer group (03 R75). -/
inductive ITy where
  | i8 | i16 | i32 | i64
  deriving DecidableEq, Repr

/-- The element type of a typed float group (03 R75). -/
inductive FTy where
  | b8 | bf16 | f16 | f32
  deriving DecidableEq, Repr

/-- Shape O (03 R71). -/
structure OpO where
  x : Dst
  y : Dst
  t : TagRule
  deriving DecidableEq, Repr
/-- Shape I. -/
structure OpI where
  b : Fin 32
  x : Dst
  y : Dst
  t : TagRule
  deriving DecidableEq, Repr
/-- Shape U. -/
structure OpU where
  a : Sel
  x : Dst
  y : Dst
  p : Bool
  t : TagRule
  deriving DecidableEq, Repr
/-- Shape B. -/
structure OpB where
  a : Sel
  b : Sel
  x : Dst
  y : Dst
  p : Bool
  q : Bool
  t : TagRule
  deriving DecidableEq, Repr
/-- Shape BW: x names the wide register read as the third operand. -/
structure OpBW where
  a : Sel
  b : Sel
  x : Fin 8
  y : Dst
  p : Bool
  q : Bool
  t : TagRule
  deriving DecidableEq, Repr
/-- Shape UI. -/
structure OpUI where
  a : Sel
  b : Fin 32
  x : Dst
  y : Dst
  p : Bool
  t : TagRule
  deriving DecidableEq, Repr
/-- Shape UF. -/
structure OpUF where
  a : Sel
  x : Dst
  y : Fin 32
  p : Bool
  t : TagRule
  deriving DecidableEq, Repr
/-- Shape BF. -/
structure OpBF where
  a : Sel
  b : Sel
  x : Dst
  y : Fin 32
  p : Bool
  q : Bool
  t : TagRule
  deriving DecidableEq, Repr
/-- Shape UIF. -/
structure OpUIF where
  a : Sel
  b : Fin 32
  x : Dst
  y : Fin 32
  p : Bool
  t : TagRule
  deriving DecidableEq, Repr
/-- Shape UIW. -/
structure OpUIW where
  a : Sel
  b : Fin 32
  x : Fin 8
  y : Fin 32
  p : Bool
  t : TagRule
  deriving DecidableEq, Repr
/-- Shape KU. -/
structure OpKU where
  a : Sel
  p : Bool
  deriving DecidableEq, Repr
/-- Shape KB. -/
structure OpKB where
  a : Sel
  b : Sel
  p : Bool
  q : Bool
  deriving DecidableEq, Repr
/-- Shape KI. -/
structure OpKI where
  a : Sel
  b : Fin 32
  p : Bool
  deriving DecidableEq, Repr
/-- Shape KF. -/
structure OpKF where
  a : Sel
  y : Fin 32
  p : Bool
  deriving DecidableEq, Repr
/-- Shape NIF. -/
structure OpNIF where
  b : Fin 32
  y : Fin 32
  deriving DecidableEq, Repr
/-- Shape BN: n is the count field, the slots requested minus 1. -/
structure OpBN where
  h : Fin 4
  n : Fin 512
  deriving DecidableEq, Repr
/-- Shape PF. -/
structure OpPF where
  a : Fin 32
  b : Fin 32
  y : Fin 32
  deriving DecidableEq, Repr
/-- Shape PO: x names an out port. -/
structure OpPO where
  a : Sel
  b : Sel
  x : Fin 4
  p : Bool
  q : Bool
  t : TagRule
  deriving DecidableEq, Repr
/-- Shape SF. -/
structure OpSF where
  a : Sel
  b : Sel
  y : Fin 32
  p : Bool
  q : Bool
  t : TagRule
  deriving DecidableEq, Repr

/-- Pilot format PR with three register fields (03 R79). -/
structure OpR3 where
  d : Fin 32
  a : Fin 32
  b : Fin 32
  deriving DecidableEq, Repr
/-- Format PR with gd and ga. -/
structure OpR2 where
  d : Fin 32
  a : Fin 32
  deriving DecidableEq, Repr
/-- Format PR with ga alone. -/
structure OpRA where
  a : Fin 32
  deriving DecidableEq, Repr
/-- Format PR with ga and gb. -/
structure OpRAB where
  a : Fin 32
  b : Fin 32
  deriving DecidableEq, Repr
/-- Format PI. -/
structure OpI14 where
  d : Fin 32
  a : Fin 32
  i : BitVec 14
  deriving DecidableEq, Repr
/-- The shift kinds of shi (03 R80); kind 11 is illegal. -/
inductive ShKind where
  | sll | srl | sra
  deriving DecidableEq, Repr
/-- Format PI of shi. -/
structure OpShi where
  d : Fin 32
  a : Fin 32
  k : ShKind
  n : Fin 64
  deriving DecidableEq, Repr
/-- Formats PU and PJ: a register and 19 bits. -/
structure OpI19 where
  d : Fin 32
  i : BitVec 19
  deriving DecidableEq, Repr
/-- The sizes of format PM (03 R81). -/
inductive MemSz where
  | b | bu | h | hu | w | wu | d | q
  deriving DecidableEq, Repr
/-- Format PM. -/
structure OpMem where
  d : Fin 32
  a : Fin 32
  z : MemSz
  o : BitVec 11
  deriving DecidableEq, Repr
/-- The atomic operations (03 R84, 08 R203). -/
inductive Aop where
  | add | min | max | minu | maxu | and | or | xor | xchg | cas | tas | incw
  deriving DecidableEq, Repr
/-- Format PR of amo: rel, acq, the size (true for 64 bits) and the operation (03 R84). -/
structure OpAmo where
  d : Fin 32
  a : Fin 32
  b : Fin 32
  rel : Bool
  acq : Bool
  dw : Bool
  op : Aop
  deriving DecidableEq, Repr
/-- Format PB. -/
structure OpBr where
  a : Fin 32
  b : Fin 32
  o : BitVec 14
  deriving DecidableEq, Repr
/-- Format PC, kind rd. -/
structure OpCsrR where
  d : Fin 32
  c : BitVec 12
  deriving DecidableEq, Repr
/-- Format PC, the writing kinds. -/
structure OpCsrW where
  a : Fin 32
  c : BitVec 12
  deriving DecidableEq, Repr

/-- A store from which berths are granted (10 R251): a cell's store, by the cell's place, or a quay's berth ways. -/
inductive StoreId where
  | cell (c : Nat)
  | quay (q : Nat)
  deriving DecidableEq, Repr

/-- A request for slots, or for a channel element, as it travels and waits (10 R261). `src` and `fctx` name the
handle's cell and context, `lat` is the latency of its route, `toks` the tokens staged by CHW, CHPUT or a pushed frame,
`owner` the region that made it. -/
structure BReq where
  kind : Nat
  who : BitVec 16
  src : Nat
  fctx : Nat
  hnd : Nat
  cnt : Nat
  dctx : Nat
  dport : Nat
  mrk : Bool
  chan : Nat
  rank : Nat
  lat : Nat
  owner : Nat
  toks : List Token
  deriving DecidableEq, Repr

/-- A grant on its way back to its requester (10 R257, R258). -/
structure Grant where
  dst : Nat
  ctx : Nat
  hnd : Nat
  rd : Nat
  len : Nat
  base : Nat
  tgt : Nat
  tctx : Nat
  tport : Nat
  owner : Nat
  deriving DecidableEq, Repr

/-- What a strip's beacon port sends to the root in one clk on one channel (14 R329). -/
structure BcnMsg where
  ch : Nat
  strip : Nat
  count : Nat
  vand : Word
  vor : Word
  vmax : Word
  deriving DecidableEq, Repr

/-- A release on its way to a strip (14 R330). -/
structure BcnRel where
  ch : Nat
  gen : Word
  vand : Word
  vor : Word
  vmax : Word
  deriving DecidableEq, Repr

/-- A PCIe function of the module (17 R377). -/
inductive HostFn where
  | pf
  | vf (n : Nat)
  deriving DecidableEq, Repr

/-- A row of the Seaway, its authentication tag already judged (17 R386). -/
structure SwRow where
  pkg : Nat
  port : Nat
  part : Nat
  kind : Nat
  last : Bool
  chan : Nat
  num : Nat
  off : Nat
  toks : List Token
  tagOk : Bool
  deriving DecidableEq, Repr

/-- What a receive-table entry names (17 R388): a local channel, or a remote-write window and its completion word. -/
inductive RxTarget where
  | channel (part : Nat) (ch : Nat)
  | window (part : Nat) (vd : Nat) (base : DWord) (len : Nat) (cword : DWord)
  deriving DecidableEq, Repr

/-- A unit whose errors are counted (16 R370). -/
inductive HwUnit where
  | row (strip row : Nat)
  | strip (n : Nat)
  | pilot (strip : Nat)
  | slice (q : Nat)
  | hbm (stack : Nat)
  | causeway (strip : Nat)
  | port (n : Nat)
  | store (c slot : Nat)
  | regs (c : Nat)
  | sector (pa : Nat)
  deriving DecidableEq, Repr

/-- What the management controller sets when it forms a partition (15 R332, 01 R36). -/
structure PartDesc where
  first : Nat
  count : Nat
  colour : BitVec 4
  mask : BitVec 4
  channels : Word
  ranges : List (Nat × Nat)
  allot : List Nat
  closed : Bool
  sup : Nat
  deriving DecidableEq, Repr

/-- The place maps of a partition (15 R336): the first strip of its strip map and its row maps. -/
structure PlaceMaps where
  first : Nat
  rows : List (Nat × BitVec 98)
  deriving DecidableEq, Repr

/-- What the management controller sets when it creates a virtual device (15 R338, 01 R35); `vf` none is the physical
function. -/
structure VdDesc where
  vf : Option Nat
  keys : DWord
  root : Option (BitVec 52)
  saveBase : DWord
  saveSize : Word
  quota : Word
  ways : BitVec 4
  deriving DecidableEq, Repr

/-- What the management controller sets when a strip comes online in a partition (15 R335 step 3). -/
structure OnlineDesc where
  part : Option Nat
  bwN : Nat
  bwS : Nat
  pc : DWord
  vdid : BitVec 3
  deriving DecidableEq, Repr

/-- A staged firmware image (17 R391): its security version, its hash and whether its signature verifies. -/
structure FwImage where
  ver : Nat
  hash : BitVec 384
  sigOk : Bool
  deriving DecidableEq, Repr


/-- The instruction and event table: one constructor for each row of the opcode table (03 R74 to R85;
95 lists what each step holds). A cell instruction carries the fields of its operand shape (03 R71), a pilot
instruction those of its format (03 R79), an event the unit it happens at and what it carries. -/
inductive Instr where
  /-- MOV (R123). Copies source A to one or two destinations. -/
  | mov (o : OpU)
  /-- SEL (R124). Selects token A or token B by a predicate, or lane by lane by the predicates. -/
  | sel (o : OpBF)
  /-- LANE (R125). Broadcasts one lane of A to every lane. -/
  | lane (o : OpUF)
  /-- PERM (R125). Permutes the bytes of A by the byte indices held in B. -/
  | perm (o : OpB)
  /-- AND (R123). Bitwise AND of A and B over 256 bits. -/
  | and (o : OpB)
  /-- OR (R123). Bitwise OR of A and B over 256 bits. -/
  | or (o : OpB)
  /-- XOR (R123). Bitwise XOR of A and B over 256 bits. -/
  | xor (o : OpB)
  /-- ANDN (R123). Computes A AND NOT B over 256 bits. -/
  | andn (o : OpB)
  /-- BFX (R126). Extracts a bit field from each 32-bit lane and zero-extends it. -/
  | bfx (o : OpUIF)
  /-- BFI (R126). Inserts a bit field of A into each lane of the wide register W. -/
  | bfi (o : OpUIW)
  /-- POPC (R123). Counts the set bits of each 32-bit lane. -/
  | popc (o : OpU)
  /-- CLZ (R123). Counts the leading zeros of each 32-bit lane. -/
  | clz (o : OpU)
  /-- PACK (R127). Narrows the elements of two tokens into one token, truncating or saturating. -/
  | pack (o : OpBF)
  /-- UNPK (R127). Widens half of a token, with zero or sign extension. -/
  | unpk (o : OpUF)
  /-- ADD (R128). Adds the integer elements of A and B with wraparound. -/
  | add (e : ITy) (o : OpB)
  /-- SUB (R128). Subtracts the integer elements with wraparound. -/
  | sub (e : ITy) (o : OpB)
  /-- ADDS (R128). Adds signed integer elements with saturation. -/
  | adds (e : ITy) (o : OpB)
  /-- SUBS (R128). Subtracts signed integer elements with saturation. -/
  | subs (e : ITy) (o : OpB)
  /-- MUL (R128). Gives the low half of the element products. -/
  | mul (e : ITy) (o : OpB)
  /-- MULH (R128). Gives the high half of the signed element products. -/
  | mulh (e : ITy) (o : OpB)
  /-- MULHU (R128). Gives the high half of the unsigned element products. -/
  | mulhu (e : ITy) (o : OpB)
  /-- MAD (R128). Computes W plus A times B with wraparound, into W. -/
  | mad (e : ITy) (o : OpBW)
  /-- MIN (R128). Gives the signed minimum of each element pair. -/
  | min (e : ITy) (o : OpB)
  /-- MAX (R128). Gives the signed maximum of each element pair. -/
  | max (e : ITy) (o : OpB)
  /-- MINU (R128). Gives the unsigned minimum of each element pair. -/
  | minu (e : ITy) (o : OpB)
  /-- MAXU (R128). Gives the unsigned maximum of each element pair. -/
  | maxu (e : ITy) (o : OpB)
  /-- ABS (R128). Gives the saturated absolute value of each element. -/
  | abs (e : ITy) (o : OpU)
  /-- SHL (R128). Shifts each element left by the unsigned count in B. -/
  | shl (e : ITy) (o : OpB)
  /-- SHR (R128). Shifts each element right logically. -/
  | shr (e : ITy) (o : OpB)
  /-- SHA (R128). Shifts each element right arithmetically. -/
  | sha (e : ITy) (o : OpB)
  /-- CMPEQ (R128). Sets each element to all ones when the two elements are equal, and to zero otherwise. -/
  | cmpeq (e : ITy) (o : OpB)
  /-- CMPLT (R128). Compares elements for signed less-than. -/
  | cmplt (e : ITy) (o : OpB)
  /-- CMPLTU (R128). Compares elements for unsigned less-than. -/
  | cmpltu (e : ITy) (o : OpB)
  /-- CMPLE (R128). Compares elements for signed less-or-equal. -/
  | cmple (e : ITy) (o : OpB)
  /-- FADD (R130). Adds float elements with one rounding. -/
  | fadd (e : FTy) (o : OpB)
  /-- FSUB (R130). Subtracts float elements with one rounding. -/
  | fsub (e : FTy) (o : OpB)
  /-- FMUL (R130). Multiplies float elements with one rounding. -/
  | fmul (e : FTy) (o : OpB)
  /-- FFMA (R130). Computes a times b plus w with one rounding, into W. -/
  | ffma (e : FTy) (o : OpBW)
  /-- FMIN (R132). Gives the float minimum, with NaN handling. -/
  | fmin (e : FTy) (o : OpB)
  /-- FMAX (R132). Gives the float maximum, with NaN handling. -/
  | fmax (e : FTy) (o : OpB)
  /-- FCMPEQ (R132). Compares float elements for equality as a bit mask. -/
  | fcmpeq (e : FTy) (o : OpB)
  /-- FCMPLT (R132). Compares float elements for less-than as a bit mask. -/
  | fcmplt (e : FTy) (o : OpB)
  /-- FCMPLE (R132). Compares float elements for less-or-equal as a bit mask. -/
  | fcmple (e : FTy) (o : OpB)
  /-- FRCP (R133). Computes the reciprocal of each float element. -/
  | frcp (e : FTy) (o : OpU)
  /-- FRSQ (R133). Computes the reciprocal square root of each float element. -/
  | frsq (e : FTy) (o : OpU)
  /-- FEXP2 (R133). Computes 2 to the power of each float element. -/
  | fexp2 (e : FTy) (o : OpU)
  /-- FLOG2 (R133). Computes the base-2 logarithm in the float format given by y. -/
  | flog2 (o : OpUF)
  /-- FCVT (R135). Converts elements between formats, at least one of which is a float format. -/
  | fcvt (o : OpUIF)
  /-- ICVT (R135). Converts elements between two integer formats with saturation. -/
  | icvt (o : OpUIF)
  /-- FSUMR (R137). Sums the float elements of A in a fixed pairwise tree. -/
  | fsumr (o : OpUF)
  /-- FMAXR (R137). Reduces the float elements of A to their maximum. -/
  | fmaxr (o : OpUF)
  /-- ISUMR (R137). Sums the integer elements exactly and saturates the sum to 64 bits. -/
  | isumr (o : OpUF)
  /-- IMAXR (R137). Reduces the integer elements of A to their maximum. -/
  | imaxr (o : OpUF)
  /-- FSCL (R136). Scales float elements by a power of two taken from B. -/
  | fscl (o : OpBF)
  /-- PSET (R138). Sets predicates from the lanes of A. -/
  | pset (o : OpKF)
  /-- PLOG (R139). Combines two predicates into a third. -/
  | plog (o : OpPF)
  /-- PTST (R140). Turns one predicate, or all eight, into a token. -/
  | ptst (o : OpI)
  /-- BERTH (R143). Requests n contiguous slots in the target ring of out port N. -/
  | berth (o : OpBN)
  /-- CAST (R146). Pops one or two in-port heads without writing anything. -/
  | cast (o : OpKB)
  /-- PUT (R145). Writes A at an explicit offset of the berth of oN. -/
  | put (o : OpPO)
  /-- GET (R147). Reads a store slot or berth-way slot by address, ignoring full/empty bits. -/
  | get (o : OpU)
  /-- GETF (R147). Reads a slot by address once all its full/empty bits are full. -/
  | getf (o : OpU)
  /-- TAG (R148). Writes the payload of A with a tag built from B. -/
  | tag (o : OpB)
  /-- MARK (R149). Writes the payload of A as a marker of level L. -/
  | mark (o : OpUI)
  /-- SEQ (R150). Draws the next tag of the tag window and attaches it to A. -/
  | seq (o : OpU)
  /-- ORD (R151). Retires the oldest outstanding tag and passes its token on in draw order. -/
  | ord (o : OpU)
  /-- STEER (R152). Writes A to the out port chosen by B, or a marker to every masked port. -/
  | steer (o : OpSF)
  /-- MERGE (R153). Passes on a data token from whichever of two ports holds one. -/
  | merge (o : OpB)
  /-- SWITCH (R155). Makes a switch to a target context pending. -/
  | switch (o : OpKU)
  /-- DLY (R158). Schedules a write of A after a delay computed from a code. -/
  | dly (o : OpUF)
  /-- RACE (R159). Emits the k latched indices of a race round and resets the latch. -/
  | race (o : OpUI)
  /-- BSTAT (R160). Writes a snapshot of selected cell state. -/
  | bstat (o : OpI)
  /-- EVT (R161). Posts a user-event record to the supervisor's event queue. -/
  | evt (o : OpKI)
  /-- BCARR (R166). Sets the cell's arrival bit and sends a beacon arrival, optionally drained. -/
  | bcarr (o : OpNIF)
  /-- BCWT (R166). Writes the beacon generation once the cell's arrival bit is clear. -/
  | bcwt (o : OpI)
  /-- BCPUT (R168). Broadcasts a 64-bit value on a beacon channel. -/
  | bcput (o : OpKI)
  /-- BCGET (R168). Reads the strip's broadcast value and count without waiting. -/
  | bcget (o : OpI)
  /-- BCRED (R167). Sends an arrival carrying a value and receives the reduction result later. -/
  | bcred (o : OpUIF)
  /-- GEN (R163). Emits the next token or pending marker of the abacus stream. -/
  | gen (o : OpO)
  /-- WID (R164). Reads the abacus without stepping it. -/
  | wid (o : OpI)
  /-- TRAP (R162). Completes its firing, then stops the cell with the program trap. -/
  | trap (o : OpKI)
  /-- MXHDR (R176). Applies a tile header to the weight decoder. -/
  | mxhdr (o : OpKU)
  /-- MXLD (R178). Loads one column of the stationary weight block. -/
  | mxld (o : OpKI)
  /-- MXROW (R180). Fires one activation row or header through the matrix cell. -/
  | mxrow (o : OpU)
  /-- MXDRN (R184). Starts the drain of a complete accumulator tile to an out port. -/
  | mxdrn (o : OpKU)
  /-- MXCFG (R177). Writes cfmt, the tile shape or both decoders. -/
  | mxcfg (o : OpKF)
  /-- QLD (R198). Issues a 32-byte read through a frame handle. -/
  | qld (o : OpB)
  /-- QST (R199). Issues a 32-byte store through a frame handle, with a word mask. -/
  | qst (o : OpB)
  /-- QLDS (R201). Issues a stream read at the address the abacus gives, or writes a pending marker. -/
  | qlds (o : OpUI)
  /-- QSTS (R201). Issues a stream store at the address the abacus gives, or writes a pending marker. -/
  | qsts (o : OpUI)
  /-- QLDF (R202). Reads a berth-way slot once its selected words are full. -/
  | qldf (o : OpB)
  /-- QSTF (R202). Writes words of a berth-way slot and sets them full. -/
  | qstf (o : OpB)
  /-- QATM (R203). Issues an atomic operation at the home slice through a handle. -/
  | qatm (o : OpBF)
  /-- QCPY (R204). Copies n bytes from a source handle to a destination handle. -/
  | qcpy (o : OpBF)
  /-- XLAT (R192). Fills a frame-window entry from a finished translation and returns a handle. -/
  | xlat (o : OpU)
  /-- HAND (R208). Passes an owned-region descriptor to another quay cell of the region. -/
  | hand (o : OpUI)
  /-- QFLS (R209). Flushes the coalescing buffer, with a result once earlier writes complete. -/
  | qfls (o : OpU)
  /-- QPF (R205). Requests that a range of lines be brought into the LLC. -/
  | qpf (o : OpKB)
  /-- CHW (R211). Writes the next token of the writer's current channel element. -/
  | chw (o : OpB)
  /-- CHR (R212). Requests the next token of the channel element at the read index. -/
  | chr (o : OpU)
  /-- CHCL (R213). Sets the closed flag of a channel. -/
  | chcl (o : OpKU)
  /-- CHST (R214). Requests a snapshot of a channel table entry. -/
  | chst (o : OpU)
  /-- BLKMAP (R215). Fills a frame-window entry from a block map lookup. -/
  | blkmap (o : OpB)
  /-- BLKREF (R216). Requests an increment of a block's reference count. -/
  | blkref (o : OpU)
  /-- BLKREL (R216). Requests a decrement of a block's count, freeing its frame at zero. -/
  | blkrel (o : OpU)
  /-- QCMPL (R209). Flushes and waits for every earlier request of the cell to complete before its result. -/
  | qcmpl (o : OpU)
  /-- ALU_ADD (R228). Pilot 64-bit add. -/
  | aluAdd (o : OpR3)
  /-- ALU_SUB (R228). Pilot 64-bit subtract. -/
  | aluSub (o : OpR3)
  /-- ALU_AND (R228). Pilot bitwise AND. -/
  | aluAnd (o : OpR3)
  /-- ALU_OR (R228). Pilot bitwise OR. -/
  | aluOr (o : OpR3)
  /-- ALU_XOR (R228). Pilot bitwise XOR. -/
  | aluXor (o : OpR3)
  /-- ALU_ANDN (R228). Pilot x AND NOT y. -/
  | aluAndn (o : OpR3)
  /-- ALU_SLL (R228). Pilot shift left logical. -/
  | aluSll (o : OpR3)
  /-- ALU_SRL (R228). Pilot shift right logical. -/
  | aluSrl (o : OpR3)
  /-- ALU_SRA (R228). Pilot shift right arithmetic. -/
  | aluSra (o : OpR3)
  /-- ALU_SLT (R228). Pilot set if signed less than. -/
  | aluSlt (o : OpR3)
  /-- ALU_SLTU (R228). Pilot set if unsigned less than. -/
  | aluSltu (o : OpR3)
  /-- ALU_MIN (R228). Pilot signed minimum. -/
  | aluMin (o : OpR3)
  /-- ALU_MAX (R228). Pilot signed maximum. -/
  | aluMax (o : OpR3)
  /-- ALU_MINU (R228). Pilot unsigned minimum. -/
  | aluMinu (o : OpR3)
  /-- ALU_MAXU (R228). Pilot unsigned maximum. -/
  | aluMaxu (o : OpR3)
  /-- ALU_MUL (R228). Pilot low 64 bits of a product. -/
  | aluMul (o : OpR3)
  /-- ALU_MULH (R228). Pilot signed high product. -/
  | aluMulh (o : OpR3)
  /-- ALU_MULHU (R228). Pilot unsigned high product. -/
  | aluMulhu (o : OpR3)
  /-- ALU_DIV (R228). Pilot signed division truncated toward zero. -/
  | aluDiv (o : OpR3)
  /-- ALU_DIVU (R228). Pilot unsigned division. -/
  | aluDivu (o : OpR3)
  /-- ALU_REM (R228). Pilot signed remainder. -/
  | aluRem (o : OpR3)
  /-- ALU_REMU (R228). Pilot unsigned remainder. -/
  | aluRemu (o : OpR3)
  /-- ALU_CLZ (R228). Pilot count of leading zeros. -/
  | aluClz (o : OpR2)
  /-- ALU_CTZ (R228). Pilot count of trailing zeros. -/
  | aluCtz (o : OpR2)
  /-- ALU_POPC (R228). Pilot count of set bits. -/
  | aluPopc (o : OpR2)
  /-- ADDI (R229). Adds a sign-extended immediate. -/
  | addi (o : OpI14)
  /-- ANDI (R229). ANDs with a zero-extended immediate. -/
  | andi (o : OpI14)
  /-- ORI (R229). ORs with a zero-extended immediate. -/
  | ori (o : OpI14)
  /-- XORI (R229). XORs with a zero-extended immediate. -/
  | xori (o : OpI14)
  /-- SHI (R229). Shifts by an immediate amount of a selected kind. -/
  | shi (o : OpShi)
  /-- SLTI (R229). Sets if less than a signed immediate. -/
  | slti (o : OpI14)
  /-- SLTIU (R229). Sets if less than an unsigned immediate. -/
  | sltiu (o : OpI14)
  /-- LUI (R229). Loads an immediate times 2^14. -/
  | lui (o : OpI19)
  /-- ADPC (R229). Forms an address relative to the 16 KiB page of the instruction. -/
  | adpc (o : OpI19)
  /-- LD (R232). Loads through the L1 data cache. -/
  | ld (o : OpMem)
  /-- ST (R232). Stores through to the home slice. -/
  | st (o : OpMem)
  /-- LDX (R232). Loads with an ordered read at the home slice, bypassing the L1. -/
  | ldx (o : OpMem)
  /-- AMO (R233). Performs an atomic operation at the home slice. -/
  | amo (o : OpAmo)
  /-- BEQ (R230). Branches if equal. -/
  | beq (o : OpBr)
  /-- BNE (R230). Branches if not equal. -/
  | bne (o : OpBr)
  /-- BLT (R230). Branches if signed less. -/
  | blt (o : OpBr)
  /-- BGE (R230). Branches if signed greater or equal. -/
  | bge (o : OpBr)
  /-- BLTU (R230). Branches if unsigned less. -/
  | bltu (o : OpBr)
  /-- BGEU (R230). Branches if unsigned greater or equal. -/
  | bgeu (o : OpBr)
  /-- JAL (R230). Jumps relative to pc and links. -/
  | jal (o : OpI19)
  /-- JALR (R230). Jumps to a register plus an offset and links. -/
  | jalr (o : OpI14)
  /-- SYS_TRAP (R236). Raises trap 0x09 or 0x0A with tval taken from a register. -/
  | sysTrap (o : OpRA)
  /-- SYS_TLBINV (R238). Removes translations, with their frame-window entries, and waits for the accesses that used them. -/
  | sysTlbinv (o : OpRAB)
  /-- CSR_RD (R223). Reads a CSR. -/
  | csrRd (o : OpCsrR)
  /-- CSR_WR (R223). Writes a CSR. -/
  | csrWr (o : OpCsrW)
  /-- CSR_SET (R223). Sets bits of a CSR. -/
  | csrSet (o : OpCsrW)
  /-- CSR_CLR (R223). Clears bits of a CSR. -/
  | csrClr (o : OpCsrW)
  /-- FAB_RLOAD (R242). Checks a region load and starts streaming its images. -/
  | fabRload (o : OpR3)
  /-- FAB_RSTART (R242). Stitches a region if needed and sets it RUNNING. -/
  | fabRstart (o : OpR2)
  /-- FAB_RSTOP (R242). Settle-halts a running region. -/
  | fabRstop (o : OpR2)
  /-- FAB_RSAVE (R242). Starts saving a stopped region to the save area. -/
  | fabRsave (o : OpR3)
  /-- FAB_RREST (R242). Starts restoring or reloading a saved region. -/
  | fabRrest (o : OpR3)
  /-- FAB_RKILL (R242). Halts a region without saving and starts freeing its resources. -/
  | fabRkill (o : OpR2)
  /-- FAB_RPLACE (R242). Sets a new origin for a saved region. -/
  | fabRplace (o : OpR3)
  /-- FAB_RSTAT (R242). Returns the state, stopped quay cells and save size of a region. -/
  | fabRstat (o : OpR2)
  /-- CHN_CHOPEN (R244). Opens a channel from a descriptor. -/
  | chnChopen (o : OpR2)
  /-- CHN_CHCLOSE (R244). With the free bit clear, sets a channel's closed flag. -/
  | chnChclose (o : OpR3)
  /-- CHN_CHPUT (R244). Writes one element into a channel from memory, as the registered writer. -/
  | chnChput (o : OpR3)
  /-- CHN_CHTAKE (R244). Takes one element from a channel into memory, as the registered reader. -/
  | chnChtake (o : OpR3)
  /-- CHN_CHSTAT (R244). Writes a channel snapshot and the remaining basin quota to memory. -/
  | chnChstat (o : OpR3)
  /-- BCN_ARRIVE (R245). Sends a pilot beacon arrival. -/
  | bcnArrive (o : OpRA)
  /-- BCN_WAIT (R245). Waits for the pilot's arrival to be released and returns the generation. -/
  | bcnWait (o : OpR3)
  /-- BCN_CAST (R245). Broadcasts a 64-bit value on a beacon channel. -/
  | bcnCast (o : OpR3)
  /-- BCN_READ (R245). Returns the strip's broadcast value and count. -/
  | bcnRead (o : OpR3)
  /-- BCN_REDUCE_AND (R245). Sends an arrival carrying a value for AND reduction. -/
  | bcnReduceAnd (o : OpRAB)
  /-- BCN_REDUCE_OR (R245). Sends an arrival carrying a value for OR reduction. -/
  | bcnReduceOr (o : OpRAB)
  /-- BCN_REDUCE_MAX (R245). Sends an arrival carrying a value for MAX reduction. -/
  | bcnReduceMax (o : OpRAB)
  /-- BCN_PREEMPT (R245). Sends the pre-emption signal and halts the running regions of a virtual device. -/
  | bcnPreempt (o : OpR3)
  /-- MAP_BLKREF (R246). Increments a block map count from a pilot. -/
  | mapBlkref (o : OpR3)
  /-- MAP_BLKREL (R246). Decrements a block map count from a pilot, pushing the frame at zero. -/
  | mapBlkrel (o : OpR3)
  /-- MAP_BLKSET (R246). Replaces a block map entry if its count equals the expected count. -/
  | mapBlkset (o : OpR3)
  /-- MAP_BLKGET (R246). Reads a block map entry into memory. -/
  | mapBlkget (o : OpR3)
  /-- QOS_SLSET (R247). Sets the sluice rate and depth of a virtual device and class. -/
  | qosSlset (o : OpR3)
  /-- QOS_SLGET (R247). Returns a sluice's rate and depth. -/
  | qosSlget (o : OpR2)
  /-- QOS_LEND (R247). Sets the lend and borrow bits of a sluice. -/
  | qosLend (o : OpR3)
  /-- EVQ_POP (R250). Copies out the oldest event record and advances evqhead. -/
  | evqPop (o : OpR2)
  /-- EVQ_PEEK (R250). Copies out the oldest event record without advancing evqhead. -/
  | evqPeek (o : OpR2)
  /-- EVQ_ACK (R250). Discards up to n records from the event queue. -/
  | evqAck (o : OpR2)
  /-- EVENT_INTERRUPT (R226). A pending event interrupt is taken before the next instruction, abandoning certain waits. -/
  | eventInterrupt (p : Nat)
  /-- WFE_TIMEOUT (R236). A WFE ends after 65,536 clk without any other event. -/
  | wfeTimeout (p : Nat)
  /-- PILOT_ACCESS_COMPLETE (R232). A pilot load reply or store or AMO acknowledgement returns from the home slice. `p` is the pilot and
  the access's number. -/
  | pilotAccessComplete (p : Nat × Nat)
  /-- TOKEN_ARRIVAL (R12). A token lands in its held ring slot with its tag and full/empty bits, and the arrival count rises. -/
  | tokenArrival (c ctx port slot : Nat) (t : Token)
  /-- MARKER_JOIN (R17). Markers at the heads of every marker-set port form a join of the lowest level. -/
  | markerJoin (c : Nat)
  /-- HARDWARE_MARKER_FORWARD (R18). The hardware writes the joined marker to every fan port, waiting for berths, and then completes the join. -/
  | hardwareMarkerForward (c : Nat)
  /-- COUNT_TRIGGER (R24). swcnt reaches the count-trigger value, making a switch to nctx pending. -/
  | countTrigger (c : Nat)
  /-- SWITCH_COMPLETION (R156). A pending switch completes once the level-7 join, empty rings and no deferred writes hold. -/
  | switchCompletion (c : Nat)
  /-- BERTH_REQUEST_ARRIVAL (R259). A berth request reaches an allocator and takes its place in the roadstead. -/
  | berthRequestArrival (st : StoreId) (r : BReq)
  /-- ROADSTEAD_ENTRY (R260). A request that waited on its link for a full roadstead enters as entries free. -/
  | roadsteadEntry (st : StoreId)
  /-- ALLOCATOR_GRANT (R257). The allocator grants the oldest grantable request for a ring, padding if needed. -/
  | allocatorGrant (c ctx port : Nat)
  /-- GRANT_ARRIVAL (R26). A berth grant reaches the requester and writes its handle. -/
  | grantArrival (g : Grant)
  /-- DLY_DEFERRED_WRITE (R158). A delayed token or value is written when its delay expires. -/
  | dlyDeferredWrite (c : Nat)
  /-- DRAIN_TOKEN_WRITE (R184). One drained token of a tile is written in each clk of a drain. -/
  | drainTokenWrite (c : Nat)
  /-- REGION_COMPLETION_EVENT (R20). A region drains once every drain cell has joined level 7 and its memory completions have returned. -/
  | regionCompletionEvent (r : Nat)
  /-- BEACON_ARRIVAL_AT_ROOT (R330). The arrivals and values of a strip reach the beacon root and are counted. -/
  | beaconArrivalAtRoot (m : BcnMsg)
  /-- RELEASE_AT_STRIP (R166). A release reaches a strip, clears its arrival bits, updates the generation copy and writes reduction results. -/
  | releaseAtStrip (strip : Nat) (r : BcnRel)
  /-- BROADCAST_AT_STRIP (R168). A broadcast reaches every strip holding the channel and replaces its value. -/
  | broadcastAtStrip (ch strip : Nat) (v : DWord)
  /-- EVENT_RECORD_POST (R248). A waiting record is posted at evqtail once the queue has room. -/
  | eventRecordPost (part : Nat)
  /-- TRANSLATION_START (R192). A translation starts at the quay's TLB when an XLAT or stream slot is otherwise eligible. -/
  | translationStart (c : Nat)
  /-- WALK_READ_REPLY (R354). The reply to one page-table level read arrives and the walk continues, finishes or fails. -/
  | walkReadReply (q k : Nat)
  /-- ACCESSED_DIRTY_UPDATE (R355). The walker's compare-and-swap setting A or D is served, or fails and the walk restarts. -/
  | accessedDirtyUpdate (q k : Nat)
  /-- FRAME_WINDOW_REFILL (R191). An invalid frame-window entry that has a source is refilled before use. -/
  | frameWindowRefill (c i : Nat)
  /-- BLOCK_MAP_LOOKUP (R215). A block map entry is read at its home slice before a BLKMAP firing. -/
  | blockMapLookup (c : Nat)
  /-- SLICE_SERVE (R291). A home slice serves one request to a sector, fixing its coherence order. -/
  | sliceServe (id : Nat)
  /-- REQUEST_COMPLETION (R195). A request completes and its deferred result is written to its reserved slot or register. -/
  | requestCompletion (id : Nat)
  /-- COALESCE_TIMEOUT (R197). A coalesced line is sent after 256 clk without a store to it. -/
  | coalesceTimeout (c line : Nat)
  /-- HAND_INSTALL (R208). After the old owner's writes complete, the descriptor is installed at the target and the result written. -/
  | handInstall (c : Nat)
  /-- FLUSH_RESULT (R209). The result of a QFLS or QCMPL is written once the requests it waits for have completed. -/
  | flushResult (c : Nat)
  /-- CHANNEL_ALLOCATION (R272). An element allocation is placed in the ring or the basin once grantable. -/
  | channelAllocation (ch : Nat)
  /-- CHANNEL_WRITE_TOKEN (R211). A channel token is written at the home quay and completes an element when it is the last. -/
  | channelWriteToken (ch : Nat)
  /-- CHANNEL_READ_SERVE (R212). The home quay serves a read request with the next token, or with an end marker when the channel is closed. -/
  | channelReadServe (ch : Nat)
  /-- BASIN_MOVE_START (R274). The home quay reserves a ring element and starts moving the oldest basin element. -/
  | basinMoveStart (ch : Nat)
  /-- BASIN_MOVE_LAND (R274). A moved element lands in the ring and the counts change. -/
  | basinMoveLand (ch : Nat)
  /-- BASIN_ACCESS_REISSUE (R277). A held basin access is reissued after the next TLBINV of the virtual device. -/
  | basinAccessReissue (ch : Nat)
  /-- SPLICE_COMPLETE (R276). The splice copy of a growth ends and the waiting basin work resumes. -/
  | spliceComplete (ch : Nat)
  /-- BLOCK_MAP_OP_SERVE (R216). A count change is judged and applied at the entry's home slice. -/
  | blockMapOpServe (id : Nat)
  /-- FREE_FRAME_PUSH (R216). A released frame is pushed onto the free-frame channel once there is room. -/
  | freeFramePush (ch : Nat)
  /-- DREDGER_ROUND (R281). Every 1,024 clk the dredger starts a sampling round. -/
  | dredgerRound (part : Nat)
  /-- DREDGER_SAMPLE (R280). Each strip takes its active and stalled bits when the sample request arrives. -/
  | dredgerSample (part : Nat)
  /-- DREDGER_RESULT (R282). The reduced bits reach the dredger, which updates counts and grows a channel or traps. -/
  | dredgerResult (part : Nat)
  /-- QUANTUM_EXPIRY (R310). A region's quantum counter reaches zero and a halt begins, unless the region drains. -/
  | quantumExpiry (r : Nat)
  /-- PREEMPT_SIGNAL (R364). A halt request reaches a strip on the fast plane and gates the affected cells. -/
  | preemptSignal (r : Nat)
  /-- READ_PHASE_END (R30). At p + 3,258 the reads still outstanding are cancelled and recorded. -/
  | readPhaseEnd (r : Nat)
  /-- HALT_COMPLETE (R364). A halt completes and the region becomes STOPPED. -/
  | haltComplete (r : Nat)
  /-- LOADING_END (R309). Every die acknowledges its images and the region becomes LOADED, or a load fault returns it to FREE. -/
  | loadingEnd (r : Nat)
  /-- SAVE_COMPLETE (R242). The save image is written, the cells are freed and the region becomes SAVED. -/
  | saveComplete (r : Nat)
  /-- RESTORE_COMPLETE (R242). A restore or reload finishes and the region becomes STOPPED, or SAVED on failure. -/
  | restoreComplete (r : Nat)
  /-- KILL_COMPLETE (R241). Cells, berths and roadstead entries are freed and the region becomes FREE. -/
  | killComplete (r : Nat)
  /-- ISOLATION_ERROR (R346). A flit with a mismatched partition id is discarded and counted. `u` is the unit and the flit's number. -/
  | isolationError (u : HwUnit × Nat)
  /-- SEAWAY_ROW_RECEIVE (R388). A receiving port checks a row and accepts it into a channel or a remote-write window. -/
  | seawayRowReceive (port : Nat) (row : SwRow)
  /-- PARKED_ROW_RETRY (R369). Parked rows are retried in order after the next TLBINV. `port` is the port
  and the virtual device. -/
  | parkedRowRetry (port : Nat × Nat)
  /-- REMOTE_WRITE_COMPLETION (R388). Once a descriptor's rows are served, the completion word is incremented atomically. -/
  | remoteWriteCompletion (port ch : Nat)
  /-- SEND_QUEUE_TAIL_STORE (R390). A store to a send queue's tail word is noticed by the port. -/
  | sendQueueTailStore (vd : Nat)
  /-- SEAWAY_ROW_SEND (R390). The port reads a descriptor and sends its rows under credits and the sluice. -/
  | seawayRowSend (vd : Nat)
  /-- ACKNOWLEDGEMENT_RECEIVE (R389). The sender accepts an acknowledgement, returns credits and releases kept rows. -/
  | acknowledgementReceive (port : Nat) (row : SwRow)
  /-- ILLEGAL_INSTRUCTION (R87). A pilot fetches a word that is not an instruction and takes the illegal-instruction trap. -/
  | illegalInstruction (p : Nat) (w : Word)
  /-- NOTIFY_WRITE (R302). A write to a virtual function's notify register posts a notify record. -/
  | notifyWrite (vf : Nat) (v : Word)
  /-- PFNOTIFY_WRITE (R378). A write to a pfnotify entry posts a notify record for that virtual device, or is dropped. -/
  | pfnotifyWrite (n : Nat) (v : Word)
  /-- HOST_MEMORY_READ (R380). A host read through BAR2 is translated and served as an ordered read. -/
  | hostMemoryRead (fn : HostFn) (off : Nat) (size : Nat)
  /-- HOST_MEMORY_WRITE (R380). A host posted write through BAR2 is translated and served, or dropped. -/
  | hostMemoryWrite (fn : HostFn) (off : Nat) (bytes : List Byte)
  /-- HOST_CHANNEL_WRITE (R381). A host write through the channel aperture writes one element, or is dropped. -/
  | hostChannelWrite (fn : HostFn) (off : Nat) (bytes : List Byte)
  /-- PFVD_WRITE (R382). Selects the virtual device that the physical function's BAR2 and BAR4 reach. -/
  | pfvdWrite (v : DWord)
  /-- SHADOW_COPY_START (R392). A write to shctl with start set begins a background copy. -/
  | shadowCopyStart (v : DWord)
  /-- HBLOSS_CLEAR (R378). A write of ones clears heartbeat-loss bits. -/
  | hblossClear (v : DWord)
  /-- DROPS_READ (R379). A read of a VF's drops returns and clears the count of dropped accesses. -/
  | dropsRead (vf : Nat)
  /-- REGISTER_WRITE (R378). A write to a PF register without behaviour of its own, such as ltol or the shadow addresses. -/
  | registerWrite (off : Nat) (v : DWord)
  /-- POWER_GOOD (R376). At power-good the module verifies firmware, trains HBM, initialises stores and enables link training. -/
  | powerGood (imagesOk : Bool)
  /-- POWER_STATE_ENTRY (R383). A unit enters the deepest power state that its conditions and the tolerance allow. -/
  | powerStateEntry (strip : Nat)
  /-- POWER_STATE_WAKE (R384). A wake event returns a unit to P0 within the exit latency. -/
  | powerStateWake (strip : Nat)
  /-- GET_VERSION (R351). SPDM request to a die's responder. -/
  | getVersion (die : Nat)
  /-- GET_CAPABILITIES (R351). SPDM request to a die's responder. -/
  | getCapabilities (die : Nat)
  /-- NEGOTIATE_ALGORITHMS (R351). SPDM request to a die's responder. -/
  | negotiateAlgorithms (die : Nat)
  /-- GET_DIGESTS (R351). SPDM request to a die's responder. -/
  | getDigests (die : Nat)
  /-- GET_CERTIFICATE (R351). SPDM request to a die's responder. -/
  | getCertificate (die : Nat)
  /-- CHALLENGE (R351). SPDM challenge signed with the die's identity key. -/
  | challenge (die : Nat) (nonce : Wide)
  /-- GET_MEASUREMENTS (R351). SPDM request returning firmware, fuse and TDI measurements. -/
  | getMeasurements (die : Nat) (nonce : Wide)
  /-- KEY_EXCHANGE (R351). SPDM secure-session key exchange at the I/O die's responder. -/
  | keyExchange (die : Nat) (share : Wide)
  /-- FINISH (R351). SPDM request completing a secure session at the I/O die. -/
  | finish (die : Nat) (verifies : Bool)
  /-- END_SESSION (R351). SPDM request ending a secure session. -/
  | endSession (die : Nat)
  /-- IDE_KM_EXCHANGE (R350). IDE keys are exchanged inside a secure session. -/
  | ideKmExchange (fn : HostFn)
  /-- START_INTERFACE_REQUEST (R349). A TDISP request within a secure session moves a TDI to RUN. -/
  | startInterfaceRequest (vf : Nat)
  /-- IDE_INTEGRITY_FAILURE (R350). A TLP of a TDI's stream fails its integrity check, is dropped and moves the TDI to ERROR. -/
  | ideIntegrityFailure (vf : Nat)
  /-- SEAWAY_PORT_TRAINING (R385). A port's physical layer locks, the secure session opens and the partner is checked before the trained bit is set.
  `session` is the partner that a session is open with. -/
  | seawayPortTraining (port : Nat) (phyUp : Bool) (session : Option Nat)
  /-- HEARTBEAT_SEND (R387). Each trained port sends a heartbeat row every 1 ms. -/
  | heartbeatSend (port : Nat)
  /-- HEARTBEAT_LOSS (R387). No row for 100 ms sets hbloss and clears the trained bit. -/
  | heartbeatLoss (port : Nat)
  /-- ACK_TIMEOUT (R389). An acknowledgement row is sent 10 µs after the first unacknowledged row. -/
  | ackTimeout (port ch : Nat)
  /-- SEAWAY_KEY_LOAD (R386). The management controller loads a new channel key, releasing rows held at row-number exhaustion. -/
  | seawayKeyLoad (port ch : Nat) (key : Wide)
  /-- RECEIVE_TABLE_WRITE (R388). The management controller writes a receive table entry. -/
  | receiveTableWrite (port ch : Nat) (e : RxTarget)
  /-- CORRECTABLE_ERROR (R370). A correctable error is corrected and counted, changing only timing. -/
  | correctableError (u : HwUnit)
  /-- UNCORRECTABLE_ERROR (R371). An uncorrectable error, or a count that reaches its threshold, makes a unit failing. -/
  | uncorrectableError (u : HwUnit)
  /-- BEACON_UNCORRECTABLE_ERROR (R375). An uncorrectable beacon error stops the partition's regions and clears the channel's generation. -/
  | beaconUncorrectableError (ch : Nat)
  /-- LINK_CRC_REPLAY (R325). A flit that fails its CRC is replayed at link level, keeping order. -/
  | linkCrcReplay (k : Nat)
  /-- PARTITION_FORM (R332). The management controller forms a partition with its strips, ranges and allotments. -/
  | partitionForm (id : Nat) (d : PartDesc)
  /-- STRIP_RELEASE (R335). A supervisor reports a strip free and the management controller checks it and scrubs it. -/
  | stripRelease (strip : Nat)
  /-- STRIP_ONLINE (R335). The strip joins the gaining partition and its pilot is brought online. -/
  | stripOnline (strip : Nat) (d : OnlineDesc)
  /-- PLACE_MAP_WRITE (R337). The management controller writes place maps while the virtual devices are suspended. -/
  | placeMapWrite (part : Nat) (m : PlaceMaps)
  /-- VD_CREATE (R338). The management controller creates a virtual device with default sluice settings. -/
  | vdCreate (n : Nat) (d : VdDesc)
  /-- VD_DESTROY (R338). Kills regions, frees channels, flushes lines and zeroes the keys of a virtual device. -/
  | vdDestroy (n : Nat)
  /-- KEY_SLOT_LOAD (R348). A key slot is loaded after the lines filled under it are written back. -/
  | keySlotLoad (k : Nat) (key : BitVec 512)
  /-- SUPERVISOR_PILOT_NAMED (R299). The management controller names the pilot that receives a partition's records. -/
  | supervisorPilotNamed (part strip : Nat)
  /-- PILOT_ONLINE (R33). The management controller brings a pilot online at an entry pc. -/
  | pilotOnline (strip : Nat) (pc : DWord) (vdid : BitVec 3)
  /-- BERTH_WAY_SET (R252). The management controller sets a quay's berth-way count after writing back those ways. -/
  | berthWaySet (q n : Nat)
  /-- ARBITRATION (R340). In each clk every shared arbiter refills the sluices and the pool and then grants transactions to holders and borrowers. -/
  | arbitration (cls inst : Nat)
  /-- STICKY_FLAG_CLEAR (R104). The supervisor clears a cell's sticky flags, taking effect before a flag set that arrives in the same clk. -/
  | stickyFlagClear (c : Nat) (mask : BitVec 6)
  /-- TDI_LOCK (R349). A TDI moves from CONFIG_UNLOCKED to CONFIG_LOCKED, fixing the listed items of its virtual device and partition. -/
  | tdiLock (vf : Nat)
  /-- TDI_UNLOCK (R349). A TDI returns to CONFIG_UNLOCKED, so that the locked items may be changed again and the ERROR state is left. -/
  | tdiUnlock (vf : Nat)
  /-- FIRMWARE_IMAGE_STAGING (R391). A new firmware image is staged through the physical function and takes effect at the next reset. -/
  | firmwareImageStaging (die : Nat) (img : FwImage)
  /-- SEND_QUEUE_PLACE (R390). The management controller places a virtual device's Seaway send queue in its memory. -/
  | sendQueuePlace (vd : Nat) (va : DWord)
  /-- PARTITION_REMOVE (R332). The management controller removes a partition and frees its id and its strips. -/
  | partitionRemove (id : Nat)
  /-- NOP (R123). The slot fires and changes nothing, although it still counts as a first slot and moves fptr. -/
  | nop
  /-- MXCLR (R182). Clears the accumulator tile and its counters. -/
  | mxclr
  /-- FENCE_ACQ (R235). Orders later loads after earlier loads and invalidates the L1 data cache. -/
  | fenceAcq
  /-- FENCE_REL (R235). Sends later stores only after earlier ones are acknowledged. -/
  | fenceRel
  /-- FENCE_FULL (R235). Acts as acquire and release together. -/
  | fenceFull
  /-- FENCE_IO (R235). Acts as a full fence, waits for every command and invalidates the L1 instruction cache. -/
  | fenceIo
  /-- SYS_ERET (R227). Returns from a trap, restoring mode and interrupt enable. -/
  | sysEret
  /-- SYS_WFE (R236). Waits for an event, a beacon release, a channel element or a timeout. -/
  | sysWfe
  /-- SYS_IDLE (R236). Waits until the event interrupt is pending, possibly gating clocks. -/
  | sysIdle
  /-- SYS_HALT (R236). Takes the pilot offline after earlier work completes. -/
  | sysHalt
  /-- CHN_CHCLOSE_FREE (R244). With the free bit set, frees a closed, empty channel's entry, ring and extents. -/
  | chnChcloseFree (o : OpR3)
  /-- BCN_CAST_CONFIGURE (R245). With the configure bit set, sets a channel's participant count and clears its arrival bits. -/
  | bcnCastConfigure (o : OpR3)
  /-- SHADOW_COPY_DONE (R392). The shadow copy finishes and busy clears. -/
  | shadowCopyDone
  /-- ISOERR_READ (R378). A read of isoerr returns and clears the isolation error count. -/
  | isoerrRead
  /-- PFDROPS_READ (R378). A read of pfdrops returns and clears the count of dropped accesses. -/
  | pfdropsRead
  /-- LINK_ACTIVE (R376). The PCIe link reaches DL_Active and the module becomes usable. -/
  | linkActive
  /-- MODULE_RESET (R372). A reset fuses out failing slices and remaps their homes. -/
  | moduleReset
  /-- LINK_LEAVES_DL_ACTIVE (R376). The PCIe link leaves DL_Active, after which the host can no longer reach the module until the link trains again. -/
  | linkLeavesDlActive
  deriving DecidableEq, Repr

end Sys2Proof
end

