-- ==== Sys2Proof/Machine/State.lean ====
section
/-! DEFINITION. The state of the machine as plain data, why a step can stop, and the state after reset. The rule that
names a field stands at the field; INVENTORY.md lists them all. -/

namespace Sys2Proof.Machine

/-- Why the model stops. Every fault, trap and stop the spec describes is a NEXT state; what is left is a state that
configuration load does not let arise. -/
inductive Fault where
  /-- Raised by `step` on a slot whose word is no cell instruction: configuration load rejects such a slot (03 R86),
  so no loaded image holds one. Safe: the model stops. -/
  | undecodableSlot (w : Word)
  deriving DecidableEq, Repr

/-- Why an instruction has no meaning here. -/
inductive Refusal where
  /-- Raised by an arm of `exec` whose instruction is not modelled; no arm is. Safe: the model stops. -/
  | notModelled (mnemonic : String)
  deriving DecidableEq, Repr

/-- A slot of a store: payload, tag, full/empty bits and remaining readers (01 R12). A slot is free when `rdr` is 0. -/
structure Slot where
  pay : Wide
  tag : Tag
  fe : BitVec 8
  rdr : Nat
  deriving DecidableEq, Repr

/-- The state of an in-port ring (10 R255) and its arrival count (01 R22). No pad is `none` (0x3FF). -/
structure Ring where
  head : Nat
  tail : Nat
  pad : Option Nat
  held : Nat
  arr : Nat
  deriving DecidableEq, Repr

/-- A handle hN (01 R25); `out` is set while a request for it is outstanding (06 R143). -/
structure Handle where
  v : Bool
  rd : Nat
  wr : Nat
  len : Nat
  base : Nat
  out : Bool
  deriving DecidableEq, Repr

/-- A hardware marker forward in progress (01 R18): the joined level, the marker and the fan ports not yet written. -/
structure Fan where
  lvl : BitVec 3
  tok : Token
  left : BitVec 4
  deriving DecidableEq, Repr

/-- One context of a cell (01 R22), its descriptors and words as the image holds them (02 R48 to R53). -/
structure Ctx where
  trig : Vector Word 16
  inst : Vector Word 16
  lits : Vector Word 16
  routes : Vector (BitVec 64) 4
  binds : Vector (BitVec 64) 4
  rings : Vector Ring 4
  hands : Vector Handle 4
  conf : Vector (BitVec 16) 16
  ctl : BitVec 64
  fptr : BitVec 4
  join7 : Bool
  fan : Option Fan
  deriving DecidableEq, Repr

/-- The abacus (01 R21, R13, R14). -/
structure Abacus where
  ident : DWord
  widths : Vector Nat 6
  limits : Vector Nat 6
  pending : Nat
  done : Bool
  deriving DecidableEq, Repr

/-- A tile-header decoder (07 R173). -/
structure Decoder where
  efmt : BitVec 4
  b8 : Byte
  scale : Byte
  bad : Bool
  deriving DecidableEq, Repr

/-- Where a deferred write goes (08 R195, 06 R158): a slot already reserved is named by the consumer's cell, context,
port and slot, and the latency of the route. -/
inductive WDst where
  | none
  | reg (i : Fin 8)
  | pr
  | out (cell ctx port slot lat : Nat)
  deriving DecidableEq, Repr

/-- The destinations of a deferred write and its tag, fixed at the firing, and the firing's number: deferred writes of one clk
take effect in this order (06 R158, 08 R195). -/
structure DefW where
  x : WDst
  y : WDst
  tag : Tag
  seq : Nat
  deriving DecidableEq, Repr

/-- A drain in progress (07 R173, R184): the tokens still to write and where the next one goes. -/
structure Drain where
  port : Nat
  dst : WDst
  seq : BitVec 12
  clr : Bool
  toks : List Wide
  deriving DecidableEq, Repr

/-- The matrix state (01 R21, 07 R173). -/
structure Matrix where
  blk : Vector Wide 4
  act : Decoder
  wgt : Decoder
  T : Nat
  P : Nat
  arow : Nat
  acnt : Nat
  sa : Byte
  sb : Byte
  latched : Bool
  acc : Tbl (BitVec 36)
  drain : Option Drain
  deriving DecidableEq, Repr

/-- A DLY token in flight (06 R158). While its region is halted `due` counts from the restart. -/
structure Dly where
  due : Nat
  w : DefW
  pay : Wide
  deriving DecidableEq, Repr

/-- A BCRED result still deferred (06 R167); `val` once its generation is released (06 R169). -/
structure Bcred where
  ch : Nat
  op : Nat
  w : DefW
  val : Option Wide
  deriving DecidableEq, Repr

/-- The source of a frame-window entry (08 R191). -/
inductive FwSrc where
  | none
  | page (vframe : BitVec 39)
  | block (hdr : DWord) (blk : Word) (wr : Bool)
  deriving DecidableEq, Repr

/-- A frame-window entry (08 R191). -/
structure Fw where
  valid : Bool
  src : FwSrc
  frame : BitVec 52
  len : Nat
  r : Bool
  w : Bool
  key : BitVec 6
  pol : BitVec 2
  dKnown : Bool
  deriving DecidableEq, Repr

/-- A line of the coalescing buffer (08 R197): its bytes by physical address, the results of the stores it holds and
the clk of the last store. -/
structure Coal where
  line : Nat
  vd : Nat
  key : BitVec 6
  pol : BitVec 2
  bytes : Tbl Byte
  held : List (DefW × Wide)
  last : Nat
  deriving DecidableEq, Repr

/-- What a finished translation or lookup gives (08 R192, R215). -/
structure Frame where
  base : BitVec 52
  len : Nat
  r : Bool
  w : Bool
  key : BitVec 6
  pol : BitVec 2
  d : Bool
  deriving DecidableEq, Repr

/-- The translation or lookup of a cell (08 R192, R201, R215, R193). -/
inductive TransSt where
  | running
  | fail (cause detail : Nat)
  | ok (f : Frame)
  deriving DecidableEq, Repr

/-- The token that a source gave when a translation of it began (08 R192): the context, the source, its slot, and the token;
`here` ends when the token is popped or replaced. -/
structure SrcAt where
  ctx : Fin 4
  src : Sel
  slot : Nat
  tok : Token
  here : Bool
  deriving DecidableEq, Repr

/-- What the translation is for. -/
inductive TransFor where
  | xlat (va : DWord) (at_ : SrcAt)
  | stream (va : DWord) (wr : Bool)
  | block (hdr : DWord) (blk : Word) (wr : Bool)
  | refill (i : Nat)
  | dirty (i : Nat)
  deriving DecidableEq, Repr

structure Trans where
  what : TransFor
  st : TransSt
  deriving DecidableEq, Repr

/-- A QFLS, QCMPL or HAND that waits for requests issued before it (08 R208, R209): requests with a number below
`upTo`. -/
inductive FlushKind where
  | stores
  | all
  | hand (tgt : Nat) (r : Fin 16) (desc : BitVec 64)
  deriving DecidableEq, Repr

structure Flush where
  kind : FlushKind
  upTo : Nat
  w : DefW
  pay : Wide
  deriving DecidableEq, Repr

/-- A deferred result that is ready and lands at the end of the clk (08 R195); one that is held lands once the cell's region runs (08 R219). -/
structure Landing where
  w : DefW
  pay : Wide
  hold : Bool
  deriving DecidableEq, Repr

/-- The fault state of a cell (01 R29, 16 R360). -/
structure Stop where
  stopped : Bool
  cause : Byte
  off : Word
  deriving DecidableEq, Repr

/-- A cell or quay cell (01 R21, R29; 07 R173). `snap` is what the second slot of a clk (a BSTAT, a GETF)
finds before the first fires, with its number (06 R160, 01 R26; log 3); `freed` the slots freed by the pops of the clk, in
which a token may still arrive (01 R26); `lands` the deferred results that land at the end of the clk. -/
structure Cell where
  region : Option Nat
  ctxs : Vector Ctx 4
  w : Vector Wide 8
  p : BitVec 8
  flags : BitVec 6
  cfmt : BitVec 10
  seqc : BitVec 12
  ab : Abacus
  actx : Fin 4
  swPend : Bool
  swTgt : Fin 4
  swcnt : BitVec 16
  store : Tbl Slot
  road : List BReq
  outside : List BReq
  dly : List Dly
  bcred : List Bcred
  raceLatch : Vector (BitVec 16) 8
  raceCnt : Nat
  tagNext : BitVec 12
  tagOld : BitVec 12
  tagSize : Nat
  tagMap : BitVec 256
  mx : Matrix
  evtBusy : Bool
  arrBits : BitVec 32
  stop : Stop
  fw : Vector Fw 16
  coal : List Coal
  outOrd : Nat
  outUnord : Nat
  owned : Vector (BitVec 64) 16
  trans : Option Trans
  flush : List Flush
  chwBusy : Bool
  chrBusy : Bool
  acted : Bool
  joined : Bool
  snap : Option (Fin 16 × Wide)
  freed : List Nat
  lands : List Landing
  deriving DecidableEq, Repr

/-- The access a translation is for. -/
inductive Acc where
  | r | w | x
  deriving DecidableEq, Repr

/-- Who waits for a walk: a quay cell, a pilot, or, by kind and number, a turn that is not taken before its translations are there. -/
inductive Walker where
  | cell (c : Nat)
  | pilot (p : Nat)
  | turn (kind n : Nat)
  deriving DecidableEq, Repr

/-- A walk of a quay's translation unit (16 R354, R356); `old` is the entry read for a pending A or D update.
Level 3 stands for a walk that starts again at its next reply (09 R238). -/
structure Walk where
  id : Nat
  who : Walker
  vd : Nat
  va : DWord
  level : Nat
  table : Nat
  key : BitVec 6
  acc : Acc
  user : Bool
  old : Option (Nat × DWord × Frame)
  deriving DecidableEq, Repr

/-- A TLB entry (16 R356). -/
structure Tlb where
  vd : Nat
  vpn : Nat
  level : Nat
  pte : DWord
  deriving DecidableEq, Repr

/-- An object placed in berth ways (10 R253): a region's quay area, or a channel's ring. -/
structure Area where
  base : Nat
  len : Nat
  owner : Sum Nat Nat
  deriving DecidableEq, Repr

/-- A basin element being moved into the ring (11 R274): the ring element reserved, the tokens read, and how many sectors of their payloads were
read with them, before the rest (12 R287). -/
structure BMove where
  ring : Nat
  toks : List Token
  done : Nat
  deriving DecidableEq, Repr

/-- A CHR or CHTAKE that waits at the home quay (08 R212): the request's number, or a pilot. -/
inductive Reader where
  | cell (id : Nat)
  | pilot (strip : Nat)
  deriving DecidableEq, Repr

/-- Who is told that a channel token is written: a request of a cell, a pilot's CHPUT, a release of a cell or a pilot
whose push it is, a row of a Seaway port. -/
inductive Teller where
  | req (id : Nat)
  | pilot (strip : Nat)
  | push (id : Nat)
  | pushPilot (strip : Nat)
  | row (port chan num : Nat)
  | none
  deriving DecidableEq, Repr

/-- A channel-table entry (11 R269). `wtoks` are the tokens at the home quay still to be written into the element last
allocated, with who is told; `wreg` is the region whose request that element was; `growHeld` a growth that waits for a
held access (11 R277), and `half` is set while the first sector of the next token is written and the second is not (12 R287). -/
structure Chan where
  opened : Bool
  closed : Bool
  broken : Bool
  vd : Nat
  e : Nat
  base : Nat
  nr0 : Nat
  rRd : Nat
  rWr : Nat
  nr : Nat
  basin : BitVec 39
  limit : Nat
  eg : Nat
  bRd : Nat × Nat
  bWr : Nat × Nat
  lastW : Nat
  nb : Nat
  moves : List BMove
  wIdx : Word
  rIdx : Word
  wpos : Nat
  rpos : Nat
  writer : Word
  reader : Word
  chrWait : Option Reader
  splice : Bool
  paused : Bool
  cur : Option (Sum Nat (Nat × Nat))
  wtoks : List (Token × Teller)
  wreg : Nat
  growHeld : Bool
  half : Bool
  deriving DecidableEq, Repr

/-- A quay (01 R31; 10 R251 to R254). `qstf` holds the QSTF writes of the clk, which take effect at its end
(08 R202); `granted` the virtual devices granted storage on the strip since the dredger's last sample (11 R280), kept at the
north quay. -/
structure Quay where
  bw : Nat
  slots : Tbl Slot
  areas : List Area
  road : List BReq
  outside : List BReq
  chans : Tbl Chan
  tlb : List Tlb
  walks : List Walk
  queue : List Walk
  copyBytes : Nat
  qstf : List (Nat × BitVec 8 × Wide)
  granted : List Nat
  deriving DecidableEq, Repr

/-- A line of an LLC set, most recently used first in its list (12 R287 to R290). -/
structure Line where
  line : Nat
  vd : Nat
  key : BitVec 6
  have_ : BitVec 8
  dirty : BitVec 8
  deriving DecidableEq, Repr

/-- What a memory request does at its home slice. -/
inductive ReqKind where
  | read
  | write (bytes : Tbl Byte)
  | atom (op : Aop) (dw : Bool) (v c : DWord)
  | copy (dst : Nat) (dkey : BitVec 6) (dpol : BitVec 2) (n : Nat) (noAlloc : Bool)
  | prefetch (n : Nat)
  | blkop (hdr : DWord) (blk : Word) (rel : Bool)
  | chr (ch : Nat)
  | chst (ch : Nat)
  | chcl (ch : Nat)
  | chw (ch : Nat) (tok : Token) (alloc : Bool)
  deriving DecidableEq, Repr

/-- A request of a quay cell (08 R194 to R196). `since` and `lat` are the clk of its issue and its least time (14 R326),
`todo` the arbiters it still has to pass (class, instance, units), `arrived` set for a channel request that waits at the
home quay, `group` the read whose answer it shares, `res` the
deferred results it carries: a payload, or the answer; `held` waits for the restart of its region; `done` the sectors served, and `pre` the
sectors, by number, that it has with an older read (12 R291). `paged` is set where page tables gave its frame. -/
structure Req where
  id : Nat
  cell : Nat
  ctx : Nat
  slot : Nat
  kind : ReqKind
  pa : Nat
  va : DWord
  key : BitVec 6
  pol : BitVec 2
  vd : Nat
  ord : Bool
  since : Nat
  lat : Nat
  todo : List (Nat × Nat × Nat)
  arrived : Bool
  served : Bool
  group : Option Nat
  ans : Wide
  poison : Bool
  res : List (DefW × Option Wide)
  held : Bool
  done : Nat
  pre : Tbl (BitVec 128)
  paged : Bool
  deriving DecidableEq, Repr

/-- The state of a region (09 R241). -/
inductive RState where
  | free | loading | loaded | running | stopped | saving | saved | restoring | drained | killing
  deriving DecidableEq, Repr

/-- What began a halt (13 R310, 16 R364). -/
inductive HaltBy where
  | rstop (strip : Nat)
  | preempt (strip : Nat)
  | quantum
  | dredger
  | beaconError
  deriving DecidableEq, Repr

/-- A region of the region table (09 R240, R241; 13 R304 to R314). `ldr` is the pilot that loaded it, under whose
virtual device its header and image are read; `runs` the first clk of the present start; `expired` that its quantum
expired since; `kill` an RKILL that waits for the images; `own` the ownership list by cell of the rectangle; `requeue` the
channel requests of a restored region, which its start puts back, and `rewait` its berth requests that waited at their
requesters, which it sends again (06 R169). -/
structure Region where
  st : RState
  part : Nat
  vd : Nat
  rid : Nat
  hdr : BitVec 512
  hdrVa : DWord
  prio : BitVec 2
  quantum : Word
  counter : Nat
  runClk : Nat
  strip : Nat
  row : Nat
  col : Nat
  started : Bool
  gated : Bool
  runs : Nat
  halt : Option HaltBy
  haltAt : Nat
  expired : Bool
  kill : Bool
  saveOff : Nat
  own : List (Nat × Nat × BitVec 64)
  requeue : List (Nat × BReq)
  rewait : List BReq
  ldr : Nat
  deriving DecidableEq, Repr

/-- A saved settle region (16 R365): its image's number, where it lies and its size; its cells in the order of the
rectangle, the slots of its quay areas by quay of the rectangle, its requests, its requests in channel roadsteads, and its berth
requests that wait at their requesters. `live` that the region's cells stand in this save and nowhere else. -/
structure Save where
  region : Nat
  id : Nat
  pa : Nat
  bytes : Nat
  places : List Nat
  cells : List Cell
  slots : List (List (Nat × Slot))
  reqs : List Req
  queued : List (Nat × BReq)
  waiting : List BReq
  live : Bool
  deriving DecidableEq, Repr

/-- An event record waiting at its source (09 R248, 13 R303): 32 bytes, the partition and the source's rank. -/
structure Rec where
  part : Nat
  src : Nat
  body : Wide
  cell : Option Nat
  deriving DecidableEq, Repr

/-- A store of a pilot that its home slice has not yet acknowledged (09 R232). -/
structure PStore where
  id : Nat
  pa : Nat
  key : BitVec 6
  pol : BitVec 2
  vd : Nat
  bytes : List Byte
  deriving DecidableEq, Repr

/-- What a pilot's access does at its home slice: a fetch, a load of n bytes, which fills the L1 or not, or an atomic. -/
inductive PDo where
  | fetch
  | load (fill : Bool) (n : Nat)
  | amo (op : Aop) (dw : Bool) (v c : DWord)
  deriving DecidableEq, Repr

/-- An access of a pilot under way (09 R224, R232, R233); `pre` the sectors of its line, by number, that it has already: filled before the
others, or with an older read (12 R291, R295). -/
structure PAcc where
  id : Nat
  pa : Nat
  key : BitVec 6
  pol : BitVec 2
  vd : Nat
  what : PDo
  pre : Tbl (BitVec 128)
  deriving DecidableEq, Repr

/-- A load that a pilot has gone on past: its access, where its result goes, and the result once it has come, which reaches the pilot no
earlier than a clk (09 R234). -/
structure PLate where
  acc : PAcc
  d : Fin 32
  z : MemSz
  val : Option (Nat × BitVec 128)
  deriving DecidableEq, Repr

/-- A walk for a pilot: its number, the access, and how it has ended (09 R231). -/
structure PWalk where
  id : Nat
  va : DWord
  acc : Acc
  st : TransSt
  deriving DecidableEq, Repr

/-- What a pilot waits in (09 R236, R238, R242, R244, R245). A waiting instruction keeps the pc and executes again when its
wait may have ended; `again` waits for nothing but its own condition. `fetch` is the translation of the pc, `fetching` the read of
the instruction, `fetched` holds it; `walk` is the translation of a data access, `mem` the access, and `got` its answer, which
reaches the pilot no earlier than `till` (14 R326). With `late` an instruction waits, not begun, for loads that the pilot has gone on past. -/
inductive PWait where
  | no
  | fetch
  | fetching
  | fetched (w : Word)
  | walk
  | mem
  | got (till : Nat) (v : BitVec 128)
  | wfe (deadline : Nat)
  | idle
  | chput (ch : Nat)
  | chtake (ch : Nat)
  | tlbinv (upTo vd : Nat)
  | region (r : Nat)
  | preempt (ch vd n : Nat)
  | push
  | again
  | late
  deriving DecidableEq, Repr

/-- A pilot (01 R33; 09 R221, R245). `held` is the word of the instruction it is in, `ans` what a channel write it waits for
answers, `async` the regions of its asynchronous commands; `walk` and `acc` the walk and the access it has under way, `late` the loads it
has gone on past; the stores with a number below `rel` are acknowledged before a later
store or atomic is sent (09 R235), and a load joins no read with a number below `join` (12 R291, R297); the caches hold
lines of 128 bytes by number (09 R232, 01 R34). -/
structure Pilot where
  online : Bool
  g : Vector DWord 32
  pc : DWord
  status : DWord
  cause : DWord
  epc : DWord
  tval : DWord
  tvec : DWord
  scratch : DWord
  evqbase : DWord
  evqhead : Word
  evqtail : Word
  vdid : Byte
  cycles : DWord
  l1d : Tbl (BitVec 1024)
  l1i : Tbl (BitVec 1024)
  stores : List PStore
  wait : PWait
  held : Word
  woke : Bool
  ans : Option DWord
  arr : BitVec 32
  redOp : Tbl (Fin 3)
  latched : Tbl Word
  async : List Nat
  walk : Option PWalk
  acc : Option PAcc
  late : List PLate
  rel : Nat
  join : Nat
  deriving DecidableEq, Repr

/-- A beacon channel (06 R165). -/
structure Beacon where
  P : BitVec 16
  arrivals : Nat
  gen : Word
  pAnd : Word
  pOr : Word
  pMax : Word
  copy : Tbl Word
  bval : Tbl DWord
  bcnt : Tbl Word
  deriving DecidableEq, Repr

/-- A partition (01 R36, 15 R332) and its dredger's round (11 R281). `leaving` that its removal has begun. -/
structure Part where
  first : Nat
  count : Nat
  colour : BitVec 4
  mask : BitVec 4
  channels : Word
  rows : List (Nat × BitVec 98)
  ranges : List (Nat × Nat)
  allot : List Nat
  closed : Bool
  sup : Nat
  sActive : List Nat
  sStalled : List Nat
  leaving : Bool
  deriving DecidableEq, Repr

/-- A TDI state (15 R349, 17 R379). -/
inductive Tdi where
  | unlocked | locked | run | error
  deriving DecidableEq, Repr

/-- The sluice settings of a virtual device at one arbiter class (09 R247). -/
structure Sluice where
  rate : Nat
  depth : Nat
  lend : Bool
  borrow : Bool
  deriving DecidableEq, Repr

/-- A virtual device (01 R35, 15 R338). `dredge` counts rounds, `trap` holds the reason of a trap whose regions halt
(11 R282, R283), `dying` that its destruction has begun. -/
structure Vd where
  vf : Option Nat
  keys : DWord
  root : Option (BitVec 52)
  saveBase : DWord
  saveSize : Word
  quota : Word
  ways : BitVec 4
  sl : Vector Sluice 5
  notify : Word
  tdi : Tdi
  dredge : Nat
  trap : Option Nat
  sendq : Option DWord
  sqNext : Nat
  tail : Bool
  dying : Bool
  deriving DecidableEq, Repr

/-- A request that waits at an arbiter (15 R341): its virtual device, request class, units, what it lets go, the clk of its arrival
and its rank among those of one clk (14 R326). -/
structure ArbReq where
  vd : Nat
  rclass : Nat
  units : Nat
  req : Nat
  clk : Nat
  rank : Nat
  deriving DecidableEq, Repr

/-- An arbiter instance (15 R339 to R341): levels in units of 1/1,024, the pool by partition of origin (16 is the
spare), the pointers, and what still passes of the transactions granted. -/
structure Arb where
  lv : Tbl Int
  pool : Tbl Int
  hptr : Nat
  sptr : Nat
  busy : Nat
  queue : List ArbReq
  deriving DecidableEq, Repr

/-- The virtual channel of a route across dies and a token's place on it: the cell that sends, the cell, context and port that it
reaches, and the clk of sending (14 R325). -/
structure Via where
  src : Nat
  tgt : Nat × Nat × Nat
  sent : Nat
  deriving DecidableEq, Repr

/-- What crosses arbiters other than a request of a cell: an access or a walk's read of a pilot or a quay, a channel move, a token on
its way to another die, a line's write-back (14 R325, R326; 15 R341). `todo` and `lat` are as in `Req`; `ev` is what comes at the
end; `queued` that it has joined a queue; `via` the virtual channel of a token. -/
structure Pass where
  id : Nat
  vd : Nat
  rclass : Nat
  rank : Nat
  since : Nat
  lat : Nat
  todo : List (Nat × Nat × Nat)
  queued : Bool
  cls : Nat
  sub : Nat
  ev : Option Instr
  via : Option Via
  deriving DecidableEq, Repr

/-- The send side of a Seaway channel id at a port (17 R386, R389). -/
structure SwTx where
  next : Nat
  credits : Nat
  kept : List SwRow
  ackHi : Nat
  ackNext : Nat
  key : Wide
  hasKey : Bool
  waiting : List SwRow
  deriving DecidableEq, Repr

/-- A receive-table entry of a port (17 R388, R389): what it names, the rows accepted (all below `low`, and `got`; the highest),
those not yet acknowledged since `firstAt`, the rows served (all below `slow`, and `served`), the credits to return, and the last
rows of descriptors not yet counted. -/
structure SwRx where
  target : RxTarget
  low : Nat
  got : List Nat
  high : Option Nat
  unacked : Nat
  firstAt : Nat
  ackSeq : Nat
  slow : Nat
  served : List Nat
  freed : Nat
  lasts : List Nat
  deriving DecidableEq, Repr

/-- A Seaway port (17 R385 to R390); `wire` the rows that it sent in the clk, byte by byte, and `held` the rows that wait at the partner's
sending port while the fault buffer is full (16 R369). -/
structure SwPort where
  trained : Bool
  lastRx : Nat
  tx : Tbl SwTx
  rx : Tbl SwRx
  parked : List SwRow
  held : List SwRow
  wire : List (List Byte)
  deriving DecidableEq, Repr

/-- A die's SPDM responder (15 R351): how far the connection and the secure session have come. -/
structure Spdm where
  version : Bool
  caps : Bool
  algs : Bool
  sess : Nat
  deriving DecidableEq, Repr

/-- What the outside world is answered last (log 8). -/
inductive Reply where
  | none
  | data (v : List Byte)
  | unsupported
  | value (v : DWord)
  | spdmOk (die : Nat) (kind : Nat) (sig : BitVec 768) (vals : List (List DWord))
  | spdmError (die : Nat)
  deriving DecidableEq, Repr

/-- A power state (17 R383). -/
inductive Power where
  | p0 | p1 | p2 | p3
  deriving DecidableEq, Repr

/-- A change of items that a locked TDI fixes (15 R349). -/
inductive Held where
  | strip (t : Nat) (d : OnlineDesc)
  | remove (part : Nat)
  | maps (part : Nat) (m : PlaceMaps)
  | ways (q n : Nat)
  | items (part : Nat) (d : PartDesc)
  | keys (vd : Nat) (mask : DWord)
  deriving DecidableEq, Repr

/-- Where a posted write of a function goes: the memory window, the channel aperture, or a doorbell (13 R302; 17 R380, R381). -/
inductive PutTo where
  | mem
  | chan
  | bell (v : Word)
  deriving DecidableEq, Repr

/-- A posted write of a function that waits. -/
structure HostPut where
  vd : Nat
  goes : PutTo
  off : Nat
  bytes : List Byte
  deriving DecidableEq, Repr

/-- A register that the host reads (17 R378, R379); those that a read clears have rows of their own in the opcode table. -/
inductive HostReg where
  | status | ltol | hbloss | shsrc | shdst | shlen | shstat | pfvd
  | pfnotify (n : Nat)
  | notify (vf : Nat)
  | vfstat (vf : Nat)
  deriving DecidableEq, Repr

/-- What comes from outside and has no row of the opcode table (log 91): what a partition's supervisor writes of a virtual device
(01 R35), the host's reads of registers and its list of partners (17 R378, R379, R385), the items and key ids that the management
controller changes (15 R332, R347), and the fused minimum version (17 R391). -/
inductive Act where
  | saveArea (vd : Nat) (base : DWord) (size : Word)
  | basinQuota (vd : Nat) (n : Word)
  | wayQuota (vd : Nat) (n : BitVec 4)
  | root (vd : Nat) (r : Option (BitVec 52))
  | read (r : HostReg)
  | partners (l : List Nat)
  | items (part : Nat) (d : PartDesc)
  | keyMask (vd : Nat) (keys : DWord)
  | fuseVersion (n : Nat)
  deriving DecidableEq, Repr

/-- The host interface and the platform (17 R376 to R392, 16 R370 to R372); `released` the strips scrubbed and not yet online
again (15 R335); `held` changes that wait for a TDI (15 R349); `up` that the link has reached DL_Active since power-good; `drops` the accesses of
each virtual function that were dropped; `isoUnits` the isolation errors of each unit; `partners` the packages that the host permits;
`shJob` the source, the destination and the pages still to copy of a shadow copy. -/
structure Platform where
  powered : Bool
  link : Bool
  up : Bool
  ready : Bool
  bootFailed : Bool
  replace : Bool
  ltol : DWord
  hbloss : Byte
  isoerr : DWord
  shsrc : DWord
  shdst : DWord
  shlen : DWord
  shBusy : Bool
  shErr : Bool
  shDone : DWord
  shVd : Nat
  pfvd : DWord
  pfdrops : Word
  drops : Tbl Word
  isoUnits : Tbl Nat
  partners : List Nat
  shJob : Nat × Nat × Nat
  reply : Reply
  spdm : Vector Spdm 9
  ide : List Nat
  idePf : Bool
  staged : Tbl FwImage
  running : Tbl FwImage
  minVer : Nat
  errs : Tbl Nat
  failing : List Nat
  fused : List Nat
  released : List Nat
  held : List Held
  power : Tbl Power
  swait : Tbl (List HostPut)
  deriving DecidableEq, Repr

/-- A turn of the agenda: a pilot's next instruction, a slot's firing, an event, or an act from outside. -/
inductive Turn where
  | pilot (strip : Nat)
  | slot (cell : Nat) (n : Fin 16)
  | event (i : Instr)
  | act (a : Act)
  deriving DecidableEq, Repr

/-- An event that comes at a later clk: `cls` and `sub` order the events of one clk; `via` the virtual channel of a token that came
across dies. -/
structure Pend where
  due : Nat
  cls : Nat
  sub : Nat
  owner : Nat
  ev : Instr
  via : Option Via
  deriving DecidableEq, Repr

/-- The machine. `cleared` names the turns whose share of the arbiters has been sent ahead, and `paid` is what turns of the clk have paid for
(15 R341). -/
structure State where
  clk : Nat
  phase : Nat
  agenda : List Turn
  inputs : List Instr
  acts : List Act
  pend : List Pend
  seqNo : Nat
  fresh : Nat
  curCell : Nat
  curSlot : Fin 16
  curPilot : Nat
  fired : Bool
  mem : List Host.Cell
  memKey : Tbl (BitVec 512)
  poison : List Nat
  llc : Tbl (List Line)
  keySlots : Tbl (BitVec 512)
  cells : Tbl Cell
  quays : Tbl Quay
  pilots : Tbl Pilot
  beacons : Tbl Beacon
  parts : Tbl Part
  vds : Tbl Vd
  regions : Tbl Region
  saves : List Save
  reqs : List Req
  passes : List Pass
  cleared : List (Nat × Nat)
  paid : List (Nat × List (Nat × Nat × Nat))
  records : List Rec
  arbs : Tbl Arb
  ports : Tbl SwPort
  host : Platform
  deriving DecidableEq, Repr

/-! Reset values. -/

def Slot.free : Slot := ⟨0, .zero, 0, 0⟩
def Ring.empty : Ring := ⟨0, 0, none, 0, 0⟩
def Handle.none : Handle := ⟨false, 0, 0, 0, 0, false⟩
def Ctx.empty : Ctx :=
  { trig := .replicate 16 0, inst := .replicate 16 0, lits := .replicate 16 0, routes := .replicate 4 0,
    binds := .replicate 4 0, rings := .replicate 4 .empty, hands := .replicate 4 .none, conf := .replicate 16 0,
    ctl := 0, fptr := 0, join7 := false, fan := Option.none }
def Abacus.empty : Abacus := ⟨0, .replicate 6 0, .replicate 6 1, 0, false⟩
def Decoder.reset (cfmt : BitVec 10) : Decoder := ⟨0, cfmt.setWidth 8, 0, false⟩
def Matrix.reset (cfmt : BitVec 10) : Matrix :=
  { blk := .replicate 4 0, act := .reset cfmt, wgt := .reset cfmt, T := 1, P := 1, arow := 0, acnt := 0, sa := 0,
    sb := 0, latched := false, acc := [], drain := Option.none }
def Fw.invalid : Fw := ⟨false, .none, 0, 0, false, false, 0, 0, false⟩
def Stop.clear : Stop := ⟨false, 0, 0⟩

/-- A cell that no region was loaded on (01 R21, R22, R29; log 6). -/
def Cell.reset : Cell :=
  { region := Option.none, ctxs := .replicate 4 .empty, w := .replicate 8 0, p := 0, flags := 0, cfmt := 0, seqc := 0,
    ab := .empty, actx := 0, swPend := false, swTgt := 0, swcnt := 0, store := [], road := [], outside := [], dly := [],
    bcred := [], raceLatch := .replicate 8 0, raceCnt := 0, tagNext := 0, tagOld := 0, tagSize := 1, tagMap := 0,
    mx := .reset 0, evtBusy := false, arrBits := 0, stop := .clear, fw := .replicate 16 .invalid, coal := [],
    outOrd := 0, outUnord := 0, owned := .replicate 16 0, trans := Option.none, flush := [], chwBusy := false,
    chrBusy := false, acted := false, joined := false, snap := Option.none, freed := [], lands := [] }

def Chan.unused : Chan :=
  { opened := false, closed := false, broken := false, vd := 0, e := 1, base := 0, nr0 := 0, rRd := 0, rWr := 0, nr := 0,
    basin := 0, limit := 0, eg := 0, bRd := (0, 0), bWr := (0, 0), lastW := 0, nb := 0, moves := [], wIdx := 0,
    rIdx := 0, wpos := 0, rpos := 0, writer := 0, reader := 0, chrWait := Option.none,
    splice := false, paused := false, cur := Option.none, wtoks := [], wreg := 0, growHeld := false, half := false }

def Quay.reset : Quay :=
  { bw := 0, slots := [], areas := [], road := [], outside := [], chans := [], tlb := [], walks := [], queue := [],
    copyBytes := 0, qstf := [], granted := [] }

/-- A pilot that was never brought online (09 R221; log 6). -/
def Pilot.reset : Pilot :=
  { online := false, g := .replicate 32 0, pc := 0, status := 1, cause := 0, epc := 0, tval := 0, tvec := 0,
    scratch := 0, evqbase := 0, evqhead := 0, evqtail := 0, vdid := 0, cycles := 0, l1d := [], l1i := [], stores := [],
    wait := .no, held := 0, woke := false, ans := Option.none, arr := 0, redOp := [], latched := [], async := [],
    walk := Option.none, acc := Option.none, late := [], rel := 0, join := 0 }

def Beacon.reset : Beacon :=
  { P := 0, arrivals := 0, gen := 0, pAnd := 0xFFFFFFFF, pOr := 0, pMax := 0, copy := [],
    bval := [], bcnt := [] }

def Part.none : Part :=
  { first := 0, count := 0, colour := 0, mask := 0, channels := 0, rows := [], ranges := [], allot := [],
    closed := false, sup := 0, sActive := [], sStalled := [], leaving := false }

def Vd.none : Vd :=
  { vf := Option.none, keys := 0, root := Option.none, saveBase := 0, saveSize := 0, quota := 0, ways := 0,
    sl := .replicate 5 ⟨0, 1, true, true⟩, notify := 0, tdi := .unlocked, dredge := 0, trap := Option.none,
    sendq := Option.none, sqNext := 0, tail := false, dying := false }

def Region.free : Region :=
  { st := .free, part := 0, vd := 0, rid := 0, hdr := 0, hdrVa := 0, prio := 0, quantum := 0, counter := 0, runClk := 0,
    strip := 0, row := 0, col := 0, started := false, gated := true, runs := 0, halt := Option.none, haltAt := 0,
    expired := false, kill := false, saveOff := 0, own := [], requeue := [], rewait := [], ldr := 0 }

def Arb.reset : Arb := ⟨[], [], 0, 0, 0, []⟩
def SwTx.reset : SwTx := ⟨0, 64, [], 0, 0, 0, false, []⟩
def SwPort.reset : SwPort := ⟨false, 0, [], [], [], [], []⟩
def Spdm.reset : Spdm := ⟨false, false, false, 0⟩

def Platform.reset : Platform :=
  { powered := false, link := false, up := false, ready := false, bootFailed := false, replace := false, ltol := 0, hbloss := 0,
    isoerr := 0, shsrc := 0, shdst := 0, shlen := 0, shBusy := false, shErr := false, shDone := 0, shVd := 0, pfvd := 0,
    pfdrops := 0, drops := [], isoUnits := [], partners := [], shJob := (0, 0, 0), reply := .none, spdm := .replicate 9 .reset, ide := [], idePf := false, staged := [], running := [],
    minVer := 0, errs := [], failing := [], fused := [], released := [], held := [], power := [], swait := [] }

/-- The machine right after reset: nothing formed, created, loaded or online; memory lists nothing; nothing is due
(log 1 says how a program comes to run from here). -/
def State.reset : State :=
  { clk := 0, phase := 0, agenda := [], inputs := [], acts := [], pend := [], seqNo := 0, fresh := 0, curCell := 0, curSlot := 0,
    curPilot := 0, fired := false, mem := [], memKey := [], poison := [], llc := [], keySlots := [], cells := [],
    quays := [], pilots := [], beacons := [], parts := [], vds := [], regions := [], saves := [], reqs := [],
    passes := [], cleared := [], paid := [], records := [], arbs := [], ports := [], host := .reset }

end Sys2Proof.Machine
end

