-- ==== Sys2Proof/Machine/Table.lean ====
section
/-! DEFINITION. Tables by number, and memory as a table of bytes in canonical form. -/

namespace Sys2Proof.Machine

/-- The entry of a number, if it is listed. -/
def tblGet? {α : Type} : Tbl α → Nat → Option α
  | [], _ => none
  | (k, v) :: t, n => if k = n then some v else tblGet? t n

/-- The entry of a number, or the default. -/
def tblGet {α : Type} (d : α) (t : Tbl α) (n : Nat) : α := (tblGet? t n).getD d

/-- The table with the entry of a number replaced or inserted in order. -/
def tblPut {α : Type} : Tbl α → Nat → α → Tbl α
  | [], n, v => [(n, v)]
  | (k, x) :: t, n, v =>
    if n < k then (n, v) :: (k, x) :: t else if k = n then (n, v) :: t else (k, x) :: tblPut t n v

/-- The table without the entry of a number. -/
def tblDel {α : Type} : Tbl α → Nat → Tbl α
  | [], _ => []
  | (k, x) :: t, n => if k = n then t else (k, x) :: tblDel t n

/-- A vector with one entry replaced. -/
def vset {α : Type} {n : Nat} (v : Vector α n) (i : Fin n) (x : α) : Vector α n := v.set i.val x i.isLt

/-- What an unlisted byte of memory reads as (log 4: DESIGN CHOICE). -/
def memDefault : Byte := 0

/-- The byte at a physical address. -/
def memRead (m : List Host.Cell) (a : Nat) : Byte := tblGet memDefault m a

/-- Memory after one byte is written. Writing what an unlisted byte reads as removes the entry. -/
def memWrite (m : List Host.Cell) (a : Nat) (v : Byte) : List Host.Cell :=
  if v = memDefault then tblDel m a else tblPut m a v

/-- The addresses rise strictly, all above a bound, and no entry equals the default. -/
def memAbove (m : List Host.Cell) (lo : Nat) : Bool :=
  match m with
  | [] => true
  | (k, v) :: t => lo ≤ k && v != memDefault && memAbove t (k + 1)

/-- The canonical form of memory. -/
def memWf (m : List Host.Cell) : Bool := memAbove m 0

/-- Memory after consecutive bytes are written from an address up. -/
def memWrites (m : List Host.Cell) (a : Nat) : List Byte → List Host.Cell
  | [] => m
  | b :: bs => memWrites (memWrite m a b) (a + 1) bs

/-- n consecutive bytes from an address up. -/
def memReads (m : List Host.Cell) (a : Nat) : Nat → List Byte
  | 0 => []
  | n + 1 => memRead m a :: memReads m (a + 1) n

end Sys2Proof.Machine
end

