-- ==== Sys2Proof/Machine/Ops.lean ====
section
/-! DEFINITION. The named operations over the state: its tables, places and routes, rings, memory, records and stops,
taking a pilot trap and returning from one. -/

namespace Sys2Proof.Machine

/-- What a meaning answers. -/
abbrev Out := Host.Outcome State Fault Refusal

/-! Tables of the state. -/

def State.cell (s : State) (c : Nat) : Cell := tblGet .reset s.cells c
def State.setCell (s : State) (c : Nat) (v : Cell) : State := { s with cells := tblPut s.cells c v }
def State.modCell (s : State) (c : Nat) (f : Cell → Cell) : State := s.setCell c (f (s.cell c))
def State.quay (s : State) (q : Nat) : Quay := tblGet .reset s.quays q
def State.setQuay (s : State) (q : Nat) (v : Quay) : State := { s with quays := tblPut s.quays q v }
def State.modQuay (s : State) (q : Nat) (f : Quay → Quay) : State := s.setQuay q (f (s.quay q))
def State.pilot (s : State) (p : Nat) : Pilot := tblGet .reset s.pilots p
def State.setPilot (s : State) (p : Nat) (v : Pilot) : State := { s with pilots := tblPut s.pilots p v }
def State.modPilot (s : State) (p : Nat) (f : Pilot → Pilot) : State := s.setPilot p (f (s.pilot p))
def State.beacon (s : State) (c : Nat) : Beacon := tblGet .reset s.beacons c
def State.setBeacon (s : State) (c : Nat) (v : Beacon) : State := { s with beacons := tblPut s.beacons c v }
def State.modBeacon (s : State) (c : Nat) (f : Beacon → Beacon) : State := s.setBeacon c (f (s.beacon c))
def State.part (s : State) (n : Nat) : Part := tblGet .none s.parts n
def State.setPart (s : State) (n : Nat) (v : Part) : State := { s with parts := tblPut s.parts n v }
def State.modPart (s : State) (n : Nat) (f : Part → Part) : State := s.setPart n (f (s.part n))
def State.vd (s : State) (n : Nat) : Vd := tblGet .none s.vds n
def State.setVd (s : State) (n : Nat) (v : Vd) : State := { s with vds := tblPut s.vds n v }
def State.modVd (s : State) (n : Nat) (f : Vd → Vd) : State := s.setVd n (f (s.vd n))
def State.region (s : State) (r : Nat) : Region := tblGet .free s.regions r
def State.setRegion (s : State) (r : Nat) (v : Region) : State := { s with regions := tblPut s.regions r v }
def State.modRegion (s : State) (r : Nat) (f : Region → Region) : State := s.setRegion r (f (s.region r))
def State.chan (s : State) (n : Nat) : Chan := tblGet .unused (s.quay (n / 64)).chans (n % 64)
def State.setChan (s : State) (n : Nat) (v : Chan) : State :=
  s.modQuay (n / 64) fun q => { q with chans := tblPut q.chans (n % 64) v }
def State.modChan (s : State) (n : Nat) (f : Chan → Chan) : State := s.setChan n (f (s.chan n))
def State.port (s : State) (n : Nat) : SwPort := tblGet .reset s.ports n
def State.setPort (s : State) (n : Nat) (v : SwPort) : State := { s with ports := tblPut s.ports n v }
def State.modPort (s : State) (n : Nat) (f : SwPort → SwPort) : State := s.setPort n (f (s.port n))

/-- Puts an event on the schedule, `d` clk from now; `cls` and `sub` order the events of one clk. -/
def State.at (s : State) (d cls sub : Nat) (ev : Instr) : State :=
  { s with pend := s.pend ++ [⟨s.clk + d, cls, sub, s.seqNo, ev, none⟩], seqNo := s.seqNo + 1 }

/-- The clk from which a token may arrive: one that its virtual channel took before it comes before it, whatever delayed that one
(14 R325). Tokens that were sent in one clk, or are tied, may arrive in one. -/
def Via.notBefore (v : Via) (p : Pend) : Nat :=
  match p.via with
  | some u => if u.src = v.src ∧ u.tgt = v.tgt then p.due + (if u.sent < v.sent then 1 else 0) else 0
  | none => 0
/-- Puts the arrival of a token from another die on the schedule, no earlier than `d` clk from now. -/
def State.arrives (s : State) (d cls sub : Nat) (v : Via) (ev : Instr) : State :=
  { s with pend := s.pend ++ [⟨s.pend.foldl (fun n p => max n (v.notBefore p)) (s.clk + d), cls, sub, s.seqNo, ev, some v⟩],
           seqNo := s.seqNo + 1 }

/-- Draws the next free value's number. -/
def State.draw (s : State) : Nat × State := (s.fresh, { s with fresh := s.fresh + 1 })

/-- Classes of events that end a clk, in the order they take effect (01 R26, 06 R158). -/
def clsWrite : Nat := 1
def clsArrive : Nat := 2
def clsRequest : Nat := 3
def clsGrant : Nat := 4
def clsBeacon : Nat := 5
def clsOther : Nat := 6
/-- What a turn takes of the arbiters, sent ahead of it: nothing comes at its end. -/
def clsAhead : Nat := 7

/-! Fields of the image words (02 R48 to R52, 03 R62). -/

def trgV (t : Word) : Bool := bit t 0
def trgCg (t : Word) : Bool := bit t 3
def trgMk (t : Word) : Bool := bit t 4
def trgTmv (t : Word) : Nat := bf t 5 4
def trgTmp (t : Word) : Fin 4 := Fin.ofNat 4 (bf t 9 2)
def trgTme (t : Word) : Bool := bit t 11
def trgRdy (t : Word) (n : Fin 4) : Bool := bit t (12 + n.val)
def trgPv (t : Word) : Byte := t.extractLsb' 16 8
def trgPm (t : Word) : Byte := t.extractLsb' 24 8

def ctlFair (c : DWord) : Bool := bit c 0
def ctlMset (c : DWord) (n : Fin 4) : Bool := bit c (1 + n.val)
def ctlMfan (c : DWord) (n : Fin 4) : Bool := bit c (5 + n.val)
def ctlMatrix (c : DWord) : Bool := bit c 9
def ctlCtv (c : DWord) : Nat := bf c 10 16
def ctlNctx (c : DWord) : Fin 4 := Fin.ofNat 4 (bf c 26 2)
def ctlPinit (c : DWord) : Byte := c.extractLsb' 28 8

def rtV (r : DWord) : Bool := bit r 0
def rtCtx (r : DWord) : Fin 4 := Fin.ofNat 4 (bf r 1 2)
def rtPort (r : DWord) : Fin 4 := Fin.ofNat 4 (bf r 3 2)
def rtDest (r : DWord) : Nat := bf r 5 16

def bdBase (b : DWord) : Nat := bf b 0 10
def bdCap (b : DWord) : Nat := bf b 10 9 + 1
def bdRdc (b : DWord) : Nat := bf b 19 2 + 1
def bdDcnt (b : DWord) : Nat := bf b 21 16
def bdEn (b : DWord) : Bool := bit b 37

/-- All port or handle numbers, in ascending order. -/
def four : List (Fin 4) := [0, 1, 2, 3]
/-- All slot numbers of a context. -/
def sixteen : List (Fin 16) := List.finRange 16

/-! Fields of the region header (02 R55), held as 512 bits. -/

def hdrRow (h : BitVec 512) : Nat := bf h 48 8
def hdrRows (h : BitVec 512) : Nat := bf h 56 8
def hdrStrip (h : BitVec 512) : Nat := bf h 64 8
def hdrCol (h : BitVec 512) : Nat := bf h 72 8
def hdrWidth (h : BitVec 512) : Nat := bf h 80 16
def hdrQn (h : BitVec 512) : Bool := bit h 96
def hdrQs (h : BitVec 512) : Bool := bit h 97
def hdrDiscard (h : BitVec 512) : Bool := bit h 98
def hdrIdem (h : BitVec 512) : Bool := bit h 99
def hdrCtxs (h : BitVec 512) : BitVec 4 := h.extractLsb' 104 4
def hdrClass (h : BitVec 512) : Nat := bf h 112 2
def hdrTraps (h : BitVec 512) : BitVec 6 := h.extractLsb' 120 6
def hdrBerth (h : BitVec 512) : Nat := bf h 128 32
def hdrQuay (h : BitVec 512) : Nat := bf h 160 32
def hdrChans (h : BitVec 512) : Nat := bf h 192 16
def hdrCfmt (h : BitVec 512) : BitVec 10 := h.extractLsb' 208 10
def hdrEntry (h : BitVec 512) : Word := h.extractLsb' 224 32
def hdrWidths (h : BitVec 512) : DWord := h.extractLsb' 256 64
def hdrLimits (h : BitVec 512) : DWord := h.extractLsb' 320 64
def hdrBeacon (h : BitVec 512) : Bool := bit h 386
def hdrTagBase (h : BitVec 512) : BitVec 12 := h.extractLsb' 400 12
def hdrTagSize (h : BitVec 512) : Nat := bf h 416 8 + 1
def hdrImage (h : BitVec 512) : Nat := bf h 448 32

/-- The highest context the header marks as used (01 R20). -/
def hdrFinal (h : BitVec 512) : Fin 4 :=
  if bit (hdrCtxs h) 3 then 3 else if bit (hdrCtxs h) 2 then 2 else if bit (hdrCtxs h) 1 then 1 else 0

/-! Places (02 R49, 15 R336). A cell is numbered by its place field with the physical strip. -/

def cellStrip (c : Nat) : Nat := c / 1024
def cellCol (c : Nat) : Nat := c / 128 % 8
def cellRow (c : Nat) : Nat := c % 128
def isQuayCell (c : Nat) : Bool := 126 ≤ cellRow c
/-- The quay of a quay cell (12 R286 numbering: 2 × strip, plus 1 for the south quay). -/
def quayOf (c : Nat) : Nat := 2 * cellStrip c + (if cellRow c = 127 then 1 else 0)
/-- Row for distances: −1 and 96 of 14 R320, shifted up by one. -/
def rowY (c : Nat) : Nat := if cellRow c = 126 then 0 else if cellRow c = 127 then 97 else cellRow c + 1

/-- The partition of a physical strip, if it is assigned (15 R332). -/
def State.partOf (s : State) (strip : Nat) : Option Nat :=
  (s.parts.find? fun (_, p) => p.first ≤ strip && strip < p.first + p.count).map (·.1)

/-- The partition of a cell (01 R11). -/
def State.cellPart (s : State) (c : Nat) : Nat := (s.partOf (cellStrip c)).getD 0

/-- The logical place field of a cell (15 R336). -/
def State.place (s : State) (c : Nat) : BitVec 16 :=
  BitVec.ofNat 16 (c - 1024 * (s.part (s.cellPart c)).first)

/-- The physical cell of a place field of a partition. -/
def State.atPlace (s : State) (part place : Nat) : Nat := place + 1024 * (s.part part).first

/-- The region of a cell, its header, its virtual device's number in the partition and in the package. -/
def State.cellRegion (s : State) (c : Nat) : Region :=
  match (s.cell c).region with
  | some r => s.region r
  | none => .free
def State.cellHdr (s : State) (c : Nat) : BitVec 512 := (s.cellRegion c).hdr
def State.cellRid (s : State) (c : Nat) : Nat :=
  match (s.cell c).region with
  | some _ => (s.cellRegion c).rid
  | none => 0xFFFF
def State.cellVd (s : State) (c : Nat) : Nat := 8 * s.cellPart c + (s.cellRegion c).vd

/-- The physical number of a logical channel number of a partition (01 R32). -/
def State.chanAt (s : State) (part ch : Nat) : Nat := ch + 128 * (s.part part).first

/-! Latency of a route (14 R320, R324). -/

/-- Clk to the Causeway port of the nearer quay row (column 0). -/
def toPort (c : Nat) : Nat := (if rowY c ≤ 48 then rowY c else 97 - rowY c) + cellCol c

def routeLat (a b : Nat) : Nat :=
  let da := cellStrip a / 12
  let db := cellStrip b / 12
  if da = db then
    2 + dist (8 * cellStrip a + cellCol a) (8 * cellStrip b + cellCol b) + dist (rowY a) (rowY b) +
      dist (cellStrip a) (cellStrip b)
  else 2 + toPort a + (8 + 16 * dist da db) + toPort b

/-- The rank of the link by which a route enters its target: north, east, south, west, local (10 R259, 14 R319). A quay cell at column 0,
beside the Causeway port, takes what comes from the port as local, since no link is named for it (DESIGN CHOICE, log 114). -/
def entryLink (a b : Nat) : Nat :=
  if cellStrip a / 12 = cellStrip b / 12 then
    if rowY a < rowY b then 0 else if rowY b < rowY a then 2
    else if 8 * cellStrip a + cellCol a < 8 * cellStrip b + cellCol b then 3
    else if 8 * cellStrip b + cellCol b < 8 * cellStrip a + cellCol a then 1 else 4
  else if rowY b ≤ 48 then (if rowY b = 0 then (if cellCol b = 0 then 4 else 3) else 0)
  else (if rowY b = 97 then (if cellCol b = 0 then 4 else 3) else 2)

/-! Slots and rings (10 R255 to R263). -/

def Cell.slot (c : Cell) (i : Nat) : Slot := tblGet .free c.store i
def Cell.setSlot (c : Cell) (i : Nat) (v : Slot) : Cell := { c with store := tblPut c.store i v }
def Cell.ctx (c : Cell) : Ctx := c.ctxs[c.actx]
def Cell.setCtx (c : Cell) (x : Fin 4) (v : Ctx) : Cell := { c with ctxs := vset c.ctxs x v }
def Cell.modCtx (c : Cell) (x : Fin 4) (f : Ctx → Ctx) : Cell := c.setCtx x (f c.ctxs[x])
def Ctx.modRing (x : Ctx) (p : Fin 4) (f : Ring → Ring) : Ctx := { x with rings := vset x.rings p (f x.rings[p]) }
def Ctx.modHand (x : Ctx) (n : Fin 4) (f : Handle → Handle) : Ctx := { x with hands := vset x.hands n (f x.hands[n]) }

/-- The store slot at the head of a ring. -/
def Cell.headIdx (c : Cell) (x p : Fin 4) : Nat := bdBase c.ctxs[x].binds[p] + c.ctxs[x].rings[p].head

/-- The token at the head of an in-port of a context, once it is written (06 R145). -/
def Cell.headTok (c : Cell) (x p : Fin 4) : Option Token :=
  if c.ctxs[x].rings[p].held = 0 then none
  else
    let sl := c.slot (c.headIdx x p)
    if sl.rdr ≠ 0 ∧ sl.fe = 0xFF then some ⟨sl.pay, sl.tag⟩ else none

/-- A data token is at the head of in-port p of the active context (01 R16). -/
def Cell.dataAt (c : Cell) (p : Fin 4) : Bool :=
  match c.headTok c.actx p with
  | some t => t.tag.lvl == 0
  | none => false

/-- The head advance of 10 R262, with R256; `fuel` is the number of slots held. -/
def ringAdvance (freed : Nat → Bool) (cap : Nat) (r : Ring) : Nat → Ring
  | 0 => if r.held = 0 then { r with head := 0, tail := 0, pad := none } else r
  | fuel + 1 =>
    if r.held = 0 then { r with head := 0, tail := 0, pad := none }
    else if freed r.head then
      let h := (r.head + 1) % cap
      let r1 := { r with head := h, held := r.held - 1 }
      match r1.pad with
      | some e =>
        ringAdvance freed cap
          (if h = e then { r1 with head := 0, held := r1.held - (cap - e), pad := none } else r1) fuel
      | none => ringAdvance freed cap r1 fuel
    else r

/-- Advances the head of a ring past its freed slots. -/
def Cell.advance (c : Cell) (x p : Fin 4) : Cell :=
  let b := c.ctxs[x].binds[p]
  c.modCtx x fun k => k.modRing p fun r =>
    ringAdvance (fun i => (c.slot (bdBase b + i)).rdr == 0) (bdCap b) r (r.held + 1)

/-- Frees a slot: its bits empty, its data kept (10 R262). -/
def Slot.freed (sl : Slot) : Slot := { sl with rdr := 0, fe := 0 }

/-- A pop of the head of an in-port; `whole` frees the slot whatever its reader count (01 R17, 06 R146). A slot it frees still
takes a token that arrives in this clk (01 R26). -/
def Cell.pop (c : Cell) (x p : Fin 4) (whole : Bool) : Cell :=
  let i := c.headIdx x p
  let sl := c.slot i
  if whole || sl.rdr ≤ 1 then { (c.setSlot i sl.freed).advance x p with freed := i :: c.freed }
  else c.setSlot i { sl with rdr := sl.rdr - 1 }

/-- Grantable of 10 R257: the start of a run of n slots and whether it leaves a pad. -/
def grantable (r : Ring) (cap n : Nat) : Option (Nat × Bool) :=
  if r.held = cap then none
  else if r.head ≤ r.tail then
    if n ≤ cap - r.tail then some (r.tail, false) else if n ≤ r.head then some (0, true) else none
  else if n ≤ r.head - r.tail then some (r.tail, false) else none

/-- The ring after Grant of 10 R257. -/
def ringGrant (r : Ring) (cap n start : Nat) (pad : Bool) : Ring :=
  { r with
    pad := if pad then some r.tail else r.pad
    held := r.held + (if pad then cap - r.tail else 0) + n
    tail := (start + n) % cap }

/-- Readies the slots of a granted berth: reader count, full/empty bits empty. -/
def Cell.readySlots (c : Cell) (base rdc : Nat) : Nat → Cell
  | 0 => c
  | n + 1 => (c.readySlots base rdc n).setSlot (base + n) { c.slot (base + n) with rdr := rdc, fe := 0 }

/-- Marks slots of a cell store as holes (10 R263). -/
def Cell.holes (c : Cell) (base : Nat) : Nat → Cell
  | 0 => c
  | n + 1 => (c.holes base n).setSlot (base + n) (c.slot (base + n)).freed

/-- Advances every ring of a cell. -/
def Cell.advanceAll (c : Cell) : Cell := four.foldl (fun c x => four.foldl (fun c p => c.advance x p) c) c

/-! The marker join (01 R17). -/

/-- The least of the levels of the marker-set heads, if all hold markers. -/
def joinLevels (c : Cell) : List (Fin 4) → Option (Option (BitVec 3))
  | [] => some none
  | p :: ps =>
    match joinLevels c ps with
    | none => none
    | some m =>
      if ctlMset c.ctx.ctl p then
        match c.headTok c.actx p with
        | some t =>
          if t.tag.lvl = 0 then none
          else some (some (match m with | some l => if l.toNat < t.tag.lvl.toNat then l else t.tag.lvl | none => t.tag.lvl))
        | none => none
      else some m

/-- The level of the markers at the heads of the marker set of the active context. -/
def Cell.joinLevel (c : Cell) : Option (BitVec 3) := (joinLevels c four).join
/-- The level of the pending join of the active context; none during a drain (07 R185). -/
def Cell.join (c : Cell) : Option (BitVec 3) := if c.mx.drain.isSome then none else c.joinLevel

/-- A valid slot of the active context has mk set (01 R19). -/
def Cell.claims (c : Cell) : Bool := sixteen.any fun i => trgV c.ctx.trig[i] && trgMk c.ctx.trig[i]

/-! RACE (06 R159). -/

/-- The round parameter k of an in-port of a context that a RACE slot makes a race port; the first slot decides where several
name the port (log 18). -/
def Ctx.race (x : Ctx) (p : Fin 4) : Option Nat :=
  match sixteen.find? (fun i => trgV x.trig[i] && bf x.inst[i] 24 8 == 0xAD && bf x.inst[i] 19 5 == 8 + p.val) with
  | some i => some (bf x.inst[i] 14 3 + 1)
  | none => none

/-- The largest round parameter of a context's race ports. -/
def Ctx.raceMost (x : Ctx) : Nat := four.foldl (fun n p => max n ((x.race p).getD 0)) 0

/-- The arrival count after one data arrival, and what it latches (03 R63, 06 R159; log 18). -/
def Cell.countArrival (c : Cell) (x p : Fin 4) (t : Token) : Cell :=
  if t.tag.lvl ≠ 0 then c
  else
    match c.ctxs[x].race p with
    | some k =>
      let pos := c.ctxs[x].rings[p].arr
      let m := bdDcnt c.ctxs[x].binds[p]
      let c1 := c.modCtx x fun y => y.modRing p fun r => { r with arr := (pos + 1) % m }
      if x = c.actx ∧ pos < k ∧ pos < 8 then
        { c1 with raceLatch := vset c1.raceLatch (Fin.ofNat 8 pos) ((lane t.pay 0).setWidth 16),
                  raceCnt := min c.ctxs[x].raceMost (c1.raceCnt + 1) }
      else c1
    | none => c.modCtx x fun y => y.modRing p fun r => { r with arr := min 65535 (r.arr + 1) }

/-! Handles (01 R25). -/

def Handle.word (h : Handle) : Word :=
  BitVec.ofNat 32 (h.rd * 2 ^ 30 + h.wr * 2 ^ 20 + h.len * 2 ^ 11 + h.base * 2 + (if h.v then 1 else 0))

/-- A handle after one more slot of its berth is written. -/
def Handle.wrote (h : Handle) : Handle := { h with wr := h.wr + 1 }
/-- Every slot of the berth is written. -/
def Handle.spent (h : Handle) : Bool := h.len < h.wr
/-- The end of a clk: a berth that is written whole ends the handle (01 R25). -/
def Handle.endClk (h : Handle) : Handle := { h with v := h.v && !h.spent }

/-! Sending along a route (06 R145, 14 R321). -/

/-- The cell that out port n of the active context of a cell reaches. -/
def State.routeCell (s : State) (c : Nat) (x n : Fin 4) : Nat :=
  s.atPlace (s.cellPart c) (rtDest (s.cell c).ctxs[x].routes[n])

/-- A seam on the way between two strips is sealed: they are of different partitions, or the second is released (15 R333, R335). -/
def State.sealed (s : State) (a b : Nat) : Bool := s.partOf a != s.partOf b || s.host.released.contains b
/-- The unit at which what goes from a strip to another with another partition id is discarded: the seam of the other strip, or, on
another die, its Causeway port (15 R346; log 93). -/
def isoPoint (a b : Nat) : HwUnit := if a / 12 = b / 12 then .strip b else .causeway b
/-- What a flit or a request for a cell comes to: its arrival, or, at a sealed seam or a Causeway port, an isolation error (15 R346). -/
def State.across (s : State) (c dst : Nat) (ev : Instr) : Instr :=
  if s.sealed (cellStrip c) (cellStrip dst) then .isolationError (isoPoint (cellStrip c) (cellStrip dst), s.seqNo) else ev

/-- The die boundaries between two strips, in the direction travelled: 32 bytes cross each (15 R339). -/
def boundaries (a b : Nat) : List (Nat × Nat × Nat) :=
  if a / 12 ≤ b / 12 then (List.range (b / 12 - a / 12)).map fun i => (3, 2 * (a / 12 + i), 32)
  else (List.range (a / 12 - b / 12)).map fun i => (3, 2 * (b / 12 + i) + 1, 32)

/-- What crosses the arbiters `todo` and comes to `ev` no earlier than `lat` clk from now; it joins the first queue at the end of
the clk. -/
def State.sendVia (s : State) (vd rclass rank lat : Nat) (todo : List (Nat × Nat × Nat)) (cls sub : Nat) (ev : Option Instr)
    (via : Option Via) : State :=
  { s with passes := s.passes ++ [⟨s.seqNo, vd, rclass, rank, s.clk, lat, todo, false, cls, sub, ev, via⟩], seqNo := s.seqNo + 1 }
def State.send (s : State) (vd rclass rank lat : Nat) (todo : List (Nat × Nat × Nat)) (cls sub : Nat) (ev : Option Instr) : State :=
  s.sendVia vd rclass rank lat todo cls sub ev none

/-- Puts a token of cell c on its way to a slot of a ring. On its way to another die it also passes the die boundaries, at 32
bytes each (14 R325). -/
def State.fly (s : State) (c dst : Nat) (x p : Fin 4) (slot lat : Nat) (t : Token) : State :=
  let sub := (lane t.pay 0 &&& 0xFFFF#32).toNat
  let ev := s.across c dst (.tokenArrival dst x.val p.val slot t)
  match boundaries (cellStrip c) (cellStrip dst) with
  | [] => s.at lat clsArrive sub ev
  | bs => s.sendVia (s.cellVd c) (hdrClass (s.cellHdr c)) 0 lat bs clsArrive sub (some ev)
      (some ⟨c, (dst, x.val, p.val), s.clk⟩)

/-- Sends a token to the slot `off` of the berth of out port n. -/
def State.deliver (s : State) (c : Nat) (n : Fin 4) (off : Nat) (t : Token) : State :=
  let cl := s.cell c
  let r := cl.ctx.routes[n]
  let d := s.routeCell c cl.actx n
  s.fly c d (rtCtx r) (rtPort r) (cl.ctx.hands[n].base + off) (routeLat c d) t

/-- Counts one write of the berth of out port n. -/
def State.countWrite (s : State) (c : Nat) (n : Fin 4) : State :=
  s.modCell c fun cl => cl.modCtx cl.actx fun x => x.modHand n Handle.wrote

/-- An ordinary write to out port n (06 R145). -/
def State.writeOut (s : State) (c : Nat) (n : Fin 4) (t : Token) : State :=
  (s.deliver c n ((s.cell c).ctx.hands[n].wr) t).countWrite c n

/-- A destination's write (03 R68). -/
def State.writeDst (s : State) (c : Nat) (d : Dst) (t : Token) : State :=
  match d with
  | .w i => s.modCell c fun cl => { cl with w := vset cl.w i t.pay }
  | .out n => s.writeOut c n t
  | .pr => s.modCell c fun cl => { cl with p := (lane t.pay 0).setWidth 8 }
  | .h _ => s
  | .nul => s

/-- Reserves what a deferred write needs at its firing (06 R158, 08 R195). -/
def State.reserve (s : State) (c : Nat) (d : Dst) : WDst × State :=
  match d with
  | .w i => (.reg i, s)
  | .pr => (.pr, s)
  | .out n =>
    let cl := s.cell c
    let r := cl.ctx.routes[n]
    let dst := s.routeCell c cl.actx n
    let h := cl.ctx.hands[n]
    (.out dst (rtCtx r).val (rtPort r).val (h.base + h.wr) (routeLat c dst), s.countWrite c n)
  | .h _ => (.none, s)
  | .nul => (.none, s)

/-- A deferred write. -/
def State.landOne (s : State) (c : Nat) (d : WDst) (t : Token) : State :=
  match d with
  | .none => s
  | .reg i => s.modCell c fun cl => { cl with w := vset cl.w i t.pay }
  | .pr => s.modCell c fun cl => { cl with p := (lane t.pay 0).setWidth 8 }
  | .out dst x p slot lat => s.fly c dst (Fin.ofNat 4 x) (Fin.ofNat 4 p) slot lat t

def State.land (s : State) (c : Nat) (w : DefW) (pay : Wide) : State :=
  (s.landOne c w.x ⟨pay, w.tag⟩).landOne c w.y ⟨pay, w.tag⟩

/-- Sends a berth request of n slots for handle N along its route (06 R143). -/
def State.request (s : State) (c : Nat) (n : Fin 4) (cnt : Nat) (mrk : Bool) : State :=
  let cl := s.cell c
  let r := cl.ctx.routes[n]
  let d := s.routeCell c cl.actx n
  let l := routeLat c d
  let q : BReq :=
    { kind := 0, who := s.place c, src := c, fctx := cl.actx.val, hnd := n.val, cnt := cnt, dctx := (rtCtx r).val,
      dport := (rtPort r).val, mrk := mrk, chan := 0, rank := 0, lat := l, owner := cl.region.getD 0, toks := [] }
  (s.at l clsRequest (entryLink c d * 16 + (if entryLink c d = 4 then 2 * n.val + (if mrk then 1 else 0) else 0))
    (s.across c d (.berthRequestArrival (.cell d) q))).modCell c fun cl =>
      cl.modCtx cl.actx fun x => x.modHand n fun h => { h with out := true }

/-! Power states (17 R383, R384). -/

def State.modHost (s : State) (f : Platform → Platform) : State := { s with host := f s.host }
def State.powerOf (s : State) (strip : Nat) : Power := tblGet .p0 s.host.power strip
def State.setPower (s : State) (strip : Nat) (p : Power) : State :=
  s.modHost fun h => { h with power := if p = .p0 then tblDel h.power strip else tblPut h.power strip p }
/-- Every strip is in P0. -/
def State.wakeAll (s : State) : State := s.modHost fun h => { h with power := [] }
/-- A strip goes back to P0; P3 is a state of the whole package. -/
def State.wake (s : State) (strip : Nat) : State := if s.powerOf strip = .p3 then s.wakeAll else s.setPower strip .p0

/-! Memory by physical address, with keys (12 R286, R290, R291; 15 R347). -/

def State.keyVal (s : State) (k : BitVec 6) : BitVec 512 := tblGet 0 s.keySlots k.toNat

/-- A byte as read under a key. -/
def State.byteAt (s : State) (k : BitVec 6) (a : Nat) : Byte :=
  match tblGet? s.memKey (a / 16) with
  | none => memRead s.mem a
  | some kv =>
    if kv = s.keyVal k then memRead s.mem a
    else (crossKey kv (s.keyVal k) (a / 16) (ofBytes 128 (memReads s.mem (a / 16 * 16) 16))).extractLsb'
      (8 * (a % 16)) 8

/-- n bytes from an address up. -/
def State.bytesAt (s : State) (k : BitVec 6) (a : Nat) : Nat → List Byte
  | 0 => []
  | n + 1 => s.byteAt k a :: s.bytesAt k (a + 1) n

/-- The sector of an address as the slice would hold it before a write under a key. -/
def State.rekey (s : State) (k : BitVec 6) (a : Nat) : State :=
  match tblGet? s.memKey (a / 16) with
  | none => { s with memKey := tblPut s.memKey (a / 16) (s.keyVal k) }
  | some kv =>
    if kv = s.keyVal k then s
    else { s with mem := memWrites s.mem (a / 16 * 16) (s.bytesAt k (a / 16 * 16) 16),
                  memKey := tblPut s.memKey (a / 16) (s.keyVal k) }

/-- One byte written under a key. -/
def State.putByte (s : State) (k : BitVec 6) (a : Nat) (b : Byte) : State :=
  let s1 := s.rekey k a
  { s1 with mem := memWrite s1.mem a b }

/-- Consecutive bytes written under a key; a whole sector written clears its poison (16 R373). -/
def State.putBytes (s : State) (k : BitVec 6) (a : Nat) : List Byte → State
  | [] => s
  | b :: bs => (s.putByte k a b).putBytes k (a + 1) bs

/-- The sectors that n bytes at an address cover whole. -/
def wholeSectors (a n : Nat) : List Nat :=
  (List.range (n / 16 + 2)).filterMap fun i =>
    if a ≤ (a / 16 + i) * 16 ∧ (a / 16 + i) * 16 + 16 ≤ a + n then some (a / 16 + i) else none

def State.store (s : State) (k : BitVec 6) (a : Nat) (bs : List Byte) : State :=
  let s1 := s.putBytes k a bs
  if s1.poison.isEmpty then s1
  else { s1 with poison := s1.poison.filter fun x => !(wholeSectors a bs.length).contains x }

/-- A value of w bits read little-endian from n bytes. -/
def State.valAt (s : State) (w : Nat) (k : BitVec 6) (a n : Nat) : BitVec w := ofBytes w (s.bytesAt k a n)

/-- Some sector of n bytes at an address is poisoned. -/
def State.poisonedAt (s : State) (a n : Nat) : Bool :=
  !s.poison.isEmpty && s.poison.any fun x => a / 16 ≤ x && x ≤ (a + n - 1) / 16

/-- The home quay of a physical address (12 R286), with fused slices replaced (16 R372). -/
def homeQuay (fused : List Nat) (pa : Nat) : Nat :=
  let line := pa / 128
  let x := ((line % 65536) ^^^ (line / 65536 % 65536)) ^^^ (line / 2 ^ 32 % 8192)
  let stack := x % 12
  let sl := x / 12 % 8
  let strip := 12 * (stack / 3) + 4 * (stack % 3) + sl / 2
  let q := 2 * strip + sl % 2
  if fused.contains q then q ^^^ 1 else q

def State.home (s : State) (pa : Nat) : Nat := homeQuay s.host.fused pa

/-! Records (13 R303). -/

/-- A record's 32 bytes from its type, virtual device, region and body fields (offset, size, value); the cycles of
bytes 4 to 7 are put in at the posting. -/
def recBody (ty vd rid : Nat) (fs : List (Nat × Nat × Nat)) : Wide :=
  BitVec.ofNat 256 (fs.foldl (fun acc f => acc + f.2.2 % 2 ^ (8 * f.2.1) * 2 ^ (8 * f.1))
    (ty % 256 + vd % 8 * 2 ^ 8 + rid % 2 ^ 16 * 2 ^ 16))

/-- A record waits at its source until the queue has room (09 R248). -/
def State.post (s : State) (part src : Nat) (cell : Option Nat) (body : Wide) : State :=
  { s with records := s.records ++ [⟨part, src, body, cell⟩] }

/-- The deferred writes of a cell that is halted or stopped: what is left of each delay (16 R364, 06 R169). -/
def Cell.freeze (c : Cell) (clk : Nat) : Cell := { c with dly := c.dly.map fun d => { d with due := d.due - clk } }
/-- The deferred writes of a cell that runs again. -/
def Cell.thaw (c : Cell) (clk : Nat) : Cell := { c with dly := c.dly.map fun d => { d with due := d.due + clk } }

/-- The region of a cell is gated, or not yet in the first clk of its start (16 R364, R367). -/
def State.halted (s : State) (c : Nat) : Bool := (s.cellRegion c).gated || decide (s.clk < (s.cellRegion c).runs)
/-- A cell that fires nothing and holds what it delayed and its drain: stopped, or its region halted (06 R169, 07 R187; log 112). -/
def State.frozen (s : State) (c : Nat) : Bool := (s.cell c).stop.stopped || s.halted c

/-- A stop of a cell and its record (16 R360 to R362). A stopped cell raises no further stop. -/
def State.stopCell (s : State) (c : Nat) (cause detail : Byte) (slot : Nat) (value : DWord) (extra chan : Word) : State :=
  if (s.cell c).stop.stopped then s
  else
    (s.modCell c fun cl => { (if (s.cellRegion c).gated then cl else cl.freeze s.clk) with stop := ⟨true, cause, extra⟩ }).post (s.cellPart c) (cellStrip c) none
      (recBody 6 (s.cellRegion c).vd (s.cellRid c)
        [(8, 1, cause.toNat), (9, 1, detail.toNat), (10, 2, (s.place c).toNat), (12, 1, (s.cell c).actx.val), (13, 1, slot),
         (16, 8, value.toNat), (24, 4, extra.toNat), (28, 4, chan.toNat)])

/-- A stop taken before the firing: the slot has no effect (05 R396, 16 R362). -/
def State.stopHere (s : State) (cause detail : Byte) (value : DWord) (extra chan : Word) : State :=
  { s.stopCell s.curCell cause detail s.curSlot.val value extra chan with fired := true }

/-! Pilots (09 R220 to R227). -/

def Pilot.reg (p : Pilot) (i : Fin 32) : DWord := if i = 0 then 0 else p.g[i]
def Pilot.setReg (p : Pilot) (i : Fin 32) (v : DWord) : Pilot := if i = 0 then p else { p with g := vset p.g i v }
def Pilot.sup (p : Pilot) : Bool := bit p.status 0
def Pilot.next (p : Pilot) : Pilot := { p with pc := p.pc + 4, wait := .no }

/-- Reads and writes of the pilot whose turn it is. -/
def State.me (s : State) : Pilot := s.pilot s.curPilot
def State.g (s : State) (i : Fin 32) : DWord := s.me.reg i
def State.modMe (s : State) (f : Pilot → Pilot) : State := s.modPilot s.curPilot f
/-- A result in gd and the pc after the instruction. -/
def State.ret (s : State) (d : Fin 32) (v : DWord) : State := s.modMe fun p => (p.setReg d v).next

/-- The status after trap entry: the current byte saved, supervisor mode, interrupts disabled (09 R225). -/
def trapStatus (st : DWord) : DWord := (st &&& 0xFF) <<< 8 ||| 1

/-- TAKING A TRAP (09 R224, R225). -/
def Pilot.trap (p : Pilot) (cause epc tval : DWord) : Pilot :=
  { p with epc := epc &&& ~~~3#64, cause := cause, tval := tval, status := trapStatus p.status, pc := p.tvec, wait := .no,
           ans := none, walk := none, acc := none }

/-- RETURN from a trap (09 R227). -/
def Pilot.eret (p : Pilot) : Pilot :=
  { p with pc := p.epc, status := (p.status &&& 0xFF00) ||| (p.status >>> 8 &&& 0xFF) }

/-- A synchronous trap of the pilot whose turn it is: epc is the instruction (09 R224). -/
def State.trap (s : State) (cause tval : DWord) : State := s.modMe fun p => p.trap cause p.pc tval

/-- Illegal instruction (09 R224: tval is the instruction word). -/
def State.illegal (s : State) (w : Word) : State := s.trap 1 (w.setWidth 64)

/-- The global number of the virtual device of the pilot's software and the pilot's partition. -/
def State.myPart (s : State) : Nat := (s.partOf s.curPilot).getD 0
def State.myVd (s : State) : Nat := 8 * s.myPart + bf s.me.vdid 0 3

end Sys2Proof.Machine
end

