-- ==== Sys2Proof/Machine/Operands.lean ====
section
/-! DEFINITION. Operand forms and the firing of a slot (03 R67 to R71, 05 R120). -/

namespace Sys2Proof.Machine

/-- What the operand shapes have in common (03 R71): source selects, destinations, pops and the out-tag rule. -/
structure Fire where
  a : Option Sel
  b : Option Sel
  x : Dst
  y : Dst
  p : Bool
  q : Bool
  t : TagRule
  deriving DecidableEq, Repr

def ofO (o : OpO) : Fire := ⟨none, none, o.x, o.y, false, false, o.t⟩
def ofI (o : OpI) : Fire := ⟨none, none, o.x, o.y, false, false, o.t⟩
def ofU (o : OpU) : Fire := ⟨some o.a, none, o.x, o.y, o.p, false, o.t⟩
def ofB (o : OpB) : Fire := ⟨some o.a, some o.b, o.x, o.y, o.p, o.q, o.t⟩
def ofBW (o : OpBW) : Fire := ⟨some o.a, some o.b, .w o.x, o.y, o.p, o.q, o.t⟩
def ofUI (o : OpUI) : Fire := ⟨some o.a, none, o.x, o.y, o.p, false, o.t⟩
def ofUF (o : OpUF) : Fire := ⟨some o.a, none, o.x, .nul, o.p, false, o.t⟩
def ofBF (o : OpBF) : Fire := ⟨some o.a, some o.b, o.x, .nul, o.p, o.q, o.t⟩
def ofUIF (o : OpUIF) : Fire := ⟨some o.a, none, o.x, .nul, o.p, false, o.t⟩
def ofUIW (o : OpUIW) : Fire := ⟨some o.a, none, .w o.x, .nul, o.p, false, o.t⟩
def ofKU (o : OpKU) : Fire := ⟨some o.a, none, .nul, .nul, o.p, false, .ofA⟩
def ofKB (o : OpKB) : Fire := ⟨some o.a, some o.b, .nul, .nul, o.p, o.q, .ofA⟩
def ofKI (o : OpKI) : Fire := ⟨some o.a, none, .nul, .nul, o.p, false, .ofA⟩
def ofKF (o : OpKF) : Fire := ⟨some o.a, none, .nul, .nul, o.p, false, .ofA⟩
def ofPO (o : OpPO) : Fire := ⟨some o.a, some o.b, .out o.x, .nul, o.p, o.q, o.t⟩
def ofSF (o : OpSF) : Fire := ⟨some o.a, some o.b, .nul, .nul, o.p, o.q, o.t⟩
/-- A slot with neither sources nor destinations (shapes Z, NIF, BN, PF). -/
def ofZ : Fire := ⟨none, none, .nul, .nul, false, false, .ofA⟩

/-- The token read through a source select (03 R67). -/
def Cell.src (c : Cell) : Sel → Token
  | .w i => ⟨c.w[i], .zero⟩
  | .inp i => (c.headTok c.actx i).getD ⟨0, .zero⟩
  | .h i => ⟨inLane0 c.ctx.hands[i].word, .zero⟩
  | .k i => ⟨splat c.ctx.lits[i], .zero⟩

/-- The token of a source, where it lies. -/
def Cell.srcAt (c : Cell) (x : Sel) : SrcAt :=
  match x with
  | .inp i => ⟨c.actx, x, c.headIdx c.actx i, c.src x, (c.headTok c.actx i).isSome⟩
  | _ => ⟨c.actx, x, 0, c.src x, true⟩

/-- An optional source; a zero token where the shape has none. -/
def Cell.srcO (c : Cell) : Option Sel → Token
  | some x => c.src x
  | none => ⟨0, .zero⟩

/-- A source that can be read: an in-port needs a token at its head. -/
def Cell.srcOk (c : Cell) : Option Sel → Bool
  | some (.inp i) => (c.headTok c.actx i).isSome
  | _ => true

/-- A destination that can be written: an out port needs its handle valid (03 R63, condition 7). -/
def Cell.dstOk (c : Cell) : Dst → Bool
  | .out n => c.ctx.hands[n].v
  | _ => true

/-- The sources can be read and the destinations written. -/
def Cell.ready (c : Cell) (f : Fire) : Bool := c.srcOk f.a && c.srcOk f.b && c.dstOk f.x && c.dstOk f.y

/-- The tag of the out-tag rule (03 R69, 05 R120). -/
def Cell.outTag (c : Cell) (f : Fire) : Tag :=
  match f.t with
  | .ofA => (c.srcO f.a).tag
  | .ofB => (c.srcO f.b).tag
  | .zero => .zero
  | .next => ⟨0, false, c.seqc⟩

/-- The in-port a source names, if it is one. -/
def selPort : Option Sel → Option (Fin 4)
  | some (.inp i) => some i
  | _ => none

/-- The in-ports a firing pops, A's first. -/
def Fire.popped (f : Fire) : List (Fin 4) :=
  (if f.p then (selPort f.a).toList else []) ++ (if f.q then (selPort f.b).toList else [])

/-- A pop; a marker is freed whatever its reader count (01 R17, R19). A slot with mk set pops the marker at the head of each port it
names, also where its level is above the joined one: 01 R17 keeps such a marker at its port and R19 has the slot's pops free the
markers (DESIGN CHOICE, log 99). -/
def Cell.popPort (c : Cell) (p : Fin 4) : Cell := c.pop c.actx p (!c.dataAt p)

/-- The trigger word of the slot whose turn it is. -/
def State.trig (s : State) : Word := (s.cell s.curCell).ctx.trig[s.curSlot]

/-- What a firing that pops the ports `ps` counts (01 R24, 03 R63): data taken from in0, and the count gate. -/
def Cell.count (c : Cell) (t : Word) (ps : List (Fin 4)) : Cell :=
  let c1 := if ps.contains 0 && c.dataAt 0 then { c with swcnt := c.swcnt + 1 } else c
  if trgCg t then
    c1.modCtx c1.actx fun x => four.foldl (fun x p =>
      if bdEn x.binds[p] && bdDcnt x.binds[p] != 0 then
        x.modRing p fun r => { r with arr := r.arr - bdDcnt x.binds[p] }
      else x) x
  else c1

/-- A join claimed by an mk slot that pops a marker of the joined level (01 R19, 06 R156; log 16). A drain that began in this clk
does not undo the claim of a slot chosen before it. -/
def Cell.claimJoin (c : Cell) (final : Fin 4) (t : Word) (ps : List (Fin 4)) : Cell :=
  match c.joinLevel with
  | some l =>
    if trgMk t && l == 7 && ps.any (fun p => ctlMset c.ctx.ctl p) then
      { c.modCtx c.actx (fun x => { x with join7 := true }) with joined := c.joined || c.actx == final }
    else c
  | none => c

/-- Pops, with what they count, as the end of a firing (05 R120). -/
def State.popAll (s : State) (c : Nat) (t : Word) (ps : List (Fin 4)) : State :=
  s.modCell c fun cl => ps.foldl Cell.popPort ((cl.claimJoin (hdrFinal (s.cellHdr c)) t ps).count t ps)

/-- Flags set by a firing, and seqc under rule 11 (01 R21, 04 R102). -/
def Cell.flagged (c : Cell) (f : Fire) (fl : BitVec 6) : Cell :=
  { c with flags := c.flags ||| fl, seqc := if f.t = .next then c.seqc + 1 else c.seqc, acted := true }

/-- The arithmetic trap, after the firing (04 R103). -/
def State.arithTrap (s : State) (c : Nat) (old fl : BitVec 6) : State :=
  if fl &&& ~~~old &&& hdrTraps (s.cellHdr c) = 0 then s
  else s.stopCell c 1 ((fl &&& ~~~old).setWidth 8) s.curSlot.val 0 0 0

/-- The steps of a firing after the operation (05 R120): flags, writes to x and y, pops, and the arithmetic trap. -/
def State.finish (s : State) (f : Fire) (ps : List (Fin 4)) (res : Wide) (tag : Tag) (fl : BitVec 6) : State :=
  let c := s.curCell
  let old := (s.cell c).flags
  let t := s.trig
  let s1 := s.modCell c fun cl => cl.flagged f fl
  let s2 := (s1.writeDst c f.x ⟨res, tag⟩).writeDst c f.y ⟨res, tag⟩
  let s3 := (s2.popAll c t ps).arithTrap c old fl
  { s3 with fired := true }

/-- A firing whose result and flags come from the two sources; the slot waits until it is ready. -/
def State.fireOp (s : State) (f : Fire) (op : Cell → Wide → Wide → Wide × BitVec 6) : Out :=
  let c := s.cell s.curCell
  if c.ready f then
    let r := op c (c.srcO f.a).pay (c.srcO f.b).pay
    .next (s.finish f f.popped r.1 (c.outTag f) r.2)
  else .next s

/-- A firing that sets no flag. -/
def State.firePure (s : State) (f : Fire) (op : Cell → Wide → Wide → Wide) : Out :=
  s.fireOp f fun c a b => (op c a b, 0)

/-- A firing whose result and tag the instruction gives, under a further condition of its own. -/
def State.fireTag (s : State) (f : Fire) (ok : Bool) (res : Wide) (tag : Tag) (upd : Cell → Cell) : Out :=
  let c := s.cell s.curCell
  if c.ready f && ok then
    let s1 := s.modCell s.curCell upd
    .next (s1.finish f f.popped res tag 0)
  else .next s

end Sys2Proof.Machine
end

