-- ==== Sys2Proof/Machine/Flags.lean ====
section
/-! DEFINITION. The sticky flags (01 R21, 04 R102), saturation (04 R95), and element-wise operations with flags. -/

namespace Sys2Proof.Machine

abbrev Flags := BitVec 6
def flInvalid : Flags := 0x01
def flDivZero : Flags := 0x02
def flOverflow : Flags := 0x04
def flUnderflow : Flags := 0x08
def flInexact : Flags := 0x10
def flSat : Flags := 0x20

/-- The flag, if the condition holds. -/
def flIf (b : Bool) (f : Flags) : Flags := if b then f else 0

/-- Least and greatest value of an integer format of n bits. -/
def intLo (n : Nat) (signed : Bool) : Int := if signed then -(2 ^ (n - 1) : Nat) else 0
def intHi (n : Nat) (signed : Bool) : Int := if signed then (2 ^ (n - 1) : Nat) - 1 else (2 ^ n : Nat) - 1

/-- Sat (04 R95): the value clamped to the format, and saturation when it is clamped. -/
def sat (n : Nat) (signed : Bool) (v : Int) : BitVec n × Flags :=
  if v < intLo n signed then (BitVec.ofInt n (intLo n signed), flSat)
  else if intHi n signed < v then (BitVec.ofInt n (intHi n signed), flSat)
  else (BitVec.ofInt n v, 0)

/-- The union of flags. -/
def flOr (fs : List Flags) : Flags := fs.foldl (· ||| ·) 0

/-- Results with flags, gathered into a payload of elements of width m. -/
def gather {m : Nat} (rs : List (BitVec m × Flags)) : Wide × Flags := (ofElts (rs.map (·.1)), flOr (rs.map (·.2)))

def mapF1 (n : Nat) {m : Nat} (f : BitVec n → BitVec m × Flags) (a : Wide) : Wide × Flags := gather ((elts n a).map f)
def mapF2 (n : Nat) {m : Nat} (f : BitVec n → BitVec n → BitVec m × Flags) (a b : Wide) : Wide × Flags :=
  gather (List.zipWith f (elts n a) (elts n b))
def mapF3 (n : Nat) {m : Nat} (f : BitVec n → BitVec n → BitVec n → BitVec m × Flags) (a b c : Wide) : Wide × Flags :=
  gather (List.zipWith (fun g z => g z) (List.zipWith f (elts n a) (elts n b)) (elts n c))

end Sys2Proof.Machine
end

