-- ==== Sys2Proof/Machine/Abacus.lean ====
section
/-! DEFINITION. The abacus: GEN and WID (01 R13, R14; 06 R163, R164). -/

namespace Sys2Proof.Machine

/-- First bit of rod k. -/
def rodBase (a : Abacus) (k : Nat) : Nat := ((a.widths.toList).take k).foldl (· + ·) 0
def rodWidth (a : Abacus) (k : Nat) : Nat := a.widths.toList.getD k 0
def rodLimit (a : Abacus) (k : Nat) : Nat := a.limits.toList.getD k 1
/-- Value of rod k of an identifier. -/
def rodVal (a : Abacus) (id : Nat) (k : Nat) : Nat := id / 2 ^ rodBase a k % 2 ^ rodWidth a k
/-- The identifier with rod k set. -/
def rodSet (a : Abacus) (id : Nat) (k v : Nat) : Nat := id - rodVal a id k * 2 ^ rodBase a k + v * 2 ^ rodBase a k
/-- The highest used rod. -/
def rodTop (a : Abacus) : Nat := ((List.range 6).filter fun k => rodWidth a k != 0).getLastD 0

/-- The loop of 01 R14 from rod k: the identifier, the pending level and done. -/
def stepFrom (a : Abacus) (id k pend : Nat) : Nat → Nat × Nat × Bool
  | 0 => (id, pend, false)
  | fuel + 1 =>
    if rodVal a id k + 1 < rodLimit a k then (rodSet a id k (rodVal a id k + 1), pend, false)
    else if k = rodTop a then (rodSet a id k 0, 7, true)
    else stepFrom a (rodSet a id k 0) (k + 1) (k + 1) fuel

/-- One step of the abacus (01 R14). -/
def Abacus.step (a : Abacus) : Abacus :=
  let r := stepFrom a a.ident.toNat 0 a.pending 6
  { a with ident := BitVec.ofNat 64 r.1, pending := r.2.1, done := r.2.2 }

/-- The rods counted back one step (06 R163). -/
def prevFrom (a : Abacus) (id k : Nat) : Nat → Nat
  | 0 => id
  | fuel + 1 =>
    if 0 < rodVal a id k then rodSet a id k (rodVal a id k - 1)
    else prevFrom a (rodSet a id k (rodLimit a k - 1)) (k + 1) fuel
def Abacus.prev (a : Abacus) : DWord := BitVec.ofNat 64 (prevFrom a a.ident.toNat 0 (rodTop a + 1))

/-- The limits word of 02 R55: the identifier of the last data token. -/
def Abacus.limitsWord (a : Abacus) : DWord :=
  BitVec.ofNat 64 ((List.range 6).foldl (fun w k => w + (rodLimit a k - 1) * 2 ^ rodBase a k) 0)

/-- The stream is exhausted. -/
def Abacus.over (a : Abacus) : Bool := a.done && a.pending == 0

/-- The payload of the pending marker (06 R163). -/
def Abacus.markPay (a : Abacus) : DWord := if a.done then a.limitsWord else a.prev

/-- GEN (06 R163). -/
def execGen (o : OpO) (s : State) : Out :=
  let c := s.cell s.curCell
  let q := (c.outTag (ofO o)).seq
  if c.ab.pending ≠ 0 then
    s.fireTag (ofO o) true (c.ab.markPay.setWidth 256) ⟨BitVec.ofNat 3 c.ab.pending, false, q⟩ fun c =>
      { c with ab := { c.ab with pending := 0 } }
  else
    s.fireTag (ofO o) (!c.ab.over) (c.ab.ident.setWidth 256) ⟨0, false, q⟩ fun c => { c with ab := c.ab.step }

/-- WID (06 R164). -/
def widVal (a : Abacus) (sel : Nat) : Wide :=
  if sel = 0 then
    ofLanes [a.ident.setWidth 32, (a.ident >>> 32).setWidth 32, BitVec.ofNat 32 a.pending, if a.done then 1 else 0]
  else BitVec.ofNat 256 (rodVal a a.ident.toNat (sel - 1))
def execWid (o : OpI) (s : State) : Out := s.firePure (ofI o) fun c _ _ => widVal c.ab o.b.val

end Sys2Proof.Machine
end

