-- ==== Sys2Proof/Machine/Tokens.lean ====
section
/-! DEFINITION. Berths, tokens, markers, routing, contexts and reports (06 R143 to R162). -/

namespace Sys2Proof.Machine

/-- What was taken for the second slot of a clk before the first fired (06 R160; log 3). -/
def Cell.snapped (c : Cell) (n : Fin 16) : Option Wide :=
  match c.snap with
  | some (k, v) => if k = n then some v else none
  | none => none

/-- BERTH (06 R143): eligible while the handle is invalid and no request for it is outstanding. -/
def execBerth (o : OpBN) (s : State) : Out :=
  let h := (s.cell s.curCell).ctx.hands[o.h]
  if h.v || h.out then .next s
  else .next ((s.request s.curCell o.h (o.n.val + 1) false).finish ofZ [] 0 .zero 0)

/-- CAST (06 R146): pops one or two heads. -/
def execCast (o : OpKB) (s : State) : Out := s.firePure (ofKB o) fun _ _ _ => 0

/-- PUT (06 R145): the offset is lane 0 of B <8:0>. -/
def putOff (b : Wide) : Nat := bf (lane b 0) 0 9
def execPut (o : OpPO) (s : State) : Out :=
  let f := ofPO o
  let c := s.cell s.curCell
  if c.ready f then
    let off := putOff (c.src o.b).pay
    if c.ctx.hands[o.x].len < off then .next (s.stopHere 3 0 (BitVec.ofNat 64 off) 0 0)
    else
      let s1 := (s.deliver s.curCell o.x off ⟨(c.src o.a).pay, c.outTag f⟩).countWrite s.curCell o.x
      .next (s1.finish { f with x := .nul } f.popped 0 .zero 0)
  else .next s

/-- The quay area of a region at a quay, in berth-way slots (10 R253, R254). -/
def State.area (s : State) (q r : Nat) : Nat :=
  match (s.quay q).areas.find? (fun a => a.owner == .inl r) with
  | some a => a.base
  | none => 0

/-- The storage address of GET, GETF, QLDF, QSTF: a slot of the berth ways when `bw` (06 R147, 08 R202). -/
def bwOut (s : State) (c idx : Nat) : Bool := hdrQuay (s.cellHdr c) ≤ 32 * idx
def State.bwIdx (s : State) (c idx : Nat) : Nat := s.area (quayOf c) ((s.cell c).region.getD 0) + idx
def State.bwSlot (s : State) (c idx : Nat) : Slot := tblGet .free (s.quay (quayOf c)).slots (s.bwIdx c idx)

/-- Whether a GET address names the berth ways (06 R147). -/
def getsBw (c : Nat) (a : Wide) : Bool := isQuayCell c && bit (lane a 0) 31
/-- The slot GET and GETF read. -/
def State.getSlot (s : State) (c : Nat) (a : Wide) : Slot :=
  if getsBw c a then s.bwSlot c (bf (lane a 0) 0 19) else (s.cell c).slot (bf (lane a 0) 0 10)
/-- GET beyond the quay's configured berth bytes. -/
def State.getStops (s : State) (c : Nat) (a : Wide) : Bool := getsBw c a && bwOut s c (bf (lane a 0) 0 19)

/-- GET (06 R147). -/
def execGet (o : OpU) (s : State) : Out :=
  let f := ofU o
  let c := s.cell s.curCell
  let a := (c.src o.a).pay
  if !c.ready f then .next s
  else if s.getStops s.curCell a then .next (s.stopHere 3 0 ((lane a 0).setWidth 64) 0 0)
  else s.fireTag f true (s.getSlot s.curCell a).pay (c.outTag f) id

/-- GETF (06 R147): eligible only while all eight full/empty bits are full, as they stood when the slots of the clk were chosen: the
slot fired before it may have freed what it reads (01 R26). -/
def execGetf (o : OpU) (s : State) : Out :=
  let f := ofU o
  let c := s.cell s.curCell
  let a := (c.src o.a).pay
  if !c.ready f then .next s
  else if s.getStops s.curCell a then .next (s.stopHere 3 0 ((lane a 0).setWidth 64) 0 0)
  else s.fireTag f ((s.getSlot s.curCell a).fe == 0xFF || (c.snapped s.curSlot).isSome) (s.getSlot s.curCell a).pay (c.outTag f) id

/-- TAG (06 R148). -/
def execTag (o : OpB) (s : State) : Out :=
  let c := s.cell s.curCell
  let b := lane (c.src o.b).pay 0
  s.fireTag (ofB o) true (c.src o.a).pay ⟨0, bit b 12, b.setWidth 12⟩ id

/-- MARK (06 R149). -/
def execMark (o : OpUI) (s : State) : Out :=
  let c := s.cell s.curCell
  s.fireTag (ofUI o) true (c.src o.a).pay ⟨BitVec.ofNat 3 o.b.val, false, (c.outTag (ofUI o)).seq⟩ id

/-- Tags outstanding in the tag window (06 R149). -/
def Cell.outstanding (c : Cell) : Nat := (c.tagNext - c.tagOld).toNat

/-- SEQ (06 R150). A slot chosen with another is tested again at its turn, and does not fire where the first has taken the last tag
(DESIGN CHOICE, log 100). -/
def execSeq (o : OpU) (s : State) : Out :=
  let c := s.cell s.curCell
  s.fireTag (ofU o) (c.outstanding < c.tagSize) (c.src o.a).pay ⟨0, false, c.tagNext⟩ fun c =>
    { c with tagMap := setBit c.tagMap (c.tagNext.toNat % 256) true, tagNext := c.tagNext + 1 }

/-- ORD (06 R151). -/
def execOrd (o : OpU) (s : State) : Out :=
  let c := s.cell s.curCell
  s.fireTag (ofU o) ((c.src o.a).tag.seq == c.tagOld && 0 < c.outstanding) (c.src o.a).pay (c.outTag (ofU o)) fun c =>
    { c with tagMap := setBit c.tagMap (c.tagOld.toNat % 256) false, tagOld := c.tagOld + 1 }

/-- The out ports STEER writes (06 R152): every masked port for a marker, else the masked port that B chooses. -/
def steerPorts (mask : Nat) (a : Token) (b : Wide) : List (Fin 4) :=
  if a.tag.lvl ≠ 0 then four.filter fun n => mask / 2 ^ n.val % 2 == 1
  else four.filter fun n => bf (lane b 0) 0 3 == n.val && mask / 2 ^ n.val % 2 == 1
/-- STEER. A slot chosen with another is tested again at its turn, by the B register that the first may have written (DESIGN CHOICE,
log 100). -/
def execSteer (o : OpSF) (s : State) : Out :=
  let f := ofSF o
  let c := s.cell s.curCell
  let ps := steerPorts o.y.val (c.src o.a) (c.src o.b).pay
  if c.ready f && ps.all (fun n => c.ctx.hands[n].v) then
    let t : Token := ⟨(c.src o.a).pay, c.outTag f⟩
    .next ((ps.foldl (fun s n => s.writeOut s.curCell n t) s).finish f f.popped 0 .zero 0)
  else .next s

/-- MERGE (06 R153): the data token at A's port, else the one at B's. Only the port taken is popped. -/
def Cell.mergeTakes (c : Cell) (o : OpB) : Option Sel :=
  match selPort (some o.a), selPort (some o.b) with
  | some a, some b => if c.dataAt a then some o.a else if c.dataAt b then some o.b else none
  | _, _ => none
def execMerge (o : OpB) (s : State) : Out :=
  let c := s.cell s.curCell
  match c.mergeTakes o with
  | none => .next s
  | some t => s.firePure { ofB o with a := some t, b := some t, q := false } fun _ a _ => a

/-- SWITCH (06 R155). -/
def switchTarget (c : Cell) (a : Wide) : Fin 4 :=
  if bit (lane a 0) 2 then Fin.ofNat 4 (bf (lane a 0) 0 2) else ctlNctx c.ctx.ctl
def execSwitch (o : OpKU) (s : State) : Out :=
  let c := s.cell s.curCell
  let t := switchTarget c (c.src o.a).pay
  if !c.ready (ofKU o) || c.swPend then .next s
  else if !bit (hdrCtxs (s.cellHdr s.curCell)) t.val then .next (s.stopHere 4 (BitVec.ofNat 8 t.val) 0 0 0)
  else s.fireTag (ofKU o) true 0 .zero fun c => { c with swPend := true, swTgt := t }

/-- The deferred destination of a single-destination firing, its slot reserved (06 R158, 08 R195). -/
def State.deferX (s : State) (f : Fire) : DefW × State :=
  let r := s.reserve s.curCell f.x
  let q := r.2.reserve s.curCell f.y
  (⟨r.1, q.1, (s.cell s.curCell).outTag f, s.seqNo⟩, { q.2 with seqNo := s.seqNo + 1 })

/-- The destinations taken from a firing whose result is deferred. -/
def Fire.noDst (f : Fire) : Fire := { f with x := .nul, y := .nul }

/-- The delay of DLY in clk (06 R158). -/
def dlyDelay (y : Nat) (a : Wide) : Nat := 2 ^ (y % 8 + 1) - 1 - bf (lane a 0) 0 (y % 8 + 1)
def execDly (o : OpUF) (s : State) : Out :=
  let f := ofUF o
  let c := s.cell s.curCell
  if c.ready f && c.dly.length < 64 then
    let a := (c.src o.a).pay
    let r := s.deferX f
    let s1 := r.2.modCell s.curCell fun cl => { cl with dly := cl.dly ++ [⟨s.clk + dlyDelay o.y.val a, r.1, a⟩] }
    .next (s1.finish f.noDst f.popped 0 .zero 0)
  else .next s

/-- RACE (06 R159). -/
def raceVal (c : Cell) (k : Nat) : Wide :=
  ofLanes ((List.finRange 8).map fun l => if l.val < k then c.raceLatch[l].setWidth 32 else 0)
def execRace (o : OpUI) (s : State) : Out :=
  let c := s.cell s.curCell
  let k := o.b.val % 8 + 1
  let dataHead := match selPort (some o.a) with
    | some p => c.dataAt p
    | none => false
  s.fireTag (ofUI o) (c.raceCnt == k && dataHead) (raceVal c k) (c.outTag (ofUI o)) fun c => { c with raceCnt := 0 }

/-- The snapshot of BSTAT (06 R160). -/
def bstatVal (c : Cell) (sel : Nat) : Wide :=
  let w (x : Nat) : Word := BitVec.ofNat 32 x
  let b (x : Bool) : Nat := if x then 1 else 0
  if sel < 4 then
    let h := c.ctx.hands[Fin.ofNat 4 sel]
    ofLanes [w (if h.v then h.len + 1 - h.wr else 0), w (b h.out), h.word]
  else if sel < 8 then
    let p := Fin.ofNat 4 sel
    let r := c.ctx.rings[p]
    if bdEn c.ctx.binds[p] then ofLanes [w r.held, w (bdCap c.ctx.binds[p] - r.held), w r.arr] else 0
  else if sel = 8 then ofLanes [c.flags.setWidth 32, c.cfmt.setWidth 32]
  else if sel = 9 then ofLanes [w c.actx.val, w (b c.swPend + 2 * c.swTgt.val), c.swcnt.setWidth 32]
  else if sel = 10 then ofLanes [c.tagNext.setWidth 32, c.tagOld.setWidth 32, w c.outstanding]
  else if sel = 11 then ofLanes [w c.raceCnt]
  else ofLanes [w c.dly.length, w c.bcred.length]
/-- BSTAT (06 R160). Where its out tag is that of rule 11, its sequence number is taken from seqc as 03 R69 has it (DESIGN CHOICE,
log 101). -/
def execBstat (o : OpI) (s : State) : Out :=
  let c := s.cell s.curCell
  s.fireTag (ofI o) true ((c.snapped s.curSlot).getD (bstatVal c o.b.val)) (c.outTag (ofI o)) id

/-- EVT (06 R161): the record's body is 13 R308. -/
def execEvt (o : OpKI) (s : State) : Out :=
  let c := s.cell s.curCell
  if c.ready (ofKI o) && !c.evtBusy then
    let a := (c.src o.a).pay
    let s1 := (s.modCell s.curCell fun c => { c with evtBusy := true }).post (s.cellPart s.curCell) (cellStrip s.curCell)
      (some s.curCell) (recBody 4 (s.cellRegion s.curCell).vd (s.cellRid s.curCell)
        [(8, 1, o.b.val), (10, 2, (s.place s.curCell).toNat), (16, 16, a.toNat)])
    .next (s1.finish (ofKI o) (ofKI o).popped 0 .zero 0)
  else .next s

/-- TRAP (06 R162): completes as a firing, then stops the cell. -/
def execTrap (o : OpKI) (s : State) : Out :=
  let c := s.cell s.curCell
  if c.ready (ofKI o) then
    .next ((s.finish (ofKI o) (ofKI o).popped 0 .zero 0).stopCell s.curCell 2 (BitVec.ofNat 8 o.b.val) s.curSlot.val
      (lo64 (c.src o.a).pay) 0 0)
  else .next s

end Sys2Proof.Machine
end

