-- ==== Sys2Proof/Machine/BeaconOps.lean ====
section
/-! DEFINITION. The beacon from cells (06 R165 to R168, 14 R329 to R331). -/

namespace Sys2Proof.Machine

/-- A channel assigned to a partition (01 R36). -/
def State.bcnOk (s : State) (part ch : Nat) : Bool := bit (s.part part).channels ch

/-- Sends one arrival and its value to the root, 36 clk away. -/
def State.arrive (s : State) (strip ch : Nat) (va vo vm : Word) : State :=
  s.at Config.beaconClk clsBeacon strip (.beaconArrivalAtRoot ⟨ch, strip, 1, va, vo, vm⟩)

/-- The strips of a partition. -/
def State.stripsOf (s : State) (part : Nat) : List Nat :=
  (List.range (s.part part).count).map fun i => (s.part part).first + i

/-- Sends a broadcast to every strip that holds the channel. `rank` orders the senders of a strip (14 R331). -/
def State.broadcast (s : State) (part strip rank ch : Nat) (v : DWord) : State :=
  (s.stripsOf part).foldl (fun s t => s.at Config.beaconClk clsBeacon (strip * 2048 + rank) (.broadcastAtStrip ch t v)) s

/-- A strip's copy of the generation, its broadcast value and count. -/
def State.genOf (s : State) (ch strip : Nat) : Word := tblGet 0 (s.beacon ch).copy strip

/-- Memory completions outstanding for a cell (01 R29, 08 R197): requests and stores still coalesced. -/
def Cell.memBusy (c : Cell) : Bool := c.outOrd + c.outUnord != 0 || !c.coal.isEmpty

/-- A beacon firing: every condition of the slot, then the channel's assignment (05 R396, item 1). -/
def State.fireBcn (s : State) (f : Fire) (ch : Nat) (ok : Bool) (k : Cell → Out) : Out :=
  let c := s.cell s.curCell
  if !(c.ready f && ok) then .next s
  else if !s.bcnOk (s.cellPart s.curCell) ch then .next (s.stopHere 5 (BitVec.ofNat 8 ch) 0 0 0)
  else k c

/-- BCARR (06 R166). -/
def execBcarr (o : OpNIF) (s : State) : Out :=
  let ch := o.b.val
  let c := s.cell s.curCell
  s.fireBcn ofZ ch (!bit c.arrBits ch && !(o.y.val % 2 == 1 && c.memBusy)) fun _ =>
    .next (((s.modCell s.curCell fun c => { c with arrBits := setBit c.arrBits ch true }).arrive (cellStrip s.curCell) ch
      0xFFFFFFFF 0 0).finish ofZ [] 0 .zero 0)

/-- BCWT (06 R166). -/
def execBcwt (o : OpI) (s : State) : Out :=
  let ch := o.b.val
  s.fireBcn (ofI o) ch (!bit (s.cell s.curCell).arrBits ch) fun c =>
    s.fireTag (ofI o) true (inLane0 (s.genOf ch (cellStrip s.curCell))) (c.outTag (ofI o)) id

/-- BCPUT (06 R168). -/
def execBcput (o : OpKI) (s : State) : Out :=
  let ch := o.b.val
  s.fireBcn (ofKI o) ch true fun c =>
    .next ((s.broadcast (s.cellPart s.curCell) (cellStrip s.curCell) (s.curCell % 1024) ch (lo64 (c.src o.a).pay)).finish
      (ofKI o) (ofKI o).popped 0 .zero 0)

/-- BCGET (06 R168). -/
def execBcget (o : OpI) (s : State) : Out :=
  let ch := o.b.val
  let strip := cellStrip s.curCell
  let v : DWord := tblGet 0 (s.beacon ch).bval strip
  s.fireBcn (ofI o) ch true fun c =>
    s.fireTag (ofI o) true (ofLanes [v.setWidth 32, (v >>> 32).setWidth 32, tblGet 0 (s.beacon ch).bcnt strip])
      (c.outTag (ofI o)) id

/-- BCRED (06 R167). -/
def execBcred (o : OpUIF) (s : State) : Out :=
  let ch := o.b.val
  let f := ofUIF o
  s.fireBcn f ch (!bit (s.cell s.curCell).arrBits ch) fun c =>
    let v := lane (c.src o.a).pay 0
    let r := s.deferX f
    let s1 := r.2.modCell s.curCell fun c =>
      { c with arrBits := setBit c.arrBits ch true, bcred := c.bcred ++ [⟨ch, o.y.val % 4, r.1, none⟩] }
    .next ((s1.arrive (cellStrip s.curCell) ch v v v).finish f.noDst f.popped 0 .zero 0)

end Sys2Proof.Machine
end

