-- ==== Sys2Proof/WellFormed.lean ====
section
/-! DEFINITION. Well-formedness of an instruction on its own: the fields the opcode table fixes (`fieldsOk`), and the
checks configuration load makes of a slot's instruction word without its surroundings (`wf`; 03 R70 to R72, R76). -/

namespace Sys2Proof

def Sel.isIn : Sel → Bool
  | .inp _ => true
  | _ => false

def Dst.isH : Dst → Bool
  | .h _ => true
  | _ => false

/-- The CSR numbers that are assigned (09 R221). -/
def csrAssigned (c : BitVec 12) : Bool :=
  [0x100#12, 0x101, 0x102, 0x103, 0x104, 0x105, 0x200, 0x201, 0x202, 0x300, 0x301, 0x400].contains c

/-- What the opcode table's row and 03 R81, R87 fix in an instruction's fields beyond its shape. -/
def Instr.fieldsOk : Instr → Bool
  | .sel o => o.y.val < 16
  | .lane o => o.y.val < 8
  | .pack o => o.y.val < 16
  | .unpk o => o.y.val < 16
  | .fscl o => o.y.val < 4
  | .cast o => o.p
  | .tag o => o.t == .ofA
  | .seq o => o.t == .ofA
  | .merge o => o.p && o.q
  | .steer o => o.y.val < 16
  | .dly o => o.y.val < 8
  | .race o => o.b.val < 8
  | .bcarr o => o.y.val < 2
  | .bcred o => o.y.val < 4
  | .mxld o => o.b.val < 4
  | .qcpy o => o.y.val < 2
  | .ld o => o.z != .q || o.d.val % 2 == 0
  | .ldx o => o.z != .q || o.d.val % 2 == 0
  | .st o => (o.z != .q || o.d.val % 2 == 0) && o.z != .bu && o.z != .hu && o.z != .wu
  | .csrRd o => csrAssigned o.c
  | .csrWr o => csrAssigned o.c
  | .csrSet o => csrAssigned o.c
  | .csrClr o => csrAssigned o.c
  | _ => true

/-- Destinations x and y of a slot (03 R72, R25): no handle, no y without x, no destination twice. -/
def dstsOk (x y : Dst) : Bool :=
  !x.isH && !y.isH && (x != .nul || y == .nul) && (x != y || x == .nul)

/-- A single destination. -/
def dstOk (x : Dst) : Bool := !x.isH

/-- Tag action of a shape whose only source is A (03 R70). -/
def tagOkA (a : Sel) (p : Bool) (t : TagRule) : Bool := (!p || a.isIn) && t != .ofB

/-- Tag action of a shape with sources A and B. -/
def tagOkAB (a b : Sel) (p q : Bool) : Bool := (!p || a.isIn) && (!q || b.isIn) && !(p && q && a == b)

def OpO.ok (o : OpO) : Bool := dstsOk o.x o.y && o.t != .ofB
def OpI.ok (o : OpI) : Bool := dstsOk o.x o.y && o.t != .ofB
def OpU.ok (o : OpU) : Bool := dstsOk o.x o.y && tagOkA o.a o.p o.t
def OpB.ok (o : OpB) : Bool := dstsOk o.x o.y && tagOkAB o.a o.b o.p o.q
def OpBW.ok (o : OpBW) : Bool := dstsOk (.w o.x) o.y && tagOkAB o.a o.b o.p o.q
def OpUI.ok (o : OpUI) : Bool := dstsOk o.x o.y && tagOkA o.a o.p o.t
def OpUF.ok (o : OpUF) : Bool := dstOk o.x && tagOkA o.a o.p o.t
def OpBF.ok (o : OpBF) : Bool := dstOk o.x && tagOkAB o.a o.b o.p o.q
def OpUIF.ok (o : OpUIF) : Bool := dstOk o.x && tagOkA o.a o.p o.t
def OpUIW.ok (o : OpUIW) : Bool := tagOkA o.a o.p o.t
def OpKU.ok (o : OpKU) : Bool := !o.p || o.a.isIn
def OpKB.ok (o : OpKB) : Bool := tagOkAB o.a o.b o.p o.q
def OpKI.ok (o : OpKI) : Bool := !o.p || o.a.isIn
def OpKF.ok (o : OpKF) : Bool := !o.p || o.a.isIn
def OpPO.ok (o : OpPO) : Bool := tagOkAB o.a o.b o.p o.q
def OpSF.ok (o : OpSF) : Bool := tagOkAB o.a o.b o.p o.q

/-- No quay instruction writes pr (08 R189). -/
def noPr (x y : Dst) : Bool := x != .pr && y != .pr

/-- A number-format code that is assigned (03 R78). -/
def fmtCode (n : Nat) : Bool := n < 4 || (8 ≤ n && n < 16)

/-- The checks of a slot's instruction word that need no surroundings (03 R70 to R72, R76, R78; 06 R142; 07 R175;
08 R189 and the field values of each instruction's entry). A pilot instruction's word is checked by `fieldsOk`. -/
def Instr.wfCell : Instr → Bool
  | .mov o | .popc o | .clz o | .get o | .getf o | .seq o | .ord o => o.ok
  | .abs _ o | .frcp _ o | .frsq _ o | .fexp2 _ o => OpU.ok o
  | .mxrow o =>
      (!o.p || o.a.isIn) && o.t != .ofB && (match o.x with | .out _ | .nul => true | _ => false) &&
      (match o.y with | .out _ | .nul => true | _ => false) && (o.x != o.y || o.x == .nul)
  | .xlat o | .qfls o | .qcmpl o | .chr o | .chst o | .blkref o | .blkrel o => o.ok && noPr o.x o.y
  | .perm o | .and o | .or o | .xor o | .andn o | .tag o => o.ok
  | .add _ o | .sub _ o | .adds _ o | .subs _ o | .mul _ o | .mulh _ o | .mulhu _ o | .min _ o | .max _ o
  | .minu _ o | .maxu _ o | .shl _ o | .shr _ o | .sha _ o | .cmpeq _ o | .cmplt _ o | .cmpltu _ o | .cmple _ o => o.ok
  | .fadd _ o | .fsub _ o | .fmul _ o | .fmin _ o | .fmax _ o | .fcmpeq _ o | .fcmplt _ o | .fcmple _ o => o.ok
  | .mad _ o => o.ok
  | .ffma _ o => o.ok
  | .merge o => o.ok && o.a.isIn && o.b.isIn && o.a != o.b
  | .qld o | .qst o | .qldf o | .qstf o | .chw o | .blkmap o => o.ok && noPr o.x o.y
  | .mark o => o.ok && 1 ≤ o.b.val && o.b.val ≤ 7
  | .race o => o.ok && o.a.isIn
  | .hand o => o.ok && noPr o.x o.y && o.b.val < 16
  | .qlds o | .qsts o => o.ok && noPr o.x o.y && o.b.val ≤ 8
  | .lane o | .dly o => o.ok
  | .unpk o => o.ok && o.y.val % 4 != 0
  | .flog2 o | .fsumr o | .fmaxr o => o.ok && o.y.val < 4
  | .isumr o | .imaxr o => o.ok && 8 ≤ o.y.val && o.y.val < 16
  | .sel o => o.ok && (o.y.val < 8 || o.y.val == 8)
  | .pack o => o.ok && o.y.val % 4 != 0 && o.y.val / 4 < 3
  | .fscl o => o.ok
  | .qatm o => o.ok && noPr o.x .nul && o.y.val % 16 < 12
  | .qcpy o => o.ok && noPr o.x .nul
  | .bfx o => o.ok
  | .fcvt o => o.ok && fmtCode o.b.val && fmtCode o.y.val && o.b != o.y && (o.b.val < 4 || o.y.val < 4)
  | .icvt o => o.ok && 8 ≤ o.b.val && o.b.val < 16 && 8 ≤ o.y.val && o.y.val < 16 && o.b != o.y
  | .bcred o => o.ok && o.y.val < 3
  | .bfi o => o.ok
  | .switch o | .mxhdr o | .mxdrn o | .chcl o => o.ok
  | .cast o => o.ok && o.a.isIn && (if o.q then o.b.isIn else o.b == .w 0)
  | .qpf o => o.ok
  | .bcput o | .evt o | .trap o | .mxld o => o.ok
  | .pset o => o.ok && o.y.val / 8 < 3 && (o.y.val / 8 != 2 || o.y.val % 8 == 0)
  | .mxcfg o => o.ok && o.y.val ≤ 4
  | .plog o => o.b.val < 16 && o.y.val < 8
  | .put o => o.ok
  | .steer o => o.ok && o.y.val != 0
  | .gen o => o.ok
  | .bstat o => o.ok && o.b.val ≤ 12
  | .wid o => o.ok && o.b.val ≤ 6
  | .ptst o => o.ok && (o.b.val < 8 || o.b.val == 8)
  | .bcwt o | .bcget o => o.ok
  | _ => true

/-- Well-formed: the row's fields and the load checks of the word alone. -/
def Instr.wf (i : Instr) : Bool := i.fieldsOk && i.wfCell

end Sys2Proof
end

