-- ==== Sys2Proof/Decode.lean ====
section
/-! DEFINITION. The decoder, total on any word, and after it the encoder, both from the encoding tables of
03 R62 to R85 and the opcode table's rows. -/

namespace Sys2Proof

/-- Why a word is no instruction (03 R86, R87). -/
inductive Reject where
  /-- An opcode 03 R74 reserves, and 0xFF. -/
  | reservedOpcode
  /-- A destination select 18 to 31, or a field its shape restricts or fixes (03 R68, R71). -/
  | badField
  /-- An unassigned fn, aop, kind or sz code (03 R83 to R85, R81). -/
  | unassigned
  deriving DecidableEq, Repr

/-- Bits lo to lo + n - 1 of a number (00 R3). -/
def field (w lo n : Nat) : Nat := w / 2 ^ lo % 2 ^ n

/-- 03 R67. -/
def Sel.ofCode (n : Nat) : Sel :=
  if n < 8 then .w (Fin.ofNat 8 n) else if n < 12 then .inp (Fin.ofNat 4 (n - 8))
  else if n < 16 then .h (Fin.ofNat 4 (n - 12)) else .k (Fin.ofNat 16 (n - 16))

def Sel.toCode : Sel → Nat
  | .w i => i.val
  | .inp i => 8 + i.val
  | .h i => 12 + i.val
  | .k i => 16 + i.val

/-- 03 R68; 18 to 31 are reserved. -/
def Dst.ofCode (n : Nat) : Option Dst :=
  if n < 8 then some (.w (Fin.ofNat 8 n)) else if n < 12 then some (.h (Fin.ofNat 4 (n - 8)))
  else if n < 16 then some (.out (Fin.ofNat 4 (n - 12))) else if n = 16 then some .pr
  else if n = 17 then some .nul else none

def Dst.toCode : Dst → Nat
  | .w i => i.val
  | .h i => 8 + i.val
  | .out i => 12 + i.val
  | .pr => 16
  | .nul => 17

/-- 03 R69. -/
def TagRule.ofCode (n : Nat) : TagRule :=
  if n = 0 then .ofA else if n = 1 then .ofB else if n = 2 then .zero else .next

def TagRule.toCode : TagRule → Nat
  | .ofA => 0 | .ofB => 1 | .zero => 2 | .next => 3

/-- 03 R75. -/
def ITy.ofCode (n : Nat) : ITy := if n = 0 then .i8 else if n = 1 then .i16 else if n = 2 then .i32 else .i64
def ITy.toCode : ITy → Nat
  | .i8 => 0 | .i16 => 1 | .i32 => 2 | .i64 => 3
def FTy.ofCode (n : Nat) : FTy := if n = 0 then .b8 else if n = 1 then .bf16 else if n = 2 then .f16 else .f32
def FTy.toCode : FTy → Nat
  | .b8 => 0 | .bf16 => 1 | .f16 => 2 | .f32 => 3

/-- 03 R81. -/
def MemSz.ofCode (n : Nat) : MemSz :=
  if n = 0 then .b else if n = 1 then .bu else if n = 2 then .h else if n = 3 then .hu
  else if n = 4 then .w else if n = 5 then .wu else if n = 6 then .d else .q
def MemSz.toCode : MemSz → Nat
  | .b => 0 | .bu => 1 | .h => 2 | .hu => 3 | .w => 4 | .wu => 5 | .d => 6 | .q => 7

/-- 03 R84. -/
def Aop.ofCode (n : Nat) : Option Aop :=
  [Aop.add, .min, .max, .minu, .maxu, .and, .or, .xor, .xchg, .cas, .tas, .incw][n]?
def Aop.toCode : Aop → Nat
  | .add => 0 | .min => 1 | .max => 2 | .minu => 3 | .maxu => 4 | .and => 5 | .or => 6 | .xor => 7
  | .xchg => 8 | .cas => 9 | .tas => 10 | .incw => 11

/-- 03 R80. -/
def ShKind.ofCode (n : Nat) : Option ShKind :=
  if n = 0 then some .sll else if n = 1 then some .srl else if n = 2 then some .sra else none
def ShKind.toCode : ShKind → Nat
  | .sll => 0 | .srl => 1 | .sra => 2

/-! The parsers of the operand shapes: each reads the fields of format C (03 R66) its shape has and requires the
others to hold what R71 fixes. -/

def fldA (w : Nat) : Sel := .ofCode (field w 19 5)
def fldB (w : Nat) : Sel := .ofCode (field w 14 5)
def fldX (w : Nat) : Option Dst := Dst.ofCode (field w 9 5)
def fldY (w : Nat) : Option Dst := Dst.ofCode (field w 4 5)
def immA (w : Nat) : Fin 32 := Fin.ofNat 32 (field w 19 5)
def immB (w : Nat) : Fin 32 := Fin.ofNat 32 (field w 14 5)
def immY (w : Nat) : Fin 32 := Fin.ofNat 32 (field w 4 5)
def popA (w : Nat) : Bool := field w 3 1 == 1
def popB (w : Nat) : Bool := field w 2 1 == 1
def fldT (w : Nat) : TagRule := .ofCode (field w 0 2)

def parseO (w : Nat) : Option OpO :=
  if field w 14 10 = 0 ∧ field w 2 2 = 0 then
    match fldX w, fldY w with
    | some x, some y => some ⟨x, y, fldT w⟩
    | _, _ => none
  else none
def parseI (w : Nat) : Option OpI :=
  if field w 19 5 = 0 ∧ field w 2 2 = 0 then
    match fldX w, fldY w with
    | some x, some y => some ⟨immB w, x, y, fldT w⟩
    | _, _ => none
  else none
def parseU (w : Nat) : Option OpU :=
  if field w 14 5 = 0 ∧ field w 2 1 = 0 then
    match fldX w, fldY w with
    | some x, some y => some ⟨fldA w, x, y, popA w, fldT w⟩
    | _, _ => none
  else none
def parseB (w : Nat) : Option OpB :=
  match fldX w, fldY w with
  | some x, some y => some ⟨fldA w, fldB w, x, y, popA w, popB w, fldT w⟩
  | _, _ => none
def parseBW (w : Nat) : Option OpBW :=
  if field w 12 2 = 0 then
    match fldY w with
    | some y => some ⟨fldA w, fldB w, Fin.ofNat 8 (field w 9 3), y, popA w, popB w, fldT w⟩
    | none => none
  else none
def parseUI (w : Nat) : Option OpUI :=
  if field w 2 1 = 0 then
    match fldX w, fldY w with
    | some x, some y => some ⟨fldA w, immB w, x, y, popA w, fldT w⟩
    | _, _ => none
  else none
def parseUF (w : Nat) : Option OpUF :=
  if field w 14 5 = 0 ∧ field w 2 1 = 0 then
    match fldX w with
    | some x => some ⟨fldA w, x, immY w, popA w, fldT w⟩
    | none => none
  else none
def parseBF (w : Nat) : Option OpBF :=
  match fldX w with
  | some x => some ⟨fldA w, fldB w, x, immY w, popA w, popB w, fldT w⟩
  | none => none
def parseUIF (w : Nat) : Option OpUIF :=
  if field w 2 1 = 0 then
    match fldX w with
    | some x => some ⟨fldA w, immB w, x, immY w, popA w, fldT w⟩
    | none => none
  else none
def parseUIW (w : Nat) : Option OpUIW :=
  if field w 2 1 = 0 ∧ field w 12 2 = 0 then
    some ⟨fldA w, immB w, Fin.ofNat 8 (field w 9 3), immY w, popA w, fldT w⟩
  else none
def parseKU (w : Nat) : Option OpKU :=
  if field w 4 15 = 0x231 ∧ field w 0 3 = 0 then some ⟨fldA w, popA w⟩ else none
def parseKB (w : Nat) : Option OpKB :=
  if field w 4 10 = 0x231 ∧ field w 0 2 = 0 then some ⟨fldA w, fldB w, popA w, popB w⟩ else none
def parseKI (w : Nat) : Option OpKI :=
  if field w 4 10 = 0x231 ∧ field w 0 3 = 0 then some ⟨fldA w, immB w, popA w⟩ else none
def parseKF (w : Nat) : Option OpKF :=
  if field w 9 10 = 0x11 ∧ field w 0 3 = 0 then some ⟨fldA w, immY w, popA w⟩ else none
def parseNIF (w : Nat) : Option OpNIF :=
  if field w 9 5 = 0x11 ∧ field w 19 5 = 0 ∧ field w 0 4 = 0 then some ⟨immB w, immY w⟩ else none
def parseBN (w : Nat) : Option OpBN :=
  if field w 19 5 = 0 ∧ field w 11 3 = 2 ∧ field w 8 1 = 0 ∧ field w 0 4 = 0 then
    some ⟨Fin.ofNat 4 (field w 9 2), Fin.ofNat 512 (field w 14 5 + 32 * field w 4 4)⟩
  else none
def parsePF (w : Nat) : Option OpPF :=
  if field w 9 5 = 0x11 ∧ field w 0 4 = 0 then some ⟨immA w, immB w, immY w⟩ else none
def parsePO (w : Nat) : Option OpPO :=
  if field w 11 3 = 3 ∧ field w 4 5 = 17 then
    some ⟨fldA w, fldB w, Fin.ofNat 4 (field w 9 2), popA w, popB w, fldT w⟩
  else none
def parseSF (w : Nat) : Option OpSF :=
  if field w 9 5 = 0x11 then some ⟨fldA w, fldB w, immY w, popA w, popB w, fldT w⟩ else none

/-! The parsers of the pilot formats (03 R79, R82). -/

def rgD (w : Nat) : Fin 32 := Fin.ofNat 32 (field w 19 5)
def rgA (w : Nat) : Fin 32 := Fin.ofNat 32 (field w 14 5)
def rgB (w : Nat) : Fin 32 := Fin.ofNat 32 (field w 9 5)
def parseR3 (w : Nat) : Option OpR3 := some ⟨rgD w, rgA w, rgB w⟩
def parseR2 (w : Nat) : Option OpR2 := if field w 9 5 = 0 then some ⟨rgD w, rgA w⟩ else none
def parseRA (w : Nat) : Option OpRA := if field w 9 5 = 0 ∧ field w 19 5 = 0 then some ⟨rgA w⟩ else none
def parseRAB (w : Nat) : Option OpRAB := if field w 19 5 = 0 then some ⟨rgA w, rgB w⟩ else none
def parseI14 (w : Nat) : Option OpI14 := some ⟨rgD w, rgA w, BitVec.ofNat 14 w⟩
def parseShi (w : Nat) : Option OpShi :=
  if field w 8 6 = 0 then
    match ShKind.ofCode (field w 6 2) with
    | some k => some ⟨rgD w, rgA w, k, Fin.ofNat 64 (field w 0 6)⟩
    | none => none
  else none
def parseI19 (w : Nat) : Option OpI19 := some ⟨rgD w, BitVec.ofNat 19 w⟩
def parseMem (w : Nat) : Option OpMem := some ⟨rgD w, rgA w, MemSz.ofCode (field w 11 3), BitVec.ofNat 11 w⟩
def parseAmo (w : Nat) : Option OpAmo :=
  if field w 7 2 = 0 then
    match Aop.ofCode (field w 0 4) with
    | some op => some ⟨rgD w, rgA w, rgB w, field w 6 1 == 1, field w 5 1 == 1, field w 4 1 == 1, op⟩
    | none => none
  else none
def parseBr (w : Nat) : Option OpBr := some ⟨rgD w, rgA w, BitVec.ofNat 14 w⟩
def parseCsrR (w : Nat) : Option OpCsrR := if field w 14 5 = 0 then some ⟨rgD w, BitVec.ofNat 12 w⟩ else none
def parseCsrW (w : Nat) : Option OpCsrW := if field w 19 5 = 0 then some ⟨rgA w, BitVec.ofNat 12 w⟩ else none
def parseN (w : Nat) : Option Unit := if field w 9 15 = 0 then some () else none

/-- A parsed operand record as a decoded instruction, if it is one of its row of the opcode table. -/
def accept (i : Option Instr) : Except Reject Instr :=
  match i with
  | some j => if j.fieldsOk then .ok j else .error .badField
  | none => .error .badField

/-- The typed groups 0x10 to 0x8F, by op<7:2>; op<1:0> is the type (03 R75). -/
def decodeTyped (g t w : Nat) : Except Reject Instr :=
  match g with
  | 0x04 => accept ((parseB w).map (Instr.add (ITy.ofCode t)))
  | 0x05 => accept ((parseB w).map (Instr.sub (ITy.ofCode t)))
  | 0x06 => accept ((parseB w).map (Instr.adds (ITy.ofCode t)))
  | 0x07 => accept ((parseB w).map (Instr.subs (ITy.ofCode t)))
  | 0x08 => accept ((parseB w).map (Instr.mul (ITy.ofCode t)))
  | 0x09 => accept ((parseB w).map (Instr.mulh (ITy.ofCode t)))
  | 0x0A => accept ((parseB w).map (Instr.mulhu (ITy.ofCode t)))
  | 0x0B => accept ((parseBW w).map (Instr.mad (ITy.ofCode t)))
  | 0x0C => accept ((parseB w).map (Instr.min (ITy.ofCode t)))
  | 0x0D => accept ((parseB w).map (Instr.max (ITy.ofCode t)))
  | 0x0E => accept ((parseB w).map (Instr.minu (ITy.ofCode t)))
  | 0x0F => accept ((parseB w).map (Instr.maxu (ITy.ofCode t)))
  | 0x10 => accept ((parseU w).map (Instr.abs (ITy.ofCode t)))
  | 0x11 => accept ((parseB w).map (Instr.shl (ITy.ofCode t)))
  | 0x12 => accept ((parseB w).map (Instr.shr (ITy.ofCode t)))
  | 0x13 => accept ((parseB w).map (Instr.sha (ITy.ofCode t)))
  | 0x14 => accept ((parseB w).map (Instr.cmpeq (ITy.ofCode t)))
  | 0x15 => accept ((parseB w).map (Instr.cmplt (ITy.ofCode t)))
  | 0x16 => accept ((parseB w).map (Instr.cmpltu (ITy.ofCode t)))
  | 0x17 => accept ((parseB w).map (Instr.cmple (ITy.ofCode t)))
  | 0x18 => accept ((parseB w).map (Instr.fadd (FTy.ofCode t)))
  | 0x19 => accept ((parseB w).map (Instr.fsub (FTy.ofCode t)))
  | 0x1A => accept ((parseB w).map (Instr.fmul (FTy.ofCode t)))
  | 0x1B => accept ((parseBW w).map (Instr.ffma (FTy.ofCode t)))
  | 0x1C => accept ((parseB w).map (Instr.fmin (FTy.ofCode t)))
  | 0x1D => accept ((parseB w).map (Instr.fmax (FTy.ofCode t)))
  | 0x1E => accept ((parseB w).map (Instr.fcmpeq (FTy.ofCode t)))
  | 0x1F => accept ((parseB w).map (Instr.fcmplt (FTy.ofCode t)))
  | 0x20 => accept ((parseB w).map (Instr.fcmple (FTy.ofCode t)))
  | 0x21 => accept ((parseU w).map (Instr.frcp (FTy.ofCode t)))
  | 0x22 => accept ((parseU w).map (Instr.frsq (FTy.ofCode t)))
  | 0x23 => accept ((parseU w).map (Instr.fexp2 (FTy.ofCode t)))
  | _ => .error .reservedOpcode

/-- The cell opcodes (03 R74). -/
def decodeCell (w : Nat) : Except Reject Instr :=
  if 0x10 ≤ field w 24 8 ∧ field w 24 8 < 0x90 then decodeTyped (field w 26 6) (field w 24 2) w
  else match field w 24 8 with
  | 0x00 => if field w 0 24 = 0x2310 then .ok .nop else .error .badField
  | 0x01 => accept ((parseU w).map Instr.mov)
  | 0x02 => accept ((parseBF w).map Instr.sel)
  | 0x03 => accept ((parseUF w).map Instr.lane)
  | 0x04 => accept ((parseB w).map Instr.perm)
  | 0x05 => accept ((parseB w).map Instr.and)
  | 0x06 => accept ((parseB w).map Instr.or)
  | 0x07 => accept ((parseB w).map Instr.xor)
  | 0x08 => accept ((parseB w).map Instr.andn)
  | 0x09 => accept ((parseUIF w).map Instr.bfx)
  | 0x0A => accept ((parseUIW w).map Instr.bfi)
  | 0x0B => accept ((parseU w).map Instr.popc)
  | 0x0C => accept ((parseU w).map Instr.clz)
  | 0x0D => accept ((parseBF w).map Instr.pack)
  | 0x0E => accept ((parseUF w).map Instr.unpk)
  | 0x90 => accept ((parseUF w).map Instr.flog2)
  | 0x91 => accept ((parseUIF w).map Instr.fcvt)
  | 0x92 => accept ((parseUIF w).map Instr.icvt)
  | 0x93 => accept ((parseUF w).map Instr.fsumr)
  | 0x94 => accept ((parseUF w).map Instr.fmaxr)
  | 0x95 => accept ((parseUF w).map Instr.isumr)
  | 0x96 => accept ((parseUF w).map Instr.imaxr)
  | 0x97 => accept ((parseBF w).map Instr.fscl)
  | 0x98 => accept ((parseKF w).map Instr.pset)
  | 0x99 => accept ((parsePF w).map Instr.plog)
  | 0x9A => accept ((parseI w).map Instr.ptst)
  | 0xA0 => accept ((parseBN w).map Instr.berth)
  | 0xA1 => accept ((parseKB w).map Instr.cast)
  | 0xA2 => accept ((parsePO w).map Instr.put)
  | 0xA3 => accept ((parseU w).map Instr.get)
  | 0xA4 => accept ((parseU w).map Instr.getf)
  | 0xA5 => accept ((parseB w).map Instr.tag)
  | 0xA6 => accept ((parseUI w).map Instr.mark)
  | 0xA7 => accept ((parseU w).map Instr.seq)
  | 0xA8 => accept ((parseU w).map Instr.ord)
  | 0xA9 => accept ((parseSF w).map Instr.steer)
  | 0xAA => accept ((parseB w).map Instr.merge)
  | 0xAB => accept ((parseKU w).map Instr.switch)
  | 0xAC => accept ((parseUF w).map Instr.dly)
  | 0xAD => accept ((parseUI w).map Instr.race)
  | 0xAE => accept ((parseI w).map Instr.bstat)
  | 0xAF => accept ((parseKI w).map Instr.evt)
  | 0xB0 => accept ((parseNIF w).map Instr.bcarr)
  | 0xB1 => accept ((parseI w).map Instr.bcwt)
  | 0xB2 => accept ((parseKI w).map Instr.bcput)
  | 0xB3 => accept ((parseI w).map Instr.bcget)
  | 0xB4 => accept ((parseUIF w).map Instr.bcred)
  | 0xB5 => accept ((parseO w).map Instr.gen)
  | 0xB6 => accept ((parseI w).map Instr.wid)
  | 0xB7 => accept ((parseKI w).map Instr.trap)
  | 0xB8 => accept ((parseKU w).map Instr.mxhdr)
  | 0xB9 => accept ((parseKI w).map Instr.mxld)
  | 0xBA => accept ((parseU w).map Instr.mxrow)
  | 0xBB => accept ((parseKU w).map Instr.mxdrn)
  | 0xBC => if field w 0 24 = 0x2310 then .ok .mxclr else .error .badField
  | 0xBD => accept ((parseKF w).map Instr.mxcfg)
  | 0xC0 => accept ((parseB w).map Instr.qld)
  | 0xC1 => accept ((parseB w).map Instr.qst)
  | 0xC2 => accept ((parseUI w).map Instr.qlds)
  | 0xC3 => accept ((parseUI w).map Instr.qsts)
  | 0xC4 => accept ((parseB w).map Instr.qldf)
  | 0xC5 => accept ((parseB w).map Instr.qstf)
  | 0xC6 => accept ((parseBF w).map Instr.qatm)
  | 0xC7 => accept ((parseBF w).map Instr.qcpy)
  | 0xC8 => accept ((parseU w).map Instr.xlat)
  | 0xC9 => accept ((parseUI w).map Instr.hand)
  | 0xCA => accept ((parseU w).map Instr.qfls)
  | 0xCB => accept ((parseKB w).map Instr.qpf)
  | 0xCC => accept ((parseB w).map Instr.chw)
  | 0xCD => accept ((parseU w).map Instr.chr)
  | 0xCE => accept ((parseKU w).map Instr.chcl)
  | 0xCF => accept ((parseU w).map Instr.chst)
  | 0xD0 => accept ((parseB w).map Instr.blkmap)
  | 0xD1 => accept ((parseU w).map Instr.blkref)
  | 0xD2 => accept ((parseU w).map Instr.blkrel)
  | 0xD3 => accept ((parseU w).map Instr.qcmpl)
  | _ => .error .reservedOpcode

/-- The fn codes of opcode 0xE0 (03 R83, R85). -/
def decodeAlu (w : Nat) : Except Reject Instr :=
  match field w 0 9 with
  | 0x000 => accept ((parseR3 w).map Instr.aluAdd)
  | 0x001 => accept ((parseR3 w).map Instr.aluSub)
  | 0x002 => accept ((parseR3 w).map Instr.aluAnd)
  | 0x003 => accept ((parseR3 w).map Instr.aluOr)
  | 0x004 => accept ((parseR3 w).map Instr.aluXor)
  | 0x005 => accept ((parseR3 w).map Instr.aluAndn)
  | 0x006 => accept ((parseR3 w).map Instr.aluSll)
  | 0x007 => accept ((parseR3 w).map Instr.aluSrl)
  | 0x008 => accept ((parseR3 w).map Instr.aluSra)
  | 0x009 => accept ((parseR3 w).map Instr.aluSlt)
  | 0x00A => accept ((parseR3 w).map Instr.aluSltu)
  | 0x00B => accept ((parseR3 w).map Instr.aluMin)
  | 0x00C => accept ((parseR3 w).map Instr.aluMax)
  | 0x00D => accept ((parseR3 w).map Instr.aluMinu)
  | 0x00E => accept ((parseR3 w).map Instr.aluMaxu)
  | 0x010 => accept ((parseR3 w).map Instr.aluMul)
  | 0x011 => accept ((parseR3 w).map Instr.aluMulh)
  | 0x012 => accept ((parseR3 w).map Instr.aluMulhu)
  | 0x013 => accept ((parseR3 w).map Instr.aluDiv)
  | 0x014 => accept ((parseR3 w).map Instr.aluDivu)
  | 0x015 => accept ((parseR3 w).map Instr.aluRem)
  | 0x016 => accept ((parseR3 w).map Instr.aluRemu)
  | 0x018 => accept ((parseR2 w).map Instr.aluClz)
  | 0x019 => accept ((parseR2 w).map Instr.aluCtz)
  | 0x01A => accept ((parseR2 w).map Instr.aluPopc)
  | _ => .error .unassigned

/-- The fn codes of opcode 0xF6 (03 R83, R85). -/
def decodeFence (w : Nat) : Except Reject Instr :=
  match field w 0 9 with
  | 0x000 => accept ((parseN w).map fun _ => Instr.fenceAcq)
  | 0x001 => accept ((parseN w).map fun _ => Instr.fenceRel)
  | 0x002 => accept ((parseN w).map fun _ => Instr.fenceFull)
  | 0x003 => accept ((parseN w).map fun _ => Instr.fenceIo)
  | _ => .error .unassigned

/-- The fn codes of opcode 0xF7 (03 R83, R85). -/
def decodeSys (w : Nat) : Except Reject Instr :=
  match field w 0 9 with
  | 0x000 => accept ((parseRA w).map Instr.sysTrap)
  | 0x001 => accept ((parseN w).map fun _ => Instr.sysEret)
  | 0x002 => accept ((parseN w).map fun _ => Instr.sysWfe)
  | 0x003 => accept ((parseN w).map fun _ => Instr.sysIdle)
  | 0x004 => accept ((parseRAB w).map Instr.sysTlbinv)
  | 0x005 => accept ((parseN w).map fun _ => Instr.sysHalt)
  | _ => .error .unassigned

/-- The fn codes of opcode 0xF9 (03 R83, R85). -/
def decodeFab (w : Nat) : Except Reject Instr :=
  match field w 0 9 with
  | 0x000 => accept ((parseR3 w).map Instr.fabRload)
  | 0x001 => accept ((parseR2 w).map Instr.fabRstart)
  | 0x002 => accept ((parseR2 w).map Instr.fabRstop)
  | 0x003 => accept ((parseR3 w).map Instr.fabRsave)
  | 0x004 => accept ((parseR3 w).map Instr.fabRrest)
  | 0x005 => accept ((parseR2 w).map Instr.fabRkill)
  | 0x006 => accept ((parseR3 w).map Instr.fabRplace)
  | 0x007 => accept ((parseR2 w).map Instr.fabRstat)
  | _ => .error .unassigned

/-- The fn codes of opcode 0xFA (03 R83, R85). -/
def decodeChn (w : Nat) : Except Reject Instr :=
  match field w 0 9 with
  | 0x000 => accept ((parseR2 w).map Instr.chnChopen)
  | 0x001 => accept ((parseR3 w).map Instr.chnChclose)
  | 0x002 => accept ((parseR3 w).map Instr.chnChput)
  | 0x003 => accept ((parseR3 w).map Instr.chnChtake)
  | 0x004 => accept ((parseR3 w).map Instr.chnChstat)
  | _ => .error .unassigned

/-- The fn codes of opcode 0xFB (03 R83, R85). -/
def decodeBcn (w : Nat) : Except Reject Instr :=
  match field w 0 9 with
  | 0x000 => accept ((parseRA w).map Instr.bcnArrive)
  | 0x001 => accept ((parseR3 w).map Instr.bcnWait)
  | 0x002 => accept ((parseR3 w).map Instr.bcnCast)
  | 0x003 => accept ((parseR3 w).map Instr.bcnRead)
  | 0x004 => accept ((parseRAB w).map Instr.bcnReduceAnd)
  | 0x014 => accept ((parseRAB w).map Instr.bcnReduceOr)
  | 0x024 => accept ((parseRAB w).map Instr.bcnReduceMax)
  | 0x005 => accept ((parseR3 w).map Instr.bcnPreempt)
  | _ => .error .unassigned

/-- The fn codes of opcode 0xFC (03 R83, R85). -/
def decodeMap (w : Nat) : Except Reject Instr :=
  match field w 0 9 with
  | 0x000 => accept ((parseR3 w).map Instr.mapBlkref)
  | 0x001 => accept ((parseR3 w).map Instr.mapBlkrel)
  | 0x002 => accept ((parseR3 w).map Instr.mapBlkset)
  | 0x003 => accept ((parseR3 w).map Instr.mapBlkget)
  | _ => .error .unassigned

/-- The fn codes of opcode 0xFD (03 R83, R85). -/
def decodeQos (w : Nat) : Except Reject Instr :=
  match field w 0 9 with
  | 0x000 => accept ((parseR3 w).map Instr.qosSlset)
  | 0x001 => accept ((parseR2 w).map Instr.qosSlget)
  | 0x002 => accept ((parseR3 w).map Instr.qosLend)
  | _ => .error .unassigned

/-- The fn codes of opcode 0xFE (03 R83, R85). -/
def decodeEvq (w : Nat) : Except Reject Instr :=
  match field w 0 9 with
  | 0x000 => accept ((parseR2 w).map Instr.evqPop)
  | 0x001 => accept ((parseR2 w).map Instr.evqPeek)
  | 0x002 => accept ((parseR2 w).map Instr.evqAck)
  | _ => .error .unassigned

/-- The pilot opcodes (03 R82). -/
def decodePilot (w : Nat) : Except Reject Instr :=
  match field w 24 8 with
  | 0xE0 => decodeAlu w
  | 0xE1 => accept ((parseI14 w).map Instr.addi)
  | 0xE2 => accept ((parseI14 w).map Instr.andi)
  | 0xE3 => accept ((parseI14 w).map Instr.ori)
  | 0xE4 => accept ((parseI14 w).map Instr.xori)
  | 0xE5 => accept ((parseShi w).map Instr.shi)
  | 0xE6 => accept ((parseI14 w).map Instr.slti)
  | 0xE7 => accept ((parseI14 w).map Instr.sltiu)
  | 0xE8 => accept ((parseI19 w).map Instr.lui)
  | 0xE9 => accept ((parseI19 w).map Instr.adpc)
  | 0xEA => accept ((parseMem w).map Instr.ld)
  | 0xEB => accept ((parseMem w).map Instr.st)
  | 0xEC => accept ((parseMem w).map Instr.ldx)
  | 0xED => accept ((parseAmo w).map Instr.amo)
  | 0xEE => accept ((parseBr w).map Instr.beq)
  | 0xEF => accept ((parseBr w).map Instr.bne)
  | 0xF0 => accept ((parseBr w).map Instr.blt)
  | 0xF1 => accept ((parseBr w).map Instr.bge)
  | 0xF2 => accept ((parseBr w).map Instr.bltu)
  | 0xF3 => accept ((parseBr w).map Instr.bgeu)
  | 0xF4 => accept ((parseI19 w).map Instr.jal)
  | 0xF5 => accept ((parseI14 w).map Instr.jalr)
  | 0xF6 => decodeFence w
  | 0xF7 => decodeSys w
  | 0xF8 =>
    match field w 12 2 with
    | 0 => accept ((parseCsrR w).map Instr.csrRd)
    | 1 => accept ((parseCsrW w).map Instr.csrWr)
    | 2 => accept ((parseCsrW w).map Instr.csrSet)
    | _ => accept ((parseCsrW w).map Instr.csrClr)
  | 0xF9 => decodeFab w
  | 0xFA => decodeChn w
  | 0xFB => decodeBcn w
  | 0xFC => decodeMap w
  | 0xFD => decodeQos w
  | 0xFE => decodeEvq w
  | _ => .error .reservedOpcode

/-- The decoder: opcodes 0x00 to 0xDF are cell instructions, 0xE0 to 0xFE pilot instructions (03 R61). -/
def decode (w : Word) : Except Reject Instr :=
  if field w.toNat 24 8 < 0xE0 then decodeCell w.toNat else decodePilot w.toNat

/-- The instruction the decoder reads from a word numbered as the opcode table numbers it. Every instruction is one
32-bit word (03 R61), stored little-endian (00 R4), so the table's numbering is the word's own. -/
def decodeTableWord (_nbits w : Nat) : Option Instr :=
  match decode (BitVec.ofNat 32 w) with
  | .ok i => some i
  | .error _ => none

/-! The encoder. -/

/-- Format C (03 R66). -/
def cellWord (op a b x y ta : Nat) : Nat := op * 2 ^ 24 + a * 2 ^ 19 + b * 2 ^ 14 + x * 2 ^ 9 + y * 2 ^ 4 + ta
/-- The tag-action field (03 R69). -/
def taWord (p q : Bool) (t : TagRule) : Nat := 8 * p.toNat + 4 * q.toNat + t.toCode

def OpO.word (op : Nat) (o : OpO) : Nat := cellWord op 0 0 o.x.toCode o.y.toCode o.t.toCode
def OpI.word (op : Nat) (o : OpI) : Nat := cellWord op 0 o.b.val o.x.toCode o.y.toCode o.t.toCode
def OpU.word (op : Nat) (o : OpU) : Nat := cellWord op o.a.toCode 0 o.x.toCode o.y.toCode (taWord o.p false o.t)
def OpB.word (op : Nat) (o : OpB) : Nat :=
  cellWord op o.a.toCode o.b.toCode o.x.toCode o.y.toCode (taWord o.p o.q o.t)
def OpBW.word (op : Nat) (o : OpBW) : Nat :=
  cellWord op o.a.toCode o.b.toCode o.x.val o.y.toCode (taWord o.p o.q o.t)
def OpUI.word (op : Nat) (o : OpUI) : Nat :=
  cellWord op o.a.toCode o.b.val o.x.toCode o.y.toCode (taWord o.p false o.t)
def OpUF.word (op : Nat) (o : OpUF) : Nat := cellWord op o.a.toCode 0 o.x.toCode o.y.val (taWord o.p false o.t)
def OpBF.word (op : Nat) (o : OpBF) : Nat :=
  cellWord op o.a.toCode o.b.toCode o.x.toCode o.y.val (taWord o.p o.q o.t)
def OpUIF.word (op : Nat) (o : OpUIF) : Nat :=
  cellWord op o.a.toCode o.b.val o.x.toCode o.y.val (taWord o.p false o.t)
def OpUIW.word (op : Nat) (o : OpUIW) : Nat :=
  cellWord op o.a.toCode o.b.val o.x.val o.y.val (taWord o.p false o.t)
def OpKU.word (op : Nat) (o : OpKU) : Nat := cellWord op o.a.toCode 0 17 17 (taWord o.p false .ofA)
def OpKB.word (op : Nat) (o : OpKB) : Nat := cellWord op o.a.toCode o.b.toCode 17 17 (taWord o.p o.q .ofA)
def OpKI.word (op : Nat) (o : OpKI) : Nat := cellWord op o.a.toCode o.b.val 17 17 (taWord o.p false .ofA)
def OpKF.word (op : Nat) (o : OpKF) : Nat := cellWord op o.a.toCode 0 17 o.y.val (taWord o.p false .ofA)
def OpNIF.word (op : Nat) (o : OpNIF) : Nat := cellWord op 0 o.b.val 17 o.y.val 0
def OpBN.word (op : Nat) (o : OpBN) : Nat := cellWord op 0 (o.n.val % 32) (8 + o.h.val) (o.n.val / 32) 0
def OpPF.word (op : Nat) (o : OpPF) : Nat := cellWord op o.a.val o.b.val 17 o.y.val 0
def OpPO.word (op : Nat) (o : OpPO) : Nat :=
  cellWord op o.a.toCode o.b.toCode (12 + o.x.val) 17 (taWord o.p o.q o.t)
def OpSF.word (op : Nat) (o : OpSF) : Nat :=
  cellWord op o.a.toCode o.b.toCode 17 o.y.val (taWord o.p o.q o.t)

/-- Formats PR and PB (03 R79): three register fields and the rest. -/
def pilotWord (op d a low : Nat) : Nat := op * 2 ^ 24 + d * 2 ^ 19 + a * 2 ^ 14 + low
def OpR3.word (op fn : Nat) (o : OpR3) : Nat := pilotWord op o.d.val o.a.val (o.b.val * 2 ^ 9 + fn)
def OpR2.word (op fn : Nat) (o : OpR2) : Nat := pilotWord op o.d.val o.a.val fn
def OpRA.word (op fn : Nat) (o : OpRA) : Nat := pilotWord op 0 o.a.val fn
def OpRAB.word (op fn : Nat) (o : OpRAB) : Nat := pilotWord op 0 o.a.val (o.b.val * 2 ^ 9 + fn)
def OpI14.word (op : Nat) (o : OpI14) : Nat := pilotWord op o.d.val o.a.val o.i.toNat
def OpShi.word (op : Nat) (o : OpShi) : Nat := pilotWord op o.d.val o.a.val (o.k.toCode * 2 ^ 6 + o.n.val)
def OpI19.word (op : Nat) (o : OpI19) : Nat := op * 2 ^ 24 + o.d.val * 2 ^ 19 + o.i.toNat
def OpMem.word (op : Nat) (o : OpMem) : Nat := pilotWord op o.d.val o.a.val (o.z.toCode * 2 ^ 11 + o.o.toNat)
def OpAmo.word (op : Nat) (o : OpAmo) : Nat :=
  pilotWord op o.d.val o.a.val
    (o.b.val * 2 ^ 9 + o.rel.toNat * 2 ^ 6 + o.acq.toNat * 2 ^ 5 + o.dw.toNat * 2 ^ 4 + o.op.toCode)
def OpBr.word (op : Nat) (o : OpBr) : Nat := pilotWord op o.a.val o.b.val o.o.toNat
def OpCsrR.word (op : Nat) (o : OpCsrR) : Nat := pilotWord op o.d.val 0 o.c.toNat
def OpCsrW.word (op kind : Nat) (o : OpCsrW) : Nat := pilotWord op 0 o.a.val (kind * 2 ^ 12 + o.c.toNat)

/-- The number of an instruction's word; none for the events, which have no word. -/
def Instr.code : Instr → Option Nat
  | .nop => some 0x00002310
  | .mov o => some (o.word 0x01)
  | .sel o => some (o.word 0x02)
  | .lane o => some (o.word 0x03)
  | .perm o => some (o.word 0x04)
  | .and o => some (o.word 0x05)
  | .or o => some (o.word 0x06)
  | .xor o => some (o.word 0x07)
  | .andn o => some (o.word 0x08)
  | .bfx o => some (o.word 0x09)
  | .bfi o => some (o.word 0x0A)
  | .popc o => some (o.word 0x0B)
  | .clz o => some (o.word 0x0C)
  | .pack o => some (o.word 0x0D)
  | .unpk o => some (o.word 0x0E)
  | .add e o => some (o.word (0x10 + e.toCode))
  | .sub e o => some (o.word (0x14 + e.toCode))
  | .adds e o => some (o.word (0x18 + e.toCode))
  | .subs e o => some (o.word (0x1C + e.toCode))
  | .mul e o => some (o.word (0x20 + e.toCode))
  | .mulh e o => some (o.word (0x24 + e.toCode))
  | .mulhu e o => some (o.word (0x28 + e.toCode))
  | .mad e o => some (o.word (0x2C + e.toCode))
  | .min e o => some (o.word (0x30 + e.toCode))
  | .max e o => some (o.word (0x34 + e.toCode))
  | .minu e o => some (o.word (0x38 + e.toCode))
  | .maxu e o => some (o.word (0x3C + e.toCode))
  | .abs e o => some (o.word (0x40 + e.toCode))
  | .shl e o => some (o.word (0x44 + e.toCode))
  | .shr e o => some (o.word (0x48 + e.toCode))
  | .sha e o => some (o.word (0x4C + e.toCode))
  | .cmpeq e o => some (o.word (0x50 + e.toCode))
  | .cmplt e o => some (o.word (0x54 + e.toCode))
  | .cmpltu e o => some (o.word (0x58 + e.toCode))
  | .cmple e o => some (o.word (0x5C + e.toCode))
  | .fadd e o => some (o.word (0x60 + e.toCode))
  | .fsub e o => some (o.word (0x64 + e.toCode))
  | .fmul e o => some (o.word (0x68 + e.toCode))
  | .ffma e o => some (o.word (0x6C + e.toCode))
  | .fmin e o => some (o.word (0x70 + e.toCode))
  | .fmax e o => some (o.word (0x74 + e.toCode))
  | .fcmpeq e o => some (o.word (0x78 + e.toCode))
  | .fcmplt e o => some (o.word (0x7C + e.toCode))
  | .fcmple e o => some (o.word (0x80 + e.toCode))
  | .frcp e o => some (o.word (0x84 + e.toCode))
  | .frsq e o => some (o.word (0x88 + e.toCode))
  | .fexp2 e o => some (o.word (0x8C + e.toCode))
  | .flog2 o => some (o.word 0x90)
  | .fcvt o => some (o.word 0x91)
  | .icvt o => some (o.word 0x92)
  | .fsumr o => some (o.word 0x93)
  | .fmaxr o => some (o.word 0x94)
  | .isumr o => some (o.word 0x95)
  | .imaxr o => some (o.word 0x96)
  | .fscl o => some (o.word 0x97)
  | .pset o => some (o.word 0x98)
  | .plog o => some (o.word 0x99)
  | .ptst o => some (o.word 0x9A)
  | .berth o => some (o.word 0xA0)
  | .cast o => some (o.word 0xA1)
  | .put o => some (o.word 0xA2)
  | .get o => some (o.word 0xA3)
  | .getf o => some (o.word 0xA4)
  | .tag o => some (o.word 0xA5)
  | .mark o => some (o.word 0xA6)
  | .seq o => some (o.word 0xA7)
  | .ord o => some (o.word 0xA8)
  | .steer o => some (o.word 0xA9)
  | .merge o => some (o.word 0xAA)
  | .switch o => some (o.word 0xAB)
  | .dly o => some (o.word 0xAC)
  | .race o => some (o.word 0xAD)
  | .bstat o => some (o.word 0xAE)
  | .evt o => some (o.word 0xAF)
  | .bcarr o => some (o.word 0xB0)
  | .bcwt o => some (o.word 0xB1)
  | .bcput o => some (o.word 0xB2)
  | .bcget o => some (o.word 0xB3)
  | .bcred o => some (o.word 0xB4)
  | .gen o => some (o.word 0xB5)
  | .wid o => some (o.word 0xB6)
  | .trap o => some (o.word 0xB7)
  | .mxhdr o => some (o.word 0xB8)
  | .mxld o => some (o.word 0xB9)
  | .mxrow o => some (o.word 0xBA)
  | .mxdrn o => some (o.word 0xBB)
  | .mxclr => some 0xBC002310
  | .mxcfg o => some (o.word 0xBD)
  | .qld o => some (o.word 0xC0)
  | .qst o => some (o.word 0xC1)
  | .qlds o => some (o.word 0xC2)
  | .qsts o => some (o.word 0xC3)
  | .qldf o => some (o.word 0xC4)
  | .qstf o => some (o.word 0xC5)
  | .qatm o => some (o.word 0xC6)
  | .qcpy o => some (o.word 0xC7)
  | .xlat o => some (o.word 0xC8)
  | .hand o => some (o.word 0xC9)
  | .qfls o => some (o.word 0xCA)
  | .qpf o => some (o.word 0xCB)
  | .chw o => some (o.word 0xCC)
  | .chr o => some (o.word 0xCD)
  | .chcl o => some (o.word 0xCE)
  | .chst o => some (o.word 0xCF)
  | .blkmap o => some (o.word 0xD0)
  | .blkref o => some (o.word 0xD1)
  | .blkrel o => some (o.word 0xD2)
  | .qcmpl o => some (o.word 0xD3)
  | .aluAdd o => some (o.word 0xE0 0x000)
  | .aluSub o => some (o.word 0xE0 0x001)
  | .aluAnd o => some (o.word 0xE0 0x002)
  | .aluOr o => some (o.word 0xE0 0x003)
  | .aluXor o => some (o.word 0xE0 0x004)
  | .aluAndn o => some (o.word 0xE0 0x005)
  | .aluSll o => some (o.word 0xE0 0x006)
  | .aluSrl o => some (o.word 0xE0 0x007)
  | .aluSra o => some (o.word 0xE0 0x008)
  | .aluSlt o => some (o.word 0xE0 0x009)
  | .aluSltu o => some (o.word 0xE0 0x00A)
  | .aluMin o => some (o.word 0xE0 0x00B)
  | .aluMax o => some (o.word 0xE0 0x00C)
  | .aluMinu o => some (o.word 0xE0 0x00D)
  | .aluMaxu o => some (o.word 0xE0 0x00E)
  | .aluMul o => some (o.word 0xE0 0x010)
  | .aluMulh o => some (o.word 0xE0 0x011)
  | .aluMulhu o => some (o.word 0xE0 0x012)
  | .aluDiv o => some (o.word 0xE0 0x013)
  | .aluDivu o => some (o.word 0xE0 0x014)
  | .aluRem o => some (o.word 0xE0 0x015)
  | .aluRemu o => some (o.word 0xE0 0x016)
  | .aluClz o => some (o.word 0xE0 0x018)
  | .aluCtz o => some (o.word 0xE0 0x019)
  | .aluPopc o => some (o.word 0xE0 0x01A)
  | .addi o => some (o.word 0xE1)
  | .andi o => some (o.word 0xE2)
  | .ori o => some (o.word 0xE3)
  | .xori o => some (o.word 0xE4)
  | .shi o => some (o.word 0xE5)
  | .slti o => some (o.word 0xE6)
  | .sltiu o => some (o.word 0xE7)
  | .lui o => some (o.word 0xE8)
  | .adpc o => some (o.word 0xE9)
  | .ld o => some (o.word 0xEA)
  | .st o => some (o.word 0xEB)
  | .ldx o => some (o.word 0xEC)
  | .amo o => some (o.word 0xED)
  | .beq o => some (o.word 0xEE)
  | .bne o => some (o.word 0xEF)
  | .blt o => some (o.word 0xF0)
  | .bge o => some (o.word 0xF1)
  | .bltu o => some (o.word 0xF2)
  | .bgeu o => some (o.word 0xF3)
  | .jal o => some (o.word 0xF4)
  | .jalr o => some (o.word 0xF5)
  | .fenceAcq => some 0xF6000000
  | .fenceRel => some 0xF6000001
  | .fenceFull => some 0xF6000002
  | .fenceIo => some 0xF6000003
  | .sysTrap o => some (o.word 0xF7 0x000)
  | .sysEret => some 0xF7000001
  | .sysWfe => some 0xF7000002
  | .sysIdle => some 0xF7000003
  | .sysTlbinv o => some (o.word 0xF7 0x004)
  | .sysHalt => some 0xF7000005
  | .csrRd o => some (o.word 0xF8)
  | .csrWr o => some (o.word 0xF8 1)
  | .csrSet o => some (o.word 0xF8 2)
  | .csrClr o => some (o.word 0xF8 3)
  | .fabRload o => some (o.word 0xF9 0x000)
  | .fabRstart o => some (o.word 0xF9 0x001)
  | .fabRstop o => some (o.word 0xF9 0x002)
  | .fabRsave o => some (o.word 0xF9 0x003)
  | .fabRrest o => some (o.word 0xF9 0x004)
  | .fabRkill o => some (o.word 0xF9 0x005)
  | .fabRplace o => some (o.word 0xF9 0x006)
  | .fabRstat o => some (o.word 0xF9 0x007)
  | .chnChopen o => some (o.word 0xFA 0x000)
  | .chnChclose o => some (o.word 0xFA 0x001)
  | .chnChcloseFree o => some (o.word 0xFA 0x001)
  | .chnChput o => some (o.word 0xFA 0x002)
  | .chnChtake o => some (o.word 0xFA 0x003)
  | .chnChstat o => some (o.word 0xFA 0x004)
  | .bcnArrive o => some (o.word 0xFB 0x000)
  | .bcnWait o => some (o.word 0xFB 0x001)
  | .bcnCast o => some (o.word 0xFB 0x002)
  | .bcnCastConfigure o => some (o.word 0xFB 0x002)
  | .bcnRead o => some (o.word 0xFB 0x003)
  | .bcnReduceAnd o => some (o.word 0xFB 0x004)
  | .bcnReduceOr o => some (o.word 0xFB 0x014)
  | .bcnReduceMax o => some (o.word 0xFB 0x024)
  | .bcnPreempt o => some (o.word 0xFB 0x005)
  | .mapBlkref o => some (o.word 0xFC 0x000)
  | .mapBlkrel o => some (o.word 0xFC 0x001)
  | .mapBlkset o => some (o.word 0xFC 0x002)
  | .mapBlkget o => some (o.word 0xFC 0x003)
  | .qosSlset o => some (o.word 0xFD 0x000)
  | .qosSlget o => some (o.word 0xFD 0x001)
  | .qosLend o => some (o.word 0xFD 0x002)
  | .evqPop o => some (o.word 0xFE 0x000)
  | .evqPeek o => some (o.word 0xFE 0x001)
  | .evqAck o => some (o.word 0xFE 0x002)
  | .illegalInstruction _ _ => none
  | .eventInterrupt _ => none
  | .wfeTimeout _ => none
  | .pilotAccessComplete _ => none
  | .tokenArrival _ _ _ _ _ => none
  | .markerJoin _ => none
  | .hardwareMarkerForward _ => none
  | .countTrigger _ => none
  | .switchCompletion _ => none
  | .berthRequestArrival _ _ => none
  | .roadsteadEntry _ => none
  | .allocatorGrant _ _ _ => none
  | .grantArrival _ => none
  | .dlyDeferredWrite _ => none
  | .drainTokenWrite _ => none
  | .regionCompletionEvent _ => none
  | .beaconArrivalAtRoot _ => none
  | .releaseAtStrip _ _ => none
  | .broadcastAtStrip _ _ _ => none
  | .eventRecordPost _ => none
  | .translationStart _ => none
  | .walkReadReply _ _ => none
  | .accessedDirtyUpdate _ _ => none
  | .frameWindowRefill _ _ => none
  | .blockMapLookup _ => none
  | .sliceServe _ => none
  | .requestCompletion _ => none
  | .coalesceTimeout _ _ => none
  | .handInstall _ => none
  | .flushResult _ => none
  | .channelAllocation _ => none
  | .channelWriteToken _ => none
  | .channelReadServe _ => none
  | .basinMoveStart _ => none
  | .basinMoveLand _ => none
  | .basinAccessReissue _ => none
  | .spliceComplete _ => none
  | .blockMapOpServe _ => none
  | .freeFramePush _ => none
  | .dredgerRound _ => none
  | .dredgerSample _ => none
  | .dredgerResult _ => none
  | .quantumExpiry _ => none
  | .preemptSignal _ => none
  | .readPhaseEnd _ => none
  | .haltComplete _ => none
  | .loadingEnd _ => none
  | .saveComplete _ => none
  | .restoreComplete _ => none
  | .killComplete _ => none
  | .notifyWrite _ _ => none
  | .pfnotifyWrite _ _ => none
  | .hostMemoryRead _ _ _ => none
  | .hostMemoryWrite _ _ _ => none
  | .hostChannelWrite _ _ _ => none
  | .pfvdWrite _ => none
  | .shadowCopyStart _ => none
  | .shadowCopyDone => none
  | .hblossClear _ => none
  | .isoerrRead => none
  | .pfdropsRead => none
  | .dropsRead _ => none
  | .registerWrite _ _ => none
  | .powerGood _ => none
  | .linkActive => none
  | .powerStateEntry _ => none
  | .powerStateWake _ => none
  | .getVersion _ => none
  | .getCapabilities _ => none
  | .negotiateAlgorithms _ => none
  | .getDigests _ => none
  | .getCertificate _ => none
  | .challenge _ _ => none
  | .getMeasurements _ _ => none
  | .keyExchange _ _ => none
  | .finish _ _ => none
  | .endSession _ => none
  | .ideKmExchange _ => none
  | .startInterfaceRequest _ => none
  | .ideIntegrityFailure _ => none
  | .seawayPortTraining _ _ _ => none
  | .heartbeatSend _ => none
  | .heartbeatLoss _ => none
  | .seawayRowReceive _ _ => none
  | .parkedRowRetry _ => none
  | .remoteWriteCompletion _ _ => none
  | .ackTimeout _ _ => none
  | .acknowledgementReceive _ _ => none
  | .sendQueueTailStore _ => none
  | .seawayRowSend _ => none
  | .seawayKeyLoad _ _ _ => none
  | .receiveTableWrite _ _ _ => none
  | .correctableError _ => none
  | .uncorrectableError _ => none
  | .beaconUncorrectableError _ => none
  | .isolationError _ => none
  | .linkCrcReplay _ => none
  | .partitionForm _ _ => none
  | .stripRelease _ => none
  | .stripOnline _ _ => none
  | .placeMapWrite _ _ => none
  | .vdCreate _ _ => none
  | .vdDestroy _ => none
  | .keySlotLoad _ _ => none
  | .supervisorPilotNamed _ _ => none
  | .pilotOnline _ _ _ => none
  | .berthWaySet _ _ => none
  | .moduleReset => none
  | .arbitration _ _ => none
  | .stickyFlagClear _ _ => none
  | .tdiLock _ => none
  | .tdiUnlock _ => none
  | .linkLeavesDlActive => none
  | .firmwareImageStaging _ _ => none
  | .sendQueuePlace _ _ => none
  | .partitionRemove _ => none

/-- The word of an instruction. -/
def encode (i : Instr) : Option Word := i.code.map (BitVec.ofNat 32)

end Sys2Proof
end

