-- ==== Sys2Proof/Machine/Memory.lean ====
section
/-! DEFINITION. The LLC's lines, the home slices and the shared arbiters (12 R286 to R291, 14 R326, 15 R339 to R342). -/

namespace Sys2Proof.Machine

/-! Lines and sets (12 R287 to R290). -/

/-- The set of a line for a partition's requests (12 R288). -/
def setOf (colour mask : BitVec 4) (line : Nat) : Nat :=
  let raw := line % 16384
  let hi := ((BitVec.ofNat 4 (raw / 1024)) &&& ~~~mask) ||| (colour &&& mask)
  hi.toNat * 1024 + raw % 1024

/-- The key of a set in the table of sets. -/
def State.setKey (s : State) (vd pa : Nat) : Nat :=
  s.home pa * 16384 + setOf (s.part (vd / 8)).colour (s.part (vd / 8)).mask (pa / 128)

/-- Cache ways of a slice. -/
def State.cacheWays (s : State) (q : Nat) : Nat := 16 - (s.quay q).bw

def lineCount (ls : List Line) (v : Nat) : Nat := ls.countP fun l => l.vd == v

/-- Quotas honoured in ascending vdid; one beyond the cache ways counts as 0 (12 R289). -/
def quotasFrom (ways : Nat) : List (Nat × Nat) → List (Nat × Nat)
  | [] => []
  | (v, q) :: t => if q ≤ ways then (v, q) :: quotasFrom (ways - q) t else (v, 0) :: quotasFrom ways t

/-- The effective way quotas of a partition's virtual devices. -/
def State.quotas (s : State) (part ways : Nat) : List (Nat × Nat) :=
  quotasFrom ways ((List.range 8).map fun i => (8 * part + i, (s.vd (8 * part + i)).ways.toNat))

def quotaOf (qs : List (Nat × Nat)) (v : Nat) : Nat := ((qs.find? fun x => x.1 == v).map (·.2)).getD 0

/-- The least recently used line that satisfies a test, removed; lines stand most recently used first. -/
def dropLru (p : Line → Bool) (ls : List Line) : Option (List Line) :=
  match ls.reverse.find? p with
  | some l => some (ls.filter fun x => x != l)
  | none => none

/-- The set after a fill by v makes room by the steps of 12 R289; none when the fill does not allocate. -/
def makeRoom (ways : Nat) (qs : List (Nat × Nat)) (lends : Nat → Bool) (borrows : Bool) (v : Nat) (ls : List Line) :
    Option (List Line) :=
  let own := lineCount ls v
  if own < quotaOf qs v ∧ ls.length < ways then some ls
  else
    match (if own < quotaOf qs v then dropLru (fun l => quotaOf qs l.vd < lineCount ls l.vd) ls else none) with
    | some r => some r
    | none =>
      let kept := (qs.filter fun x => !lends x.1).foldl (fun n x => n + (x.2 - lineCount ls x.1)) 0
      if borrows ∧ kept < ways - ls.length then some ls
      else if 0 < own then dropLru (fun l => l.vd == v) ls
      else none

/-- Sector bit of an address in its line. -/
def sectorBit (pa : Nat) : BitVec 8 := 1#8 <<< (pa / 16 % 8)

/-- The stack of a home slice (12 R286). -/
def stackOf (h : Nat) : Nat := h / 2 / 4
/-- The dirty sectors of lines that leave a slice are written to HBM (12 R287), at the charge of who filled them (15 R339). -/
def State.writeBack (s : State) (h : Nat) (gone : List Line) : State :=
  (gone.filter fun l => l.dirty != 0).foldl (fun s l =>
    s.send l.vd 0 0 0 [(2, stackOf h, 16 * popcount l.dirty)] clsOther 0 none) s

/-- One sector's access at its home slice (12 R289, R290): recency, fill, dirty bits; a line that another key or a fill displaces
is written back. Under no-allocate a sector that is missing is served from HBM and fills nothing. -/
def State.touchSector (s0 : State) (vd : Nat) (key : BitVec 6) (pol : BitVec 2) (wr : Bool) (pa : Nat) : State :=
  let k := s0.setKey vd pa
  let ls0 := tblGet [] s0.llc k
  let ls := ls0.filter fun l => !(l.line == pa / 128 && l.key != key)
  let s := s0.writeBack (s0.home pa) (ls0.filter fun l => !ls.contains l)
  match ls.find? (fun l => l.line == pa / 128) with
  | some l =>
    if pol ≠ 0 ∧ l.have_ &&& sectorBit pa = 0 then { s with llc := tblPut s.llc k ls }
    else
    let l1 := { l with have_ := l.have_ ||| sectorBit pa, dirty := if wr then l.dirty ||| sectorBit pa else l.dirty }
    { s with llc := tblPut s.llc k (l1 :: ls.filter fun x => x.line != pa / 128) }
  | none =>
    if pol = 0 then
      let ways := s.cacheWays (s.home pa)
      match makeRoom ways (s.quotas (vd / 8) ways) (fun u => (s.vd u).sl[1].lend) (s.vd vd).sl[1].borrow vd ls with
      | some r =>
        { s.writeBack (s.home pa) (ls.filter fun l => !r.contains l) with llc := tblPut s.llc k (⟨pa / 128, vd, key, sectorBit pa, if wr then sectorBit pa else 0⟩ :: r) }
      | none => { s with llc := tblPut s.llc k ls }
    else { s with llc := tblPut s.llc k ls }

/-- The sectors of n bytes at an address. -/
def sectorsOf (pa n : Nat) : List Nat := (List.range ((pa % 16 + n + 15) / 16)).map fun i => (pa / 16 + i) * 16

def State.touch (s : State) (vd : Nat) (key : BitVec 6) (pol : BitVec 2) (wr : Bool) (pa n : Nat) : State :=
  (sectorsOf pa n).foldl (fun s a => s.touchSector vd key pol wr a) s

/-- A sector is resident under a key. -/
def State.resident (s : State) (vd : Nat) (key : BitVec 6) (pa : Nat) : Bool :=
  (tblGet [] s.llc (s.setKey vd pa)).any fun l => l.line == pa / 128 && l.key == key && (l.have_ &&& sectorBit pa) != 0

/-- Writes back and invalidates the lines that satisfy a test. -/
def State.flushLines (s0 : State) (p : Nat → Line → Bool) : State :=
  let s := s0.llc.foldl (fun s x => s.writeBack (x.1 / 16384) (x.2.filter (p x.1))) s0
  { s with llc := s.llc.filterMap fun x =>
      let r := x.2.filter fun l => !p x.1 l
      if r.isEmpty then none else some (x.1, r) }

/-- A read and a write at the home slices for a virtual device. -/
def State.read (s : State) (vd : Nat) (key : BitVec 6) (pol : BitVec 2) (pa n : Nat) : List Byte × State :=
  (s.bytesAt key pa n, s.touch vd key pol false pa n)
def State.write (s : State) (vd : Nat) (key : BitVec 6) (pol : BitVec 2) (pa : Nat) (bs : List Byte) : State :=
  (s.store key pa bs).touch vd key pol true pa bs.length

/-- A frame lies in the memory ranges of a partition (15 R334). -/
def State.inRanges (s : State) (part pa : Nat) : Bool :=
  (s.part part).ranges.any fun r => r.1 * 65536 ≤ pa && pa < (r.1 + r.2) * 65536

/-! Atomics at the home slice (08 R203). -/

def atomNew (n : Nat) (op : Aop) (m v c : BitVec n) : BitVec n :=
  match op with
  | .add => m + v
  | .min => if m.toInt ≤ v.toInt then m else v
  | .max => if m.toInt ≤ v.toInt then v else m
  | .minu => if m.toNat ≤ v.toNat then m else v
  | .maxu => if m.toNat ≤ v.toNat then v else m
  | .and => m &&& v
  | .or => m ||| v
  | .xor => m ^^^ v
  | .xchg => v
  | .cas => if m = c then v else m
  | .tas => m ||| (1#n <<< (v.toNat % n))
  | .incw => if v.toNat ≤ m.toNat then 0 else m + 1
def atomRes (n : Nat) (op : Aop) (m v : BitVec n) : BitVec n :=
  match op with
  | .tas => if m.getLsbD (v.toNat % n) then 1 else 0
  | _ => m

/-- An atomic operation on memory: its result, and the state after it. -/
def State.atomic (s : State) (vd : Nat) (key : BitVec 6) (pol : BitVec 2) (pa : Nat) (op : Aop) (dw : Bool)
    (v c : DWord) : DWord × State :=
  if dw then
    let m : BitVec 64 := s.valAt 64 key pa 8
    (atomRes 64 op m v, s.write vd key pol pa (toBytes (atomNew 64 op m v c) 8))
  else
    let m : BitVec 32 := s.valAt 32 key pa 4
    ((atomRes 32 op m (v.setWidth 32)).setWidth 64,
      s.write vd key pol pa (toBytes (atomNew 32 op m (v.setWidth 32) (c.setWidth 32)) 4))

/-! Least times of 14 R326. -/

/-- From a quay to a home slice, and whether the line is present. -/
def memLat (q h : Nat) (present : Bool) : Nat :=
  let near := if q = h then 18
    else if q / 24 = h / 24 then 22 + 2 * dist (q / 2) (h / 2)
    else 22 + 2 * (8 + 16 * dist (q / 24) (h / 24))
  near + if present then 0 else 120

/-- The least time of an access to sectors: the longest of theirs. -/
def State.secsLat (s : State) (q vd : Nat) (key : BitVec 6) (secs : List Nat) : Nat :=
  (secs.map fun a => memLat q (s.home a) (s.resident vd key a)).foldl max 0

/-- Something that is no request of a quay cell, nor of the pilot `me`, may be at memory: the host, the Seaway, another pilot and its
commands, the shadow engine, or a channel's basin. -/
def State.traffic (s : State) (me : Option Nat) : Bool :=
  !s.inputs.isEmpty || !s.acts.isEmpty || s.host.shBusy || (s.host.swait.any fun x => !x.2.isEmpty) || (s.vds.any fun v => v.2.sendq.isSome) ||
    (s.pilots.any fun p => p.2.online && p.2.wait != .idle && me != some p.1) ||
    s.quays.any fun q => q.2.chans.any fun c => !c.2.moves.isEmpty || match c.2.cur with
      | some (.inr _) => true
      | _ => false

/-! Shared arbiters (15 R339 to R342). -/

/-- An arbiter instance's number: its class and instance. -/
def arbKey (cls inst : Nat) : Nat := cls * 1024 + inst

/-- Virtual devices that exist, by global number. -/
def State.vdList (s : State) : List Nat := s.vds.map (·.1)

/-- An arbiter before anything is put in it: no bucket holds anything, and the pool holds all that the spare puts in it (log 7). -/
def freshArb (cls : Nat) : Arb :=
  { lv := [], pool := [(16, (2048 * Config.classX cls : Int))], hptr := 0, sptr := 0, busy := 0, queue := [] }

def State.arb (s : State) (cls inst : Nat) : Arb := (tblGet? s.arbs (arbKey cls inst)).getD (freshArb cls)
def State.setArb (s : State) (cls inst : Nat) (a : Arb) : State := { s with arbs := tblPut s.arbs (arbKey cls inst) a }

/-- The order of an arbiter's queue: by arrival, and within a clk by rank. -/
def queueIn (r : ArbReq) : List ArbReq → List ArbReq
  | [] => [r]
  | x :: t => if x.clk = r.clk ∧ r.rank < x.rank then r :: x :: t else x :: queueIn r t

/-- A request joins an arbiter's queue. -/
def State.enqueue (s : State) (cls inst : Nat) (r : ArbReq) : State :=
  let a := s.arb cls inst
  s.setArb cls inst { a with queue := queueIn r a.queue }

/-- Ranks at a slice's pipeline within a clk: its quay's cells by column, its strip's pilot, its walkers, its channels' moves, and
requests from other quays (14 R326). The other arbiters have no ranks. -/
def rankPilot : Nat := 8
def rankWalk : Nat := 9
def rankMove : Nat := 10
def rankFar : Nat := 11

/-- A pass goes on: to the next arbiter it crosses, or to its end. -/
def State.passNext (s : State) (p : Pass) : State :=
  match p.todo with
  | [] =>
    let s1 := { s with passes := s.passes.filter fun x => x.id != p.id }
    match p.ev, p.via with
    | some e, some v => s1.arrives (max 1 (p.since + p.lat - s.clk)) p.cls p.sub v e
    | some e, none => s1.at (max 1 (p.since + p.lat - s.clk)) p.cls p.sub e
    | none, _ => s1
  | (cls, inst, units) :: rest =>
    let s1 : State := { s with passes := s.passes.map fun x => if x.id = p.id then { p with todo := rest, queued := true } else x }
    s1.enqueue cls inst
      ⟨p.vd, p.rclass, units, p.id, s.clk, if cls = 0 then p.rank else 0⟩
/-- Of passes that only charge, those that their turn has paid for ahead are dropped. -/
def unpaid (paid : List (Nat × List (Nat × Nat × Nat))) : List Pass → List Pass
  | [] => []
  | p :: t =>
    if p.ev.isNone && !p.queued && p.cls != clsAhead && paid.contains (p.vd, p.todo) then unpaid (paid.erase (p.vd, p.todo)) t else p :: unpaid paid t
/-- What was sent in the clk joins its queues, but for what was paid for ahead. -/
def State.joinQueues (s0 : State) : State :=
  let s : State := if s0.paid.isEmpty then s0 else { s0 with passes := unpaid s0.paid s0.passes, paid := [] }
  (s.passes.filter fun p => !p.queued).foldl State.passNext s

/-- What a pool holds. -/
def poolSum (p : Tbl Int) : Int := p.foldl (fun n x => n + x.2) 0

/-- Adds to the pool, up to twice its capacity bound (15 R340). -/
def poolAdd (cls : Nat) (p : Tbl Int) (part : Nat) (n : Int) : Tbl Int :=
  tblPut p part (tblGet 0 p part + max 0 (min n (2048 * (Config.classX cls : Int) - poolSum p)))

/-- The level of a virtual device at an arbiter: 0 before its first refill (15 R340, R344). -/
def State.level (_ : State) (_ : Nat) (a : Arb) (v : Nat) : Int := tblGet 0 a.lv v

/-- The refill of one virtual device (15 R340, R341: a closed partition lends nothing). -/
def State.refillVd (s : State) (cls : Nat) (a : Arb) (v : Nat) : Arb :=
  let sl := (s.vd v).sl[Fin.ofNat 5 cls]
  let full : Int := 1024 * sl.depth
  let b := s.level cls a v
  if b < full then { a with lv := tblPut a.lv v (min (b + sl.rate) full) }
  else
    let a1 := { a with lv := tblPut a.lv v full }
    if !(a.queue.any fun r => r.vd == v) && sl.lend && !(s.part (v / 8)).closed then
      { a1 with pool := poolAdd cls a.pool (v / 8) sl.rate }
    else a1

/-- The refill of a clk; what the arbiter passes in it is done. -/
def State.refill (s : State) (cls : Nat) (a : Arb) : Arb :=
  let a1 := s.vdList.foldl (s.refillVd cls) a
  let rates := s.vdList.foldl (fun n v => n + ((s.vd v).sl[Fin.ofNat 5 cls]).rate) 0
  { a1 with pool := poolAdd cls a1.pool 16 ((Config.classCap cls : Int) - rates), busy := a1.busy - Config.classCap cls }

/-- The arbiters refilled in a clk: those in use, and every one of a class in which some virtual device has a rate. -/
def State.arbList (s : State) : List Nat :=
  let all (cls : Nat) : List Nat :=
    if s.vds.any fun v => (v.2.sl[Fin.ofNat 5 cls]).rate != 0 then (List.range (Config.classInst cls)).map (arbKey cls) else []
  let used := s.arbs.map (·.1)
  used ++ ((List.range 5).flatMap all).filter fun k => !used.contains k

/-- The first of the candidates at or after a pointer, round robin. -/
def roundRobin (ptr : Nat) (vs : List Nat) : Option Nat :=
  let up (o : Option Nat) (v : Nat) : Option Nat := match o with | some x => some (min x v) | none => some v
  match (vs.filter fun v => ptr ≤ v).foldl up none with
  | some v => some v
  | none => vs.foldl up none

/-- The request of a virtual device that goes first: the lowest request class, then the oldest (15 R341). -/
def firstOf (q : List ArbReq) (v : Nat) : Option ArbReq :=
  (q.filter fun r => r.vd == v).foldl (fun o r => match o with
    | some x => if r.rclass < x.rclass then some r else some x
    | none => some r) none

/-- Takes units from the pool: from lent refills in ascending partition, the rest from the spare (15 R341). -/
def poolTake : Tbl Int → Int → Tbl Int
  | [], n => [(16, -n)]
  | (k, x) :: t, n => if k = 16 then (k, x - n) :: t else if 0 < x ∧ 0 < n then (k, x - min x n) :: poolTake t (n - min x n)
      else (k, x) :: poolTake t n

/-- A virtual device that may borrow (15 R341). -/
def State.mayBorrow (s : State) (cls : Nat) (a : Arb) (v : Nat) : Bool :=
  ((s.vd v).sl[Fin.ofNat 5 cls]).borrow && 0 < poolSum a.pool &&
    (!(s.part (v / 8)).closed || a.pool.all fun x => x.1 == 16 || x.1 == v / 8 || x.2 == 0)

/-- One grant of an arbitration: the holder next in turn, else the borrower next in turn (15 R341). -/
def State.grantOne (s : State) (cls : Nat) (a : Arb) : Option (ArbReq × Arb) :=
  let vs := (a.queue.map (·.vd)).eraseDups
  match roundRobin a.hptr (vs.filter fun v => 0 < s.level cls a v) with
  | some v =>
    (firstOf a.queue v).map fun r =>
      (r, { a with lv := tblPut a.lv v (s.level cls a v - 1024 * r.units), hptr := v + 1, queue := a.queue.erase r,
                   busy := a.busy + 1024 * r.units })
  | none =>
    match roundRobin a.sptr (vs.filter fun v => s.mayBorrow cls a v) with
    | some v =>
      (firstOf a.queue v).map fun r =>
        (r, { a with pool := poolTake a.pool (1024 * r.units), sptr := v + 1, queue := a.queue.erase r,
                     busy := a.busy + 1024 * r.units })
    | none => none

/-- An arbitration: grants until the arbiter is full or no request remains. -/
def State.arbitrate (s : State) (cls : Nat) : Nat → Arb → List ArbReq × Arb
  | 0, a => ([], a)
  | fuel + 1, a =>
    if Config.classCap cls ≤ a.busy then ([], a)
    else
      match s.grantOne cls a with
      | none => ([], a)
      | some (r, b) =>
        let t := s.arbitrate cls fuel b
        (r :: t.1, t.2)

/-- The arbiters that an access to sectors of one line crosses (08 R194, 15 R339): each die boundary, 32 bytes at a time, the home
slice's pipeline, and, for the sectors that are missing, the line's fill and its HBM stack. -/
def State.crossings (s : State) (q vd : Nat) (key : BitVec 6) (pol : BitVec 2) (secs : List Nat) : List (Nat × Nat × Nat) :=
  let h := s.home (secs.headD 0)
  let miss := (secs.filter fun a => !s.resident vd key a).length
  (boundaries (q / 2) (h / 2)).flatMap (List.replicate ((secs.length + 1) / 2)) ++ [(0, h, 1)] ++
    (if miss = 0 then [] else (if pol = 0 then [(1, h, 1)] else []) ++ [(2, stackOf h, 16 * miss)])
/-- The arbiters that sectors cross, line after line. -/
def State.crossAll (s : State) (q vd : Nat) (key : BitVec 6) (pol : BitVec 2) (secs : List Nat) : List (Nat × Nat × Nat) :=
  ((secs.map (· / 128)).eraseDups).flatMap fun l => s.crossings q vd key pol (secs.filter fun a => a / 128 == l)

/-- An access of n bytes in one line goes to its home slice under request class 0, from quay q: by a pilot, a walker or a channel
move, whose rank stands (15 R341). -/
def State.sendTo (s : State) (q vd rank : Nat) (key : BitVec 6) (pol : BitVec 2) (pa n lat sub : Nat) (ev : Instr) : State :=
  let own := if rank = rankPilot then s.home pa / 2 = q / 2 else s.home pa = q
  s.send vd 0 (if own then rank else rankFar) lat (s.crossings q vd key pol (sectorsOf pa n)) clsOther sub (some ev)

/-! Accesses that take effect at once (log 9). -/

/-- What an access of n bytes from quay q takes of the arbiters passes them all the same: the access takes effect before it has passed,
and nothing comes at the end (15 R339, R341; log 9). -/
def State.charge (s : State) (q vd : Nat) (key : BitVec 6) (pol : BitVec 2) (pa n : Nat) : State :=
  s.send vd 0 rankFar 0 (s.crossAll q vd key pol (sectorsOf pa n)) clsOther 0 none
/-- A request to a channel's home quay is charged likewise. -/
def State.chargeChan (s : State) (strip vd ch : Nat) : State :=
  s.send vd 0 rankFar 0 (boundaries strip (ch / 128) ++ [(0, ch / 64, 1)]) clsOther 0 none
/-- A read and a write at the home slices from quay q that take effect at once. -/
def State.qread (s : State) (q vd : Nat) (key : BitVec 6) (pol : BitVec 2) (pa n : Nat) : List Byte × State :=
  (s.charge q vd key pol pa n).read vd key pol pa n
def State.qwrite (s : State) (q vd : Nat) (key : BitVec 6) (pol : BitVec 2) (pa : Nat) (bs : List Byte) : State :=
  (s.charge q vd key pol pa bs.length).write vd key pol pa bs

end Sys2Proof.Machine
end

