-- ==== Sys2Proof/Machine/Translate.lean ====
section
/-! DEFINITION. Page tables, walks and the translation buffer (16 R352 to R356, 12 R298). -/

namespace Sys2Proof.Machine

/-- A failure: the cause and detail of 16 R360. -/
abbrev Fail := Nat × Nat

/-- Bits of a leaf's page offset at a level (16 R352). -/
def leafBits (level : Nat) : Nat := if level = 0 then 16 else if level = 1 then 29 else 42
/-- Index of an address at a level. -/
def vaIndex (va : DWord) (level : Nat) : Nat := bf va (leafBits level) 13
def canonical (va : DWord) : Bool := bf va 55 9 == (if bit va 54 then 511 else 0)

/-! Fields of an entry (16 R353). -/

def pteFrame (p : DWord) : Nat := bf p 16 36 * 65536
def pteKey (p : DWord) : BitVec 6 := p.extractLsb' 8 6
def pteLeaf (p : DWord) : Bool := bf p 1 3 != 0
/-- A reserved encoding (reason 2 of 16 R354). -/
def pteReserved (level : Nat) (p : DWord) : Bool :=
  bf p 52 12 != 0 || (bit p 2 && !bit p 1) ||
    (if pteLeaf p then 2 ≤ bf p 14 2 || bf p 16 (leafBits level - 16) != 0
     else level == 0 || bf p 4 4 != 0 || bf p 14 2 != 0)
/-- The physical granule a leaf gives an address. -/
def leafPa (level : Nat) (va p : DWord) : Nat := pteFrame p + va.toNat % 2 ^ leafBits level / 65536 * 65536

/-- A key id permitted to a virtual device (01 R35, 15 R347). -/
def State.keyOk (s : State) (vd : Nat) (k : BitVec 6) : Bool := k != 0 && bit (s.vd vd).keys k.toNat
/-- The key ids permitted to a virtual device; key id 0 never is (15 R347). -/
def State.permitted (s : State) (vd : Nat) : DWord := (s.vd vd).keys &&& ~~~1#64
def State.hasKey (s : State) (vd : Nat) : Bool := s.permitted vd != 0
/-- The key of the root table: the lowest permitted key id, where there is one. -/
def State.rootKey (s : State) (vd : Nat) : BitVec 6 := BitVec.ofNat 6 (ctzN (s.permitted vd) 0 64)

/-- An entry of a level judged: a failure, the next table and its key, or none for a leaf (16 R353, R354). -/
def State.judge (s : State) (vd level : Nat) (user : Bool) (va p : DWord) : Except Fail (Option (Nat × BitVec 6)) :=
  if !bit p 0 then .error (0x10, 1 + 16 * level)
  else if pteReserved level p then .error (0x10, 2 + 16 * level)
  else if pteLeaf p && user && !bit p 4 then .error (0x10, 3 + 16 * level)
  else if !s.keyOk vd (pteKey p) then .error (0x11, 0)
  else if !s.inRanges (vd / 8) (if pteLeaf p then leafPa level va p else pteFrame p) then .error (0x11, 1)
  else .ok (if pteLeaf p then none else some (pteFrame p, pteKey p))

/-- What fails before any table is read: no key id is permitted, or the address is not canonical (16 R353, R354). -/
def State.preFail (s : State) (vd : Nat) (va : DWord) : Option Fail :=
  if !s.hasKey vd then some (0x11, 0) else if !canonical va then some (0x10, 0x30) else none

/-- Where a walk starts: the root table and its key (16 R352, R353; log 20). -/
def State.walkRoot (s : State) (vd : Nat) (va : DWord) : Except Fail (Nat × BitVec 6) :=
  match s.preFail vd va with
  | some f => .error f
  | none =>
    match (s.vd vd).root with
    | none => .error (0x10, 0x21)
    | some r => if s.inRanges (vd / 8) r.toNat then .ok (r.toNat, s.rootKey vd) else .error (0x11, 1)

/-- A leaf with its level, the address of its entry and the key that is read under. -/
structure Leaf where
  level : Nat
  addr : Nat
  key : BitVec 6
  pte : DWord
  deriving DecidableEq, Repr

/-- The walk from a table on; the number counts the levels left (16 R354). A poisoned entry fails with 0x20 (16 R373). Its reads are
accesses at the home slices (12 R289, R290). -/
def State.walkFrom (s : State) (q vd : Nat) (user : Bool) (va : DWord) : Nat → Nat → BitVec 6 → Except Fail Leaf × State
  | 0, _, _ => (.error (0x10, 1), s)
  | n + 1, table, key =>
    let a := table + 8 * vaIndex va n
    if s.poisonedAt a 8 then (.error (0x20, 0), s)
    else
      let p := s.valAt 64 key a 8
      let s1 := (s.charge q vd key 0 a 8).touch vd key 0 false a 8
      match s.judge vd n user va p with
      | .error e => (.error e, s1)
      | .ok (some (t, k)) => s1.walkFrom q vd user va n t k
      | .ok none => (.ok ⟨n, a, key, p⟩, s1)

/-- The access's permission in a leaf (08 R193, 09 R231). -/
def permFail (acc : Acc) (p : DWord) : Option Fail :=
  match acc with
  | .r => if bit p 1 then none else some (0x13, 0)
  | .w => if bit p 2 then none else some (0x13, 1)
  | .x => if bit p 3 then none else some (0x13, 0)

/-- The leaf with A set, and D for a write (16 R355). -/
def pteUsed (wr : Bool) (p : DWord) : DWord := p ||| (if wr then 0xC0 else 0x40)

/-- What a leaf gives a requester: the granule of the address. -/
def leafFrame (level : Nat) (va p : DWord) : Frame :=
  { base := BitVec.ofNat 52 (leafPa level va p), len := 65536, r := bit p 1, w := bit p 2, key := pteKey p,
    pol := p.extractLsb' 14 2, d := bit p 7 }

/-! The translation buffer (16 R356; log 21: the oldest entry makes room). -/

def Tlb.hit (vd : Nat) (va : DWord) (e : Tlb) : Bool :=
  e.vd == vd && e.vpn == bf va (leafBits e.level) (55 - leafBits e.level)
def Quay.tlbFind (q : Quay) (vd : Nat) (va : DWord) : Option Tlb := q.tlb.find? (Tlb.hit vd va)
def Quay.tlbAdd (q : Quay) (vd : Nat) (va : DWord) (level : Nat) (p : DWord) : Quay :=
  { q with tlb := (⟨vd, bf va (leafBits level) (55 - leafBits level), level, p⟩ ::
      q.tlb.filter fun e => !Tlb.hit vd va e).take 4096 }

/-- The cached leaf that serves an access without a walk: A is set, and D for a write. -/
def State.tlbServes (s : State) (q vd : Nat) (user : Bool) (va : DWord) (wr : Bool) : Option (Except Fail Tlb) :=
  match (s.quay q).tlbFind vd va with
  | none => none
  | some e =>
    if pteUsed wr e.pte ≠ e.pte then none
    else
      match s.judge vd e.level user va e.pte with
      | .error f => some (.error f)
      | .ok _ => some (.ok e)

/-- How a translation begins: it ends at once, or a walk starts from a table. -/
inductive Begin where
  | done (r : Except Fail Frame)
  | walk (table : Nat) (key : BitVec 6)

/-- A failure before any read, a leaf of the buffer, or the walk's start. -/
def State.begin (s : State) (q vd : Nat) (user : Bool) (va : DWord) (acc : Acc) : Begin :=
  match s.preFail vd va with
  | some f => .done (.error f)
  | none =>
    match s.tlbServes q vd user va (acc == .w) with
    | some (.error f) => .done (.error f)
    | some (.ok e) =>
      .done (match permFail acc e.pte with
        | some f => .error f
        | none => .ok (leafFrame e.level va e.pte))
    | none =>
      match s.walkRoot vd va with
      | .error f => .done (.error f)
      | .ok (t, k) => .walk t k

/-- A translation whose reads and A or D update are made at once: what the host, a command's operands, block-map reads, basins and
loading use. Their turns are not taken before the walks that it needs have ended (State.ahead; log 9). -/
def State.translate (s : State) (q vd : Nat) (user : Bool) (va : DWord) (acc : Acc) : Except Fail Frame × State :=
  match s.begin q vd user va acc with
  | .done r => (r, s)
  | .walk t k =>
    match s.walkFrom q vd user va 3 t k with
    | (.error f, s1) => (.error f, s1)
    | (.ok l, s1) =>
      match permFail acc l.pte with
      | some f => (.error f, s1)
      | none =>
        let p := pteUsed (acc == .w) l.pte
        let s2 := if p = l.pte then s1 else s1.qwrite q vd l.key 0 l.addr (toBytes p 8)
        (.ok (leafFrame l.level va p), s2.modQuay q fun u => u.tlbAdd vd va l.level p)

/-- The physical address of a virtual address in its granule. -/
def Frame.pa (f : Frame) (va : DWord) : Nat := f.base.toNat + va.toNat % 65536

/-- The virtual address of offset t in the granule of a page source (16 R360). -/
def granuleVa (vframe : BitVec 39) (t : Nat) : DWord := (vframe.signExtend 64 <<< 16) + BitVec.ofNat 64 t
/-- The granule of an address. -/
def vframeOf (va : DWord) : BitVec 39 := va.extractLsb' 16 39

/-! Walks of a quay's unit for its cells and pilots, one read at a time. -/

/-- The clk a read of a page-table entry takes (14 R326, log 9). -/
def State.walkClk (s : State) (q vd : Nat) (key : BitVec 6) (a : Nat) : Nat := memLat q (s.home a) (s.resident vd key a)

/-- Address of the entry a walk reads next. -/
def Walk.entry (w : Walk) : Nat := w.table + 8 * vaIndex w.va w.level

/-- Sends an access to a walk's entry, with the event at which it is served. -/
def State.walkSend (s : State) (q : Nat) (w : Walk) (ev : Instr) : State :=
  s.sendTo q w.vd rankWalk w.key 0 w.entry 8 (s.walkClk q w.vd w.key w.entry) q ev
/-- Issues the read of a walk's next entry. -/
def State.walkRead (s : State) (q : Nat) (w : Walk) : State := s.walkSend q w (.walkReadReply q w.id)

/-- Changes the walk of a number. -/
def Quay.modWalk (q : Quay) (k : Nat) (f : Walk → Walk) : Quay :=
  { q with walks := q.walks.map fun w => if w.id = k then f w else w }
def Quay.walk? (q : Quay) (k : Nat) : Option Walk := q.walks.find? fun w => w.id == k

/-- A frame-window entry filled from a translation or lookup; its source stays (08 R191). -/
def Fw.filled (e : Fw) (f : Frame) : Fw :=
  { e with valid := true, frame := f.base, len := f.len, r := f.r, w := f.w, key := f.key, pol := f.pol, dKnown := f.d }

/-- The end of a translation, as it is held. -/
def transEnd (r : Except Fail Frame) : TransSt :=
  match r with
  | .ok f => .ok f
  | .error e => .fail e.1 e.2

/-- What a cell does with the end of its translation: a refill or a dirty update renews its frame-window entry (08 R191, R193). -/
def Cell.translated (c : Cell) (r : Except Fail Frame) : Cell :=
  let renew (i : Nat) : Cell :=
    match r with
    | .ok f => { c with trans := none, fw := vset c.fw (Fin.ofNat 16 i) (c.fw[Fin.ofNat 16 i].filled f) }
    | .error _ => { c with trans := c.trans.map fun t => { t with st := transEnd r } }
  match c.trans with
  | some ⟨.dirty i, .running⟩ => renew i
  | some ⟨.refill i, .running⟩ => renew i
  | some ⟨w, .running⟩ => { c with trans := some ⟨w, transEnd r⟩ }
  | _ => c

/-- What a pilot does with the end of a walk that it still waits for. -/
def Pilot.translated (p : Pilot) (id : Nat) (r : Except Fail Frame) : Pilot :=
  { p with walk := p.walk.map fun w => if w.id = id then { w with st := transEnd r } else w }

/-- Who waits for a walk is told its end. -/
def State.tellWalk (s : State) (w : Walk) (r : Except Fail Frame) : State :=
  match w.who with
  | .cell c => s.modCell c fun k => k.translated r
  | .pilot p => s.modPilot p fun k => k.translated w.id r
  | .turn _ _ => s

/-- A walk ends; the next that waits starts (16 R356). -/
def State.walkEnd (s : State) (q : Nat) (w : Walk) (r : Except Fail Frame) : State :=
  let s1 := (s.tellWalk w r).modQuay q fun u => { u with walks := u.walks.filter fun x => x.id != w.id }
  match (s1.quay q).queue with
  | [] => s1
  | n :: rest => (s1.modQuay q fun u => { u with walks := u.walks ++ [n], queue := rest }).walkRead q n

/-- A walk starts from a table, or waits while 16 run. -/
def State.walkStart (s : State) (q : Nat) (who : Walker) (vd : Nat) (user : Bool) (va : DWord) (acc : Acc) (t : Nat) (k : BitVec 6) :
    State :=
  let w : Walk := ⟨s.seqNo, who, vd, va, 2, t, k, acc, user, none⟩
  let s1 := { s with seqNo := s.seqNo + 1 }
  if (s1.quay q).walks.length < 16 then
    (s1.modQuay q fun u => { u with walks := u.walks ++ [w] }).walkRead q w
  else s1.modQuay q fun u => { u with queue := u.queue ++ [w] }

/-- A walk again from the root, with its place kept (12 R298, 09 R238). -/
def State.walkAgain (s : State) (q : Nat) (w : Walk) : State :=
  match s.walkRoot w.vd w.va with
  | .error e => s.walkEnd q w (.error e)
  | .ok (t, k) =>
    let w1 := { w with level := 2, table := t, key := k, old := none }
    (s.modQuay q fun u => u.modWalk w.id fun _ => w1).walkRead q w1

/-- The translation of a cell starts: what it is for, the address, and whether it is for a write (08 R192). -/
def State.transStart (s : State) (c : Nat) (what : TransFor) (va : DWord) (wr : Bool) : State :=
  let q := quayOf c
  let vd := s.cellVd c
  let acc : Acc := if wr then .w else .r
  let s1 := s.modCell c fun cl => { cl with trans := some ⟨what, .running⟩ }
  match s1.begin q vd true va acc with
  | .done r => s1.modCell c fun cl => cl.translated r
  | .walk t k => s1.walkStart q (.cell c) vd true va acc t k

/-- The leaf of a walk used: at once, or after its A or D update is served (16 R355). -/
def State.walkLeaf (s : State) (q : Nat) (w : Walk) (p : DWord) : State :=
  match permFail w.acc p with
  | some f => s.walkEnd q w (.error f)
  | none =>
    let p1 := pteUsed (w.acc == .w) p
    if p1 = p then
      (s.modQuay q fun u => u.tlbAdd w.vd w.va w.level p).walkEnd q w (.ok (leafFrame w.level w.va p))
    else
      (s.modQuay q fun u => u.modWalk w.id fun x => { x with old := some (w.entry, p, leafFrame w.level w.va p1) }).walkSend q w
        (.accessedDirtyUpdate q w.id)

/-- WALK_READ_REPLY (16 R354). -/
def State.walkReply (s : State) (q k : Nat) : State :=
  match (s.quay q).walk? k with
  | none => s
  | some w =>
    if w.level = 3 then s.walkAgain q w
    else if s.poisonedAt w.entry 8 then s.walkEnd q w (.error (0x20, 0))
    else
      let p := s.valAt 64 w.key w.entry 8
      let s1 := s.touch w.vd w.key 0 false w.entry 8
      match s1.judge w.vd w.level w.user w.va p with
      | .error e => s1.walkEnd q w (.error e)
      | .ok (some (t, kk)) =>
        let w1 := { w with level := w.level - 1, table := t, key := kk }
        (s1.modQuay q fun u => u.modWalk k fun _ => w1).walkRead q w1
      | .ok none => s1.walkLeaf q w p

/-- ACCESSED_DIRTY_UPDATE (16 R355, 12 R298). -/
def State.walkCas (s : State) (q k : Nat) : State :=
  match (s.quay q).walk? k with
  | none => s
  | some w =>
    match w.old with
    | none => s.walkAgain q w
    | some (a, p, f) =>
      if s.valAt 64 w.key a 8 = p then
        let p1 := pteUsed (w.acc == .w) p
        ((s.write w.vd w.key 0 a (toBytes p1 8)).modQuay q fun u => u.tlbAdd w.vd w.va w.level p1).walkEnd q w (.ok f)
      else (s.touch w.vd w.key 0 false a 8).walkAgain q w

end Sys2Proof.Machine
end

