-- ==== Sys2Proof/Machine/Requests.lean ====
section
/-! DEFINITION. Requests of quay cells: issue, serving, completion, and the coalescing buffer (08 R194 to R197, R209;
12 R291). -/

namespace Sys2Proof.Machine

def State.req? (s : State) (id : Nat) : Option Req := s.reqs.find? fun r => r.id == id
def State.modReq (s : State) (id : Nat) (f : Req → Req) : State :=
  { s with reqs := s.reqs.map fun r => if r.id = id then f r else r }

def ReqKind.isRead : ReqKind → Bool
  | .read => true
  | _ => false
/-- Stores, atomics and copies: what QFLS and HAND wait for (08 R208, R209). -/
def ReqKind.isStore : ReqKind → Bool
  | .write _ | .atom _ _ _ _ | .copy _ _ _ _ _ => true
  | _ => false
/-- A request counted by R29's outstanding counts: every one but a prefetch (08 R205). -/
def ReqKind.counted : ReqKind → Bool
  | .prefetch _ => false
  | _ => true
def ReqKind.isChan : ReqKind → Option Nat
  | .chr ch => some ch
  | .chcl ch => some ch
  | .chst ch => some ch
  | .chw ch _ _ => some ch
  | _ => none

/-- The quay that serves a request: its channel's, or the home of its address. -/
def State.reqHome (s : State) (r : Req) : Nat :=
  match r.kind.isChan with
  | some ch => ch / 64
  | none => s.home r.pa

/-- The event at which a request is served. -/
def Req.serveEv (r : Req) : Instr :=
  match r.kind with
  | .blkop _ _ _ => .blockMapOpServe r.id
  | _ => .sliceServe r.id

/-- A request goes on: to the next arbiter it crosses, or to its home slice (08 R194, 15 R341). -/
def State.reqNext (s : State) (r : Req) : State :=
  match r.todo with
  | [] => s.at (max 1 (r.since + r.lat / 2 - s.clk)) clsOther r.id r.serveEv
  | (cls, inst, units) :: rest =>
    (s.modReq r.id fun x => { x with todo := rest }).enqueue cls inst
      ⟨r.vd, hdrClass (s.cellHdr r.cell), units, r.id, s.clk,
        if cls ≠ 0 then 0 else if quayOf r.cell = inst then cellCol r.cell else rankFar⟩

/-- Counts n requests of a cell, ordered or not (01 R29). -/
def Cell.countOut (c : Cell) (ord : Bool) (n : Nat) : Cell :=
  if ord then { c with outOrd := c.outOrd + n } else { c with outUnord := c.outUnord + n }
def Cell.countIn (c : Cell) (ord : Bool) (n : Nat) : Cell :=
  if ord then { c with outOrd := c.outOrd - n } else { c with outUnord := c.outUnord - n }

/-- What a firing asks of memory. -/
structure Ask where
  kind : ReqKind
  pa : Nat
  va : DWord
  key : BitVec 6
  pol : BitVec 2
  ord : Bool
  paged : Bool
  deriving DecidableEq, Repr

/-- Sectors that listed bytes lie in. -/
def sectorsIn (bytes : Tbl Byte) : List Nat := (bytes.map fun b => b.1 / 16 * 16).eraseDups

/-- The arbiters that a request crosses. -/
def State.asksTodo (s : State) (c vd : Nat) (kind : ReqKind) (pa : Nat) (key : BitVec 6) (pol : BitVec 2) : List (Nat × Nat × Nat) :=
  let q := quayOf c
  match kind.isChan with
  | some ch => boundaries (cellStrip c) (ch / 128) ++ [(0, ch / 64, 1)]
  | none =>
    match kind with
    | .write bytes => s.crossAll q vd key pol (sectorsIn bytes)
    | .copy dst dkey dpol n _ => s.crossAll q vd key pol (sectorsOf pa n) ++ s.crossAll q vd dkey dpol (sectorsOf dst n)
    | .prefetch n => s.crossAll q vd key pol (sectorsOf pa n)
    | .read => s.crossAll q vd key pol (sectorsOf pa 32)
    | _ => s.crossAll q vd key pol (sectorsOf pa 1)

/-- The least time of a request (14 R326): of a copy, to read its source and then to write its destination. -/
def State.askLat (s : State) (c : Nat) (a : Ask) : Nat :=
  let q := quayOf c
  match a.kind.isChan with
  | some ch => memLat q (ch / 64) true
  | none =>
    match a.kind with
    | .copy dst dkey _ n _ =>
      s.secsLat q (s.cellVd c) a.key (sectorsOf a.pa n) + s.secsLat q (s.cellVd c) dkey (sectorsOf dst n) + n / 16
    | .read => s.secsLat q (s.cellVd c) a.key (sectorsOf a.pa 32)
    | .write bytes => s.secsLat q (s.cellVd c) a.key (sectorsIn bytes)
    | _ => s.secsLat q (s.cellVd c) a.key (sectorsOf a.pa 1)

/-- The oldest pending read of its sectors, whose merge group a read joins if the hardware merges it (08 R196, log 12). A read is
pending until it completes, whether or not it is served. -/
def State.mergeInto (s : State) (part : Nat) (a : Ask) : Option Req :=
  if a.kind.isRead && !a.ord then
    match s.reqs.find? (fun r => r.kind.isRead && !r.held && r.pa == a.pa && r.key == a.key && r.vd / 8 == part) with
    | some r => if Config.merges s.fresh then some r else none
    | none => none
  else none

/-- Issues a request with the deferred results it carries, from slot `slot` of context `ctx` of a cell. -/
def State.issueFrom (s : State) (c ctx slot : Nat) (a : Ask) (res : List (DefW × Option Wide)) : State :=
  let id := s.seqNo
  let g := s.mergeInto (s.cellPart c) a
  let r : Req :=
    { id := id, cell := c, ctx := ctx, slot := slot, kind := a.kind, pa := a.pa, va := a.va, key := a.key, pol := a.pol,
      vd := s.cellVd c, ord := a.ord, since := s.clk, lat := s.askLat c a,
      todo := s.asksTodo c (s.cellVd c) a.kind a.pa a.key a.pol,
      arrived := false, served := (g.map (·.served)).getD false, group := g.map fun x => x.group.getD x.id,
      ans := (g.map (·.ans)).getD 0, poison := (g.map (·.poison)).getD false, res := res, held := false, done := 0, pre := [], paged := a.paged }
  let s1 := { s with seqNo := s.seqNo + 1, fresh := if a.kind.isRead && !a.ord then s.fresh + 1 else s.fresh,
                     reqs := s.reqs ++ [r] }
  if r.served then s1.at (max 1 r.lat) clsWrite id (.requestCompletion id) else if g.isSome then s1 else s1.reqNext r

/-- Issues a request of the slot whose turn it is, and counts it. -/
def State.issue (s : State) (a : Ask) (res : List (DefW × Option Wide)) : State :=
  let c := s.curCell
  let s1 := s.issueFrom c (s.cell c).actx.val s.curSlot.val a res
  if a.kind.counted then s1.modCell c fun cl => cl.countOut a.ord 1 else s1

/-! The coalescing buffer (08 R197). -/

/-- A line of the buffer is sent; its stores are counted already. -/
def State.coalSend (s : State) (c line : Nat) : State :=
  match (s.cell c).coal.find? fun l => l.line == line with
  | none => s
  | some l =>
    (s.modCell c fun cl => { cl with coal := cl.coal.filter fun x => x.line != line }).issueFrom c
      (s.cell c).actx.val s.curSlot.val ⟨.write l.bytes, l.line * 128, 0, l.key, l.pol, false, false⟩
      (l.held.map fun h => (h.1, some h.2))

def State.coalSendAll (s : State) (c : Nat) : State :=
  (s.cell c).coal.foldl (fun s l => s.coalSend c l.line) s

/-- The lines that n bytes at an address touch are sent first. -/
def State.coalTouch (s : State) (c pa n : Nat) : State :=
  (s.cell c).coal.foldl (fun s l => if pa / 128 ≤ l.line ∧ l.line ≤ (pa + n - 1) / 128 then s.coalSend c l.line else s) s

/-- Bytes enabled by a mask of n-byte groups, at their addresses. -/
def maskedBytes (pa : Nat) (pay : Wide) (on : Nat → Bool) : Tbl Byte :=
  (List.range 32).filterMap fun i => if on i then some (pa + i, elt 8 pay i) else none

/-- An unordered store enters the buffer. -/
def State.coalesce (s : State) (c pa : Nat) (key : BitVec 6) (pol : BitVec 2) (bytes : Tbl Byte) (w : DefW) (done : Wide) :
    State :=
  let line := pa / 128
  let s0 :=
    match (s.cell c).coal.find? fun l => l.line == line && (l.key != key || l.pol != pol) with
    | some _ => s.coalSend c line
    | none => s
  let cl := s0.cell c
  let s1 :=
    if cl.coal.any fun l => l.line == line then s0
    else
      let s2 := match cl.coal with
        | l :: _ => if cl.coal.length = 8 then s0.coalSend c l.line else s0
        | [] => s0
      s2.modCell c fun k => { k with coal := k.coal ++ [⟨line, s.cellVd c, key, pol, [], [], s.clk⟩] }
  s1.modCell c fun k =>
    { k with coal := k.coal.map fun l =>
        if l.line = line then
          { l with bytes := bytes.foldl (fun t b => tblPut t b.1 b.2) l.bytes, held := l.held ++ [(w, done)],
                   last := s.clk }
        else l }

/-! Serving at the home slice (12 R291). -/

/-- Bytes by address written under a key; sectors written whole lose their poison. -/
def State.storeTbl (s : State) (key : BitVec 6) (bytes : Tbl Byte) : State :=
  let s1 := bytes.foldl (fun s b => s.putByte key b.1 b.2) s
  { s1 with poison := s1.poison.filter fun x =>
      !((List.range 16).all fun i => (tblGet? bytes (16 * x + i)).isSome) }

/-- A sector copied for a virtual device, with its poison (16 R373). -/
def State.moveSector (s : State) (vd : Nat) (key : BitVec 6) (pol : BitVec 2) (a : Nat) (dkey : BitVec 6) (dpol : BitVec 2) (d : Nat) :
    State :=
  let bad := s.poisonedAt a 16
  let rd := s.read vd key pol a 16
  let s1 := rd.2.write vd dkey dpol d rd.1
  if bad then { s1 with poison := s1.poison ++ [d / 16] } else s1
/-- One sector of a copy (08 R204). -/
def State.copySector (s : State) (r : Req) (dst : Nat) (dkey : BitVec 6) (dpol : BitVec 2) (i : Nat) : State :=
  s.moveSector r.vd r.key r.pol (r.pa + 16 * i) dkey dpol (dst + 16 * i)

/-- The answers of a served request to itself and to its merge group. A request saved with its region keeps the answer. -/
def State.answer (s : State) (id : Nat) (v : Wide) (bad : Bool) : State :=
  let due (r : Req) : Nat := max 1 (r.since + r.lat - s.clk)
  let hit (r : Req) : Bool := r.id == id || (r.group == some id && !r.served)
  let s1 := (s.reqs.filter hit).foldl (fun t r => t.at (due r) clsWrite r.id (.requestCompletion r.id)) s
  let got (r : Req) : Req := if hit r then { r with served := true, ans := v, poison := bad } else r
  { s1 with reqs := s1.reqs.map got, saves := s1.saves.map fun (x : Save) => if x.live then { x with reqs := x.reqs.map got } else x }

/-- Addresses of the lines that n bytes at an address touch. -/
def linesOf (pa n : Nat) : List Nat := (List.range ((pa % 128 + n + 127) / 128)).map fun i => (pa / 128 + i) * 128
/-- The home slices, or the home quay, that a request goes to: a copy goes to those of all its lines. -/
def State.homesOf (s : State) (r : Req) : List Nat :=
  match r.kind with
  | .copy dst _ _ n _ => (linesOf r.pa n ++ linesOf dst n).map s.home
  | .prefetch n => (linesOf r.pa n).map s.home
  | _ => [s.reqHome r]
/-- An earlier request of the same cell to a common home is still to be served (08 R194). -/
def State.behind (s : State) (r : Req) : Bool :=
  s.reqs.any fun x => x.id < r.id && x.cell == r.cell && !x.served && !x.arrived && !x.held && x.group.isNone &&
    (s.homesOf x).any fun h => (s.homesOf r).contains h

/-- Sectors that a request reads or writes. -/
def Req.sectors (r : Req) : List Nat :=
  match r.kind with
  | .read => sectorsOf r.pa 32
  | .write bytes => sectorsIn bytes
  | .atom _ dw _ _ => sectorsOf r.pa (if dw then 8 else 4)
  | .copy dst _ _ n _ => sectorsOf r.pa n ++ sectorsOf dst n
  | _ => []
/-- Another request of a cell, or an access of a pilot, is still to be served at a sector of this one, or something else may be at it. -/
def State.contended (s : State) (r : Req) : Bool :=
  s.traffic none || (s.reqs.any fun x => x.id != r.id && !x.served && !x.held && x.sectors.any fun a => r.sectors.contains a) ||
    s.pilots.any fun p => (p.2.stores.any fun x => (sectorsOf x.pa x.bytes.length).any fun a => r.sectors.contains a) ||
      (p.2.acc.toList ++ p.2.late.map (·.acc)).any fun x => (sectorsOf (x.pa / 128 * 128) 128).any fun a => r.sectors.contains a
/-- How many of the sectors still to serve are served now: a slice serves sectors one by one, and only each sector is served
whole (12 R287). Where nothing else is under way at them the requester sees no difference, and all are served (log 86). -/
def State.atOnce (s : State) (r : Req) (left : Nat) : Nat :=
  if s.contended r then max 1 (min left (Config.atOnce s.fresh)) else left

/-- The sector of a sector address, of listed bytes. -/
def bytesIn (a : Nat) (bytes : Tbl Byte) : Tbl Byte := bytes.filter fun b => b.1 / 16 * 16 == a

/-- Serves sectors of a request, and goes on in the next clk where some are left. -/
def State.serveSome (s : State) (r : Req) (total : Nat) (one : State → Nat → State) (fin : State → State) : State :=
  let n := s.atOnce r (total - r.done)
  let s0 := if s.contended r then { s with fresh := s.fresh + 1 } else s
  let s1 := (List.range n).foldl (fun t i => one t (r.done + i)) s0
  if r.done + n < total then (s1.modReq r.id fun x => { x with done := r.done + n }).at 1 clsOther r.id r.serveEv
  else fin s1

/-! A read that is served gives its sector to younger pending reads of its partition that join its merge group: unordered reads of quay
cells, and misses of LD of another pilot, if the hardware merges them (12 R291; log 12). -/

/-- A read of a quay cell that may still take a sector with an older read. -/
def Req.joins (r : Req) (part id sec : Nat) (key : BitVec 6) : Bool :=
  r.kind.isRead && !r.ord && !r.served && !r.held && r.group.isNone && r.key == key && r.vd / 8 == part && id < r.id &&
    (List.range 2).any (fun i => r.pa / 16 + i == sec && r.done ≤ i) && (tblGet? r.pre sec).isNone
/-- A miss of LD that may; none joins what was read before the pilot's own latest ordering. -/
def Pilot.joins (p : Pilot) (part id sec : Nat) (key : BitVec 6) : Bool :=
  p.acc.any fun a => (match a.what with | .load fill _ => fill | _ => false) && a.key == key && a.vd / 8 == part && id < a.id &&
    p.join ≤ id && a.pa / 128 == sec / 8 && (tblGet? a.pre sec).isNone
/-- The free value of one more read. -/
def State.ifMerged (s : State) (f : State → State) : State :=
  let s1 := { s with fresh := s.fresh + 1 }
  if Config.merges s.fresh then f s1 else s1
def State.shareRead (s : State) (part id sec : Nat) (key : BitVec 6) (v : BitVec 128) : State :=
  let s1 := (s.reqs.filter fun r => r.joins part id sec key).foldl (fun t r =>
    t.ifMerged fun t => t.modReq r.id fun x => { x with pre := tblPut x.pre sec v }) s
  (s1.pilots.filter fun p => p.2.joins part id sec key).foldl (fun t p =>
    t.ifMerged fun t => t.modPilot p.1 fun m => { m with acc := m.acc.map fun a => { a with pre := tblPut a.pre sec v } }) s1

/-- A sector of a read of 32 bytes, kept in the answer so far: the one it has with an older read, or the one that the slice serves. -/
def State.readSector (s : State) (r : Req) (i : Nat) : State :=
  let sec := r.pa / 16 + i
  let put (t : State) (v : BitVec 128) (bad : Bool) : State :=
    t.modReq r.id fun x => { x with ans := x.ans ||| ((v.setWidth 256) <<< (128 * i)), poison := x.poison || bad }
  match tblGet? r.pre sec with
  | some v => put s v false
  | none =>
    let v := s.read r.vd r.key r.pol (r.pa + 16 * i) 16
    let bad := s.poisonedAt (r.pa + 16 * i) 16
    let t := put v.2 (ofBytes 128 v.1) bad
    if bad then t else t.shareRead (r.vd / 8) r.id sec r.key (ofBytes 128 v.1)

/-- Serves a memory request (12 R287, R291; 08 R203 to R205). -/
def State.serveMem (s : State) (r : Req) : State :=
  match r.kind with
  | .read =>
    s.serveSome r 2 (fun t i => t.readSector r i) fun t =>
      match t.req? r.id with
      | some x => t.answer r.id x.ans x.poison
      | none => t
  | .write bytes =>
    let l := sectorsIn bytes
    s.serveSome r l.length
      (fun t i => (t.storeTbl r.key (bytesIn (l.getD i 0) bytes)).touchSector r.vd r.key r.pol true (l.getD i 0))
      fun t => t.answer r.id 0 false
  | .atom op dw v c =>
    if s.poisonedAt r.pa (if dw then 8 else 4) then s.answer r.id 0 true
    else
      let a := (s.shareRead (r.vd / 8) r.id (r.pa / 16) r.key (s.valAt 128 r.key (r.pa / 16 * 16) 16)).atomic r.vd r.key r.pol r.pa op dw v c
      a.2.answer r.id (a.1.setWidth 256) false
  | .copy dst dkey dpol n noAlloc =>
    s.serveSome r (n / 16) (fun t i => t.copySector r dst dkey (if noAlloc then 1 else dpol) i) fun t => t.answer r.id 0 false
  | .prefetch n =>
    let s1 := if r.pol = 0 then s.touch r.vd r.key 0 false r.pa n else s
    { s1 with reqs := s1.reqs.filter fun x => x.id != r.id }
  | _ => s

/-- Serves all that is left of a request at once: the bound of a halt (16 R364). -/
def State.serveRest (s : State) (r : Req) : State :=
  match r.kind with
  | .write bytes =>
    ((sectorsIn bytes).drop r.done).foldl (fun t a =>
      (t.storeTbl r.key (bytesIn a bytes)).touchSector r.vd r.key r.pol true a) s |>.answer r.id 0 false
  | .copy dst dkey dpol n noAlloc =>
    (((List.range (n / 16)).drop r.done).foldl (fun t i => t.copySector r dst dkey (if noAlloc then 1 else dpol) i) s).answer r.id 0
      false
  | _ => s.serveMem r

/-- A data error or a failed requirement: the cell stops, and the request waits for the restart (16 R362, R363, R373). -/
def State.reqFails (s : State) (r : Req) (cause detail : Byte) (value : DWord) (extra chan : Word) : State :=
  (s.modReq r.id fun x => { x with held := true, served := false, group := none, poison := false, ans := 0, done := 0, pre := [] }).stopCell r.cell cause
    detail r.slot value extra chan

/-- A copy leaves its quay's copy store (08 R204). -/
def State.copyEnd (s : State) (r : Req) : State :=
  match r.kind with
  | .copy _ _ _ n _ => s.modQuay (quayOf r.cell) fun q => { q with copyBytes := q.copyBytes - n }
  | _ => s

/-- A completed request leaves: its deferred results land at the end of the clk and it counts no more (08 R195). -/
def State.complete (s : State) (r : Req) : State :=
  let s1 := { s.copyEnd r with reqs := s.reqs.filter fun x => x.id != r.id }
  s1.modCell r.cell fun c =>
    let c0 := { c with lands := c.lands ++ r.res.map fun w => ⟨w.1, w.2.getD r.ans, false⟩ }
    let c1 := if r.kind.counted then c0.countIn r.ord (max 1 r.res.length) else c0
    match r.kind with
    | .chr _ => { c1 with chrBusy := false }
    | .chw _ _ true => { c1 with chwBusy := false }
    | _ => c1

/-- A request issued again at the frame that its page has now: no translation that a TLBINV removed meanwhile is used (09 R238,
12 R297). One whose page fails stops its cell once more. -/
def State.retranslate (s : State) (r : Req) : Option Req × State :=
  if !r.paged then (some r, s)
  else
    match s.translate (quayOf r.cell) r.vd true r.va (match r.kind with | .read => .r | _ => .w) with
    | (.ok f, s1) => (some { r with pa := f.pa r.va, key := f.key, pol := f.pol }, s1)
    | (.error e, s1) => (none, s1.reqFails r (BitVec.ofNat 8 e.1) (BitVec.ofNat 8 e.2) r.va 0 0)
/-- Requests held for a restart are issued again, in their order (16 R363, R367). -/
def State.reissue (s : State) (c : Nat) : State :=
  (s.reqs.filter fun r => r.cell == c && r.held).foldl (fun s r =>
    match s.retranslate r with
    | (none, s1) => s1
    | (some x, s1) =>
      let r1 := { x with
        held := false, arrived := false, since := s1.clk, ans := 0, poison := false, done := 0, pre := []
        lat := s1.askLat c ⟨x.kind, x.pa, x.va, x.key, x.pol, x.ord, x.paged⟩, todo := s1.asksTodo c x.vd x.kind x.pa x.key x.pol }
      (s1.modReq r.id fun _ => r1).reqNext r1) s

/-! What QFLS, QCMPL and HAND wait for (08 R208, R209). -/

/-- A request of a cell before a flush that it still waits for. -/
def Flush.waitsFor (f : Flush) (c : Nat) (r : Req) : Bool :=
  r.cell == c && r.id < f.upTo && (match f.kind with
    | .all => r.kind.counted
    | _ => r.kind.isStore)
def State.flushReady (s : State) (c : Nat) (f : Flush) : Bool :=
  !(s.reqs.any fun r => f.waitsFor c r)

end Sys2Proof.Machine
end

