-- ==== Sys2Proof/Machine/PilotMem.lean ====
section
/-! DEFINITION. A pilot's fetch, loads, stores, atomics and fences (09 R231 to R235). -/

namespace Sys2Proof.Machine

/-- The quay whose unit translates for a pilot: the north one, or the south one when it is fused (16 R372). -/
def State.pilotQuay (s : State) (p : Nat) : Nat := if s.host.fused.contains (2 * p) then 2 * p + 1 else 2 * p
def State.pilotVd (s : State) (p : Nat) : Nat := 8 * ((s.partOf p).getD 0) + bf (s.pilot p).vdid 0 3

/-- What a pilot has of a translation in its turn. -/
inductive Got where
  | ok (f : Frame)
  | bad
  | wait

/-- A pilot's translation begins: user mode requires U (09 R231). A walk is waited for. -/
def State.pbegin (s : State) (p : Nat) (va : DWord) (acc : Acc) : Got × State :=
  let q := s.pilotQuay p
  let user := !(s.pilot p).sup
  match s.begin q (s.pilotVd p) user va acc with
  | .done (.ok f) => (.ok f, s)
  | .done (.error _) => (.bad, s)
  | .walk t k =>
    (.wait, (s.modPilot p fun m => { m with walk := some ⟨s.seqNo, va, acc, .running⟩ }).walkStart q (.pilot p) (s.pilotVd p) user va
      acc t k)

/-- A pilot's translation: the end of the walk it waits for, or its beginning. -/
def State.ptrans (s : State) (p : Nat) (va : DWord) (acc : Acc) : Got × State :=
  match (s.pilot p).walk with
  | some ⟨_, va', acc', st⟩ =>
    if va' = va ∧ acc' = acc then
      match st with
      | .running => (.wait, s)
      | .ok f => (.ok f, s.modPilot p fun m => { m with walk := none })
      | .fail _ _ => (.bad, s.modPilot p fun m => { m with walk := none })
    else s.pbegin p va acc
  | none => s.pbegin p va acc

/-- A pilot goes offline: SYS HALT, or a poisoned sector read (09 R236, 16 R373). -/
def State.offline (s : State) (p : Nat) : State :=
  s.modPilot p fun q => { q with online := false, wait := .no, ans := none, walk := none, acc := none, late := [] }

/-! The L1 caches, by lines of 128 bytes (09 R232; log 11). -/

/-- The 16 bytes of a line from an address on. -/
def inLine (v : BitVec 1024) (pa : Nat) : BitVec 128 := (v >>> (8 * (pa % 128))).setWidth 128

/-- A cache with a line filled; a full one gives up a line for it. -/
def l1Fill (t : Tbl (BitVec 1024)) (line : Nat) (v : BitVec 1024) (pick : Nat) : Tbl (BitVec 1024) :=
  let t1 := tblDel t line
  tblPut (if t1.length < Config.l1Lines then t1 else tblDel t1 (t1.getD (pick % Config.l1Lines) (0, 0)).1) line v

/-- A line of the L1, if the L1 still holds it. -/
def State.l1Get (s : State) (t : Tbl (BitVec 1024)) (line : Nat) : Option (BitVec 1024) × State :=
  match tblGet? t line with
  | some v => (if Config.l1Keeps s.fresh then some v else none, { s with fresh := s.fresh + 1 })
  | none => (none, s)

/-- The line of an address at its home slices, if no sector of it is poisoned (log 11). -/
def State.lineAt (s : State) (key : BitVec 6) (pa : Nat) : Option (BitVec 1024) :=
  if s.poisonedAt (pa / 128 * 128) 128 then none else some (s.valAt 1024 key (pa / 128 * 128) 128)

/-- A line with bytes replaced. -/
def patch (v : BitVec 1024) (off : Nat) (bs : List Byte) : BitVec 1024 :=
  let m : BitVec 1024 := (ofBytes 1024 (List.replicate bs.length 0xFF)) <<< (8 * off)
  (v &&& ~~~m) ||| ((ofBytes 1024 bs) <<< (8 * off))
/-- A cache's copy of a line, if present, follows a store (09 R232). -/
def l1Store (t : Tbl (BitVec 1024)) (pa : Nat) (bs : List Byte) : Tbl (BitVec 1024) :=
  match tblGet? t (pa / 128) with
  | some v => tblPut t (pa / 128) (patch v (pa % 128) bs)
  | none => t

/-! Accesses on their way to the home slice, and their answers (09 R232 to R234, 14 R326). -/

/-- The least time of an access of a pilot. -/
def State.pilotLat (s : State) (p : Nat) (f : Frame) (pa : Nat) : Nat :=
  memLat (s.pilotQuay p) (s.home pa) (s.resident (s.pilotVd p) f.key pa)

/-- An access of n bytes is sent; the slice serves it a clk before its answer is due. -/
def State.sendAcc (s : State) (p : Nat) (f : Frame) (pa n : Nat) (id : Nat) : State :=
  s.sendTo (s.pilotQuay p) (s.pilotVd p) rankPilot f.key f.pol pa n (s.pilotLat p f pa - 1) p (.pilotAccessComplete (p, id))

/-- A fetch, a load or an atomic is under way: of n bytes, or of the whole line. -/
def State.pilotAsk (s : State) (p : Nat) (f : Frame) (pa n : Nat) (what : PDo) (w : PWait) : State :=
  let s1 := s.modPilot p fun m => { m with acc := some ⟨s.seqNo, pa, f.key, f.pol, s.pilotVd p, what, []⟩, wait := w }
  { s1 with seqNo := s.seqNo + 1 }.sendAcc p f (if n = 128 then pa / 128 * 128 else pa) n s.seqNo

/-- Earlier stores of a pilot to the home of an address are still to be served (09 R234). -/
def State.storesBefore (s : State) (p id pa : Nat) : Bool :=
  (s.pilot p).stores.any fun x => x.id < id && s.home x.pa == s.home pa

/-- The answer of an access: the pilot goes on in its next turn. -/
def State.gives (s : State) (p : Nat) (w : PWait) : State := s.modPilot p fun m => { m with acc := none, wait := w }

/-- The sector of an older read, still pending, that a load joins if the hardware merges it (12 R291; log 12). -/
def State.joined (s : State) (p : Nat) (a : PAcc) : Option (BitVec 128) :=
  match s.reqs.find? fun r => r.kind.isRead && r.served && !r.held && !r.poison && r.key == a.key && r.vd / 8 == a.vd / 8 && r.id < a.id &&
      (s.pilot p).join ≤ r.id && (r.pa / 16 == a.pa / 16 || r.pa / 16 + 1 == a.pa / 16) with
  | some r => if Config.merges s.fresh then some (r.ans.extractLsb' (128 * (a.pa / 16 - r.pa / 16)) 128) else none
  | none => none

/-- A line with one sector replaced. -/
def withSector (v : BitVec 1024) (pa : Nat) (x : BitVec 128) : BitVec 1024 := patch v (pa / 16 * 16 % 128) ((List.range 16).map fun i => x.extractLsb' (8 * i) 8)

/-- A line with the sectors of it that an access has already. -/
def PAcc.over (a : PAcc) (v : BitVec 1024) : BitVec 1024 := a.pre.foldl (fun v x => withSector v (16 * x.1) x.2) v
/-- An access that fills a line of an L1. -/
def PAcc.fills (a : PAcc) : Bool :=
  match a.what with
  | .fetch => true
  | .load fill _ => fill
  | .amo _ _ _ _ => false

/-- A fill takes some sectors of its line before the others, where anything else may be at them: lines fill sector by sector, so that the
sectors of a line in the L1 may differ in age (12 R295; log 86). -/
def State.gathers (s : State) (p : Nat) (a : PAcc) : Bool :=
  a.fills && a.pre.length < 7 && (s.traffic (some p) || !s.reqs.isEmpty) && Config.fillSplit s.fresh
def State.gather (s : State) (p : Nat) (a : PAcc) : State :=
  let left := ((List.range 8).map fun i => a.pa / 128 * 8 + i).filter fun k => (tblGet? a.pre k).isNone && !s.poisonedAt (16 * k) 16
  let first := left.filter fun k => bit (Config.fillFirst s.fresh) (k % 8)
  let now := if first.isEmpty then left.take 1 else first
  let s1 := now.foldl (fun t k => t.touchSector a.vd a.key a.pol false (16 * k)) { s with fresh := s.fresh + 1 }
  s1.modPilot p fun m => { m with acc := some { a with pre := now.foldl (fun t k => tblPut t k (s.valAt 128 a.key (16 * k) 16)) a.pre } }

/-- What a load of a sector that is not poisoned reads, now or with an older read; LD fills the L1 with the line. -/
def State.loadNow (s : State) (p : Nat) (a : PAcc) (fill : Bool) (n : Nat) : BitVec 128 × State :=
    let own : BitVec 128 := s.valAt 128 a.key (a.pa / 16 * 16) 16
    let x := if fill then (tblGet? a.pre (a.pa / 16)).getD ((s.joined p a).getD own) else own
    let s0 := s.shareRead (a.vd / 8) a.id (a.pa / 16) a.key x
    let s1 := if fill then s0.touch a.vd a.key a.pol false (a.pa / 128 * 128) 128 else s0.touch a.vd a.key a.pol false a.pa n
    let s2 := if fill then
        { s1 with fresh := s1.fresh + 1 }.modPilot p fun m => { m with l1d := match s.lineAt a.key a.pa with
          | some v => l1Fill m.l1d (a.pa / 128) (withSector (a.over v) a.pa x) (Config.l1Victim s1.fresh)
          | none => tblDel m.l1d (a.pa / 128) }
      else s1
    (x >>> (8 * (a.pa % 16)), s2)
/-- A load served. -/
def State.serveLoad (s : State) (p : Nat) (a : PAcc) (fill : Bool) (n : Nat) : State :=
  if s.poisonedAt a.pa n then s.offline p
  else
    let r := s.loadNow p a fill n
    r.2.gives p (.got (s.clk + 1) r.1)
/-- A load that the pilot has gone on past served: the result waits for the pilot's turn. -/
def State.serveLate (s : State) (p : Nat) (a : PAcc) : State :=
  match a.what with
  | .load fill n =>
    if s.poisonedAt a.pa n then s.offline p
    else
      let r := s.loadNow p a fill n
      r.2.modPilot p fun m => { m with late := m.late.map fun x => if x.acc.id = a.id then { x with val := some (s.clk + 1, r.1) } else x }
  | _ => s

/-- A fetch served: the word, and the line in the L1 instruction cache. -/
def State.serveFetch (s : State) (p : Nat) (a : PAcc) : State :=
  if s.poisonedAt a.pa 4 then s.offline p
  else
    let s1 := { s with fresh := s.fresh + 1 }.touch a.vd a.key a.pol false (a.pa / 128 * 128) 128
    (s1.modPilot p fun m => { m with l1i := match s.lineAt a.key a.pa with
      | some v => l1Fill m.l1i (a.pa / 128) (a.over v) (Config.l1Victim s.fresh)
      | none => tblDel m.l1i (a.pa / 128) }).gives p (.fetched ((inLine (a.over (s.valAt 1024 a.key (a.pa / 128 * 128) 128)) a.pa).setWidth 32))

/-- An atomic served; the pilot's own copy of the line goes (09 R233). -/
def State.serveAmo (s : State) (p : Nat) (a : PAcc) (op : Aop) (dw : Bool) (v c : DWord) : State :=
  if s.poisonedAt a.pa (if dw then 8 else 4) then s.offline p
  else
    let r := (s.shareRead (a.vd / 8) a.id (a.pa / 16) a.key (s.valAt 128 a.key (a.pa / 16 * 16) 16)).atomic a.vd a.key a.pol a.pa op dw v c
    (r.2.modPilot p fun m => { m with l1d := tblDel m.l1d (a.pa / 128) }).gives p (.got (s.clk + 1) (r.1.setWidth 128))

/-- The access of a pilot that is under way served. -/
def State.serveAcc (s : State) (p : Nat) (a : PAcc) : State :=
  match a.what with
  | .fetch => s.serveFetch p a
  | .load fill n => s.serveLoad p a fill n
  | .amo op dw v c => s.serveAmo p a op dw v c

/-- The home slice performs a store. -/
def State.perform (s : State) (x : PStore) : State := s.write x.vd x.key x.pol x.pa x.bytes

/-- Stores before a number are acknowledged. -/
def Pilot.acked (p : Pilot) (upTo : Nat) : Bool := p.stores.all fun x => upTo ≤ x.id

/-- A pilot waits: its instruction executes again in its next turn. -/
def State.waits (s : State) (w : PWait) : State := s.modMe fun m => { m with wait := w }

/-! Fetch (09 R224, R235). -/

/-- What a pilot has of the word at its pc in its turn. -/
inductive Fetched where
  | word (w : Word)
  | fault
  | wait

/-- The word at the pc: from the L1 instruction cache while it holds it (log 11), or from the home slice. -/
def State.fetch (s : State) (p : Nat) : Fetched × State :=
  let pc := (s.pilot p).pc
  match s.ptrans p pc .x with
  | (.bad, s1) => (.fault, s1)
  | (.wait, s1) => (.wait, s1.modPilot p fun m => { m with wait := .fetch })
  | (.ok f, s1) =>
    match s1.l1Get (s1.pilot p).l1i (f.pa pc / 128) with
    | (some v, s2) => (.word ((inLine v (f.pa pc)).setWidth 32), s2)
    | (none, s2) => (.wait, s2.pilotAsk p f (f.pa pc) 128 .fetch .fetching)

/-! Sizes (03 R81). -/

def szBytes : MemSz → Nat
  | .b => 1 | .bu => 1 | .h => 2 | .hu => 2 | .w => 4 | .wu => 4 | .d => 8 | .q => 16

/-- A loaded value extended as the size says. -/
def szExt (z : MemSz) (v : BitVec 128) : DWord :=
  match z with
  | .b => (v.setWidth 8).signExtend 64
  | .bu => (v.setWidth 8).setWidth 64
  | .h => (v.setWidth 16).signExtend 64
  | .hu => (v.setWidth 16).setWidth 64
  | .w => (v.setWidth 32).signExtend 64
  | .wu => (v.setWidth 32).setWidth 64
  | .d => v.setWidth 64
  | .q => v.setWidth 64

/-- The second register of a 16-byte access. -/
def regHi (d : Fin 32) : Fin 32 := Fin.ofNat 32 (d.val + 1)

/-- The effective address (09 R231). -/
def State.ea (s : State) (o : OpMem) : DWord := s.g o.a + o.o.signExtend 64

/-- The end of a load: the value into gd, and gd + 1 for 16 bytes. -/
def Pilot.loadRegs (m : Pilot) (d : Fin 32) (z : MemSz) (v : BitVec 128) : Pilot :=
  let m1 := m.setReg d (szExt z v)
  if z = .q then m1.setReg (regHi d) ((v >>> 64).setWidth 64) else m1
def State.loaded (s : State) (o : OpMem) (v : BitVec 128) : State := s.modMe fun m => (m.loadRegs o.d o.z v).next

/-- A load in its turn: the checks in the order of 09 R231, then the access, then the end. -/
def State.load (s : State) (o : OpMem) (k : State → Frame → Nat → State) : Out :=
  let va := s.ea o
  match s.me.wait with
  | .got till v => if till ≤ s.clk then .next (s.loaded o v) else .next s
  | .mem => .next s
  | _ =>
    if va.toNat % szBytes o.z ≠ 0 then .next (s.trap 4 va)
    else
      match s.ptrans s.curPilot va .r with
      | (.bad, s1) => .next (s1.trap 6 va)
      | (.wait, s1) => .next (s1.waits .walk)
      | (.ok f, s1) => .next (k s1 f (f.pa va))

/-- LD: the L1 while it holds the line, else the home slice (09 R232, log 11). -/
def State.ldAccess (o : OpMem) (s : State) (f : Frame) (pa : Nat) : State :=
  match s.l1Get s.me.l1d (pa / 128) with
  | (some v, s1) => s1.waits (.got (s.clk + Config.l1Clk - 1) (inLine v pa))
  | (none, s1) => s1.pilotAsk s.curPilot f pa 128 (.load true (szBytes o.z)) .mem
/-- LDX: the home slice. -/
def State.ldxAccess (o : OpMem) (s : State) (f : Frame) (pa : Nat) : State :=
  s.pilotAsk s.curPilot f pa (szBytes o.z) (.load false (szBytes o.z)) .mem

def execLd (o : OpMem) (s : State) : Out := s.load o (State.ldAccess o)
def execLdx (o : OpMem) (s : State) : Out := s.load o (State.ldxAccess o)

/-- The bytes a store writes. -/
def State.stBytes (s : State) (o : OpMem) : List Byte :=
  if o.z = .q then toBytes (s.g o.d) 8 ++ toBytes (s.g (regHi o.d)) 8 else toBytes (s.g o.d) (szBytes o.z)

/-- A store is sent; the home slice acknowledges it later (09 R232). -/
def State.sendStore (s : State) (f : Frame) (pa : Nat) (bs : List Byte) : State :=
  let s1 := s.modMe fun m =>
    { m with stores := m.stores ++ [⟨s.seqNo, pa, f.key, f.pol, s.myVd, bs⟩], l1d := l1Store m.l1d pa bs, join := s.seqNo }
  { s1 with seqNo := s.seqNo + 1 }.sendAcc s.curPilot f pa bs.length s.seqNo

/-- A load that the pilot has gone on past is still to read the line of an address. -/
def Pilot.lateAt (m : Pilot) (pa : Nat) : Bool := m.late.any fun x => x.val.isNone && x.acc.pa / 128 == pa / 128
/-- ST. A store after a FENCE.REL is sent once every store before the fence is acknowledged (09 R235), and one to the line of an earlier
load once that has read it (09 R234). -/
def execSt (o : OpMem) (s : State) : Out :=
  let va := s.ea o
  if va.toNat % szBytes o.z ≠ 0 then .next (s.trap 5 va)
  else
    match s.ptrans s.curPilot va .w with
    | (.bad, s1) => .next (s1.trap 7 va)
    | (.wait, s1) => .next (s1.waits .walk)
    | (.ok f, s1) =>
      if s.me.acked s.me.rel && !s.me.lateAt (f.pa va) then .next ((s1.sendStore f (f.pa va) (s.stBytes o)).modMe Pilot.next)
      else .next (s1.waits .again)

/-- The result of an AMO in gd: sign-extended for 32 bits, except a bit test (09 R233). -/
def amoRes (o : OpAmo) (r : DWord) : DWord :=
  if o.dw || o.op == .tas then r else (r.setWidth 32).signExtend 64

/-- AMO in its turn: the checks, the access, and the end. With .rel it is sent once every earlier store is acknowledged. -/
def execAmo (o : OpAmo) (s : State) : Out :=
  let va := s.g o.a
  let n := if o.dw then 8 else 4
  match s.me.wait with
  | .got till v =>
    if till ≤ s.clk then
      let s1 := if o.acq then s.modMe fun m => { m with l1d := [], join := s.seqNo } else s.modMe fun m => { m with join := s.seqNo }
      .next (s1.ret o.d (amoRes o (v.setWidth 64)))
    else .next s
  | .mem => .next s
  | _ =>
    if va.toNat % n ≠ 0 then .next (s.trap 5 va)
    else
      match s.ptrans s.curPilot va .w with
      | (.bad, s1) => .next (s1.trap 7 va)
      | (.wait, s1) => .next (s1.waits .walk)
      | (.ok f, s1) =>
        if s.me.acked (if o.rel then s.seqNo else s.me.rel) then
          .next (s1.pilotAsk s.curPilot f (f.pa va) n (.amo o.op o.dw (s.g o.b) (s.g o.d)) .mem)
        else .next (s1.waits .again)

/-! Loads that complete out of program order (09 R234, 12 R297; log 59). -/

/-- Registers of a load's result. -/
def lateRegs (d : Fin 32) (z : MemSz) : List (Fin 32) := if z = .q then [d, regHi d] else [d]
/-- The registers that an instruction reads or writes, of those that need not wait for every earlier load. -/
def pilotUses (i : Instr) : Option (List (Fin 32)) :=
  match i with
  | .aluAdd o | .aluSub o | .aluAnd o | .aluOr o | .aluXor o | .aluAndn o | .aluSll o | .aluSrl o | .aluSra o | .aluSlt o | .aluSltu o
  | .aluMin o | .aluMax o | .aluMinu o | .aluMaxu o | .aluMul o | .aluMulh o | .aluMulhu o | .aluDiv o | .aluDivu o | .aluRem o | .aluRemu o =>
    some [o.d, o.a, o.b]
  | .aluClz o | .aluCtz o | .aluPopc o => some [o.d, o.a]
  | .addi o | .andi o | .ori o | .xori o | .slti o | .sltiu o => some [o.d, o.a]
  | .shi o => some [o.d, o.a]
  | .lui o | .adpc o => some [o.d]
  | .beq o | .bne o | .blt o | .bge o | .bltu o | .bgeu o => some [o.a, o.b]
  | .jal o => some [o.d]
  | .jalr o => some [o.d, o.a]
  | .ld o | .ldx o | .st o => some (o.a :: lateRegs o.d o.z)
  | _ => none
/-- An instruction waits for the loads that the pilot has gone on past: for one whose register it uses, or, as a fence, an atomic, a
command and an instruction of the system do, for all of them. -/
def Pilot.waitsLate (m : Pilot) (i : Instr) : Bool :=
  !m.late.isEmpty && match pilotUses i with
    | some l => m.late.any fun x => (lateRegs x.d x.z).any fun d => l.contains d
    | none => true
/-- The results that have come reach their registers. -/
def State.retire (s : State) (p : Nat) : State :=
  if (s.pilot p).late.isEmpty then s
  else
    let has (x : PLate) : Bool := x.val.any fun v => v.1 ≤ s.clk
    s.modPilot p fun m =>
      { (m.late.filter has).foldl (fun m x => m.loadRegs x.d x.z ((x.val.map (·.2)).getD 0)) m with late := m.late.filter fun x => !has x }
/-- A pilot goes on past the load that it waits in. -/
def State.runOn (s : State) (p : Nat) (o : OpMem) : State :=
  s.modPilot p fun m =>
    match m.acc with
    | some a => ({ m with acc := none, wait := .no, late := m.late ++ [⟨a, o.d, o.z, none⟩] } : Pilot).next
    | none => m

/-! Fences (09 R235). A pilot's loads and atomics end before a fence begins, so FENCE.ACQ has only the L1 to invalidate, and FENCE.REL only
marks the stores that later ones wait for. -/

/-- The L1 data cache invalidated; later loads join no earlier read. -/
def Pilot.acquire (p : Pilot) (now : Nat) : Pilot := { p with l1d := [], join := now }
def execFenceAcq (s : State) : Out := .next (s.modMe fun m => (m.acquire s.seqNo).next)
def execFenceRel (s : State) : Out := .next (s.modMe fun m => { m with rel := s.seqNo }.next)
/-- FENCE.FULL waits until every earlier store is acknowledged. -/
def execFenceFull (s : State) : Out :=
  if s.me.stores.isEmpty then .next (s.modMe fun m => (m.acquire s.seqNo).next) else .next (s.waits .again)
/-- FENCE.IO also waits for every asynchronous command. -/
def execFenceIo (s : State) : Out :=
  if s.me.stores.isEmpty && s.me.async.isEmpty then
    .next (s.modMe fun m => { m.acquire s.seqNo with l1i := [] }.next)
  else .next (s.waits .again)

end Sys2Proof.Machine
end

