-- ==== Sys2Proof/Machine/PilotSys.lean ====
section
/-! DEFINITION. A pilot's CSRs, traps and system instructions (09 R221 to R227, R236, R238). -/

namespace Sys2Proof.Machine

/-! The event queue's registers (09 R223, R249). -/

/-- Entries of the queue. -/
def evqEntries (base : DWord) : Nat := 2 ^ (min (bf base 0 4) 11 + 4)
def evqAddr (base : DWord) : Nat := bf base 12 40 * 4096
/-- Physical address of record i of a queue. -/
def recAddr (base : DWord) (i : Word) : Nat := evqAddr base + 32 * (i.toNat % evqEntries base)
/-- Records in a pilot's queue. -/
def Pilot.evqCount (p : Pilot) : Nat := (p.evqtail - p.evqhead).toNat
/-- The event interrupt is pending (09 R226). -/
def Pilot.evPending (p : Pilot) : Bool := p.evqhead != p.evqtail
/-- It is taken before the next instruction. -/
def Pilot.evTaken (p : Pilot) : Bool := p.evPending && (!p.sup || bit p.status 1)

/-- Writable bits of status and of evqbase (09 R222, R249). -/
def statusMask : DWord := 0x303
def evqbaseMask : DWord := 0x000FFFFFFFFFF00F

/-- The value a CSR reads as (09 R221). -/
def State.csrGet (s : State) (n : Nat) : DWord :=
  let p := s.me
  if n = 0x100 then p.status else if n = 0x101 then p.cause else if n = 0x102 then p.epc else if n = 0x103 then p.tval
  else if n = 0x104 then p.tvec else if n = 0x105 then p.scratch else if n = 0x200 then p.evqbase
  else if n = 0x201 then p.evqhead.setWidth 64 else if n = 0x202 then p.evqtail.setWidth 64
  else if n = 0x300 then p.vdid.setWidth 64 else if n = 0x301 then BitVec.ofNat 64 s.myPart else p.cycles

/-- A write to a writable CSR (09 R221 to R223). -/
def Pilot.csrPut (p : Pilot) (n : Nat) (v : DWord) : Pilot :=
  if n = 0x100 then { p with status := v &&& statusMask }
  else if n = 0x101 then { p with cause := v }
  else if n = 0x102 then { p with epc := v &&& ~~~3#64 }
  else if n = 0x103 then { p with tval := v }
  else if n = 0x104 then { p with tvec := v &&& ~~~3#64 }
  else if n = 0x105 then { p with scratch := v }
  else if n = 0x200 then { p with evqbase := v &&& evqbaseMask, evqhead := p.evqtail }
  else if n = 0x201 then
    let h : Word := v.setWidth 32
    { p with evqhead := if evqEntries p.evqbase < (p.evqtail - h).toNat then p.evqtail else h }
  else if n = 0x202 then
    if p.evqhead = p.evqtail then { p with evqhead := v.setWidth 32, evqtail := v.setWidth 32 } else p
  else p

/-- Readable in user mode; read-only (09 R221). -/
def csrUser (n : Nat) : Bool := n == 0x300 || n == 0x400
def csrRo (n : Nat) : Bool := n == 0x300 || n == 0x301 || n == 0x400

/-- Illegal instruction with the instruction's own word (09 R224). -/
def State.illegalI (s : State) (i : Instr) : Out := .next (s.illegal ((encode i).getD 0))

def execCsrRd (o : OpCsrR) (s : State) : Out :=
  if s.me.sup || csrUser o.c.toNat then .next (s.ret o.d (s.csrGet o.c.toNat)) else s.illegalI (.csrRd o)

/-- The writing kinds (09 R223). -/
def State.csrWrite (s : State) (i : Instr) (o : OpCsrW) (f : DWord → DWord → DWord) : Out :=
  if s.me.sup && !csrRo o.c.toNat then
    .next (s.modMe fun m => (m.csrPut o.c.toNat (f (s.csrGet o.c.toNat) (s.g o.a))).next)
  else s.illegalI i
def execCsrWr (o : OpCsrW) (s : State) : Out := s.csrWrite (.csrWr o) o fun _ v => v
def execCsrSet (o : OpCsrW) (s : State) : Out := s.csrWrite (.csrSet o) o fun x v => x ||| v
def execCsrClr (o : OpCsrW) (s : State) : Out := s.csrWrite (.csrClr o) o fun x v => x &&& ~~~v

/-! System instructions (09 R236). -/

def execSysTrap (o : OpRA) (s : State) : Out := .next (s.trap (if s.me.sup then 0xA else 9) (s.g o.a))

/-- An instruction of supervisor mode: illegal in user mode, before any effect. -/
def State.priv (s : State) (i : Instr) (k : Out) : Out := if s.me.sup then k else s.illegalI i

def execSysEret (s : State) : Out := s.priv .sysEret (.next (s.modMe Pilot.eret))

/-- The end of a wait: the pc moves on. -/
def Pilot.done (p : Pilot) : Pilot := { p.next with woke := false }

/-- WFE: ends at once while the event interrupt is pending; else waits for an occurrence, its limit among them. -/
def execSysWfe (s : State) : Out :=
  let m := s.me
  if m.evPending then .next (s.modMe Pilot.done)
  else
    match m.wait with
    | .wfe _ => if m.woke then .next (s.modMe Pilot.done) else .next s
    | _ => .next (s.modMe fun m => { m with wait := .wfe (s.clk + Config.wfeClk - 1), woke := false })

def execSysIdle (s : State) : Out :=
  s.priv .sysIdle
    (if s.me.evPending then .next (s.modMe Pilot.done) else .next (s.modMe fun m => { m with wait := .idle }))

/-- SYS HALT: waits for every store and asynchronous command. -/
def execSysHalt (s : State) : Out :=
  s.priv .sysHalt
    (if s.me.stores.isEmpty && s.me.async.isEmpty then .next (s.offline s.curPilot) else .next (s.waits .again))

/-! TLBINV (09 R238). -/

/-- A TLB entry that TLBINV removes. -/
def Tlb.goes (vd : Nat) (va : DWord) (all glob : Bool) (e : Tlb) : Bool :=
  e.vd == vd && (all || Tlb.hit vd va e) && (glob || !bit e.pte 5)

/-- A removed entry covers a granule. -/
def Tlb.covers (e : Tlb) (va : DWord) : Bool := e.vpn == bf va (leafBits e.level) (55 - leafBits e.level)

/-- Granule of an entry's source. -/
def Fw.granule (e : Fw) : Option DWord :=
  match e.src with
  | .page v => some (granuleVa v 0)
  | _ => none

/-- A page entry of the frame window goes with the translations of `gone`. `tlb` is the buffer before. An entry whose
translation the buffer no longer holds goes when it may have come from a leaf that maps the address (log 25). -/
def Fw.goes (e : Fw) (vd : Nat) (va : DWord) (all : Bool) (tlb gone : List Tlb) : Bool :=
  match e.granule with
  | none => false
  | some g =>
    gone.any (fun t => t.covers g) ||
      (!(tlb.any fun t => t.vd == vd && t.covers g) && (all || vaIndex g 2 == vaIndex va 2))

/-- The cell without what was made from removed translations: its window entries, and its finished translation. -/
def Cell.unmap (c : Cell) (vd : Nat) (va : DWord) (all : Bool) (tlb gone : List Tlb) : Cell :=
  { c with
    fw := c.fw.map fun e => if e.goes vd va all tlb gone then { e with valid := false } else e
    trans := match c.trans with
      | some ⟨_, .ok _⟩ => none
      | x => x }

/-- Walks of a virtual device start again from the root at their next reply. -/
def State.rewalk (s : State) (q vd : Nat) : State :=
  s.modQuay q fun u => { u with walks := u.walks.map fun w => if w.vd = vd then { w with level := 3, old := none } else w }

/-- A translation that a pilot's walk has given it and that it has not yet used. -/
def Pilot.unmap (p : Pilot) : Pilot :=
  { p with walk := match p.walk with
      | some ⟨_, _, _, .ok _⟩ => none
      | x => x }

/-- Removes the translations at one quay and its cells. -/
def State.tlbinvQuay (s : State) (vd : Nat) (va : DWord) (all glob : Bool) (q : Nat) : State :=
  let tlb := (s.quay q).tlb
  let gone := tlb.filter (Tlb.goes vd va all glob)
  let s1 := s.modQuay q fun u => { u with tlb := u.tlb.filter fun e => !Tlb.goes vd va all glob e }
  ((List.range 8).map fun col => q / 2 * 1024 + col * 128 + (if q % 2 = 1 then 127 else 126)).foldl (fun s c =>
    if (tblGet? s.cells c).isSome && s.cellVd c == vd then (s.coalSendAll c).modCell c fun x => x.unmap vd va all tlb gone else s)
    ((s1.rewalk q vd).modPilot (q / 2) fun p => if s.pilotQuay (q / 2) = q ∧ s.pilotVd (q / 2) = vd then p.unmap else p)

/-- Quays of a partition. -/
def State.quaysOf (s : State) (part : Nat) : List Nat :=
  (s.stripsOf part).flatMap fun t => [2 * t, 2 * t + 1]

/-- An access of a virtual device that a TLBINV waits for: of a cell, or of a pilot. -/
def State.tlbinvWaits (s : State) (upTo vd : Nat) : Bool :=
  (s.reqs.any fun r => r.id < upTo && r.vd == vd && !r.held && r.kind.isChan.isNone) ||
    s.pilots.any fun p => (p.2.stores.any fun x => x.id < upTo && x.vd == vd) || (p.2.acc.toList ++ p.2.late.map (·.acc)).any fun x => x.id < upTo && x.vd == vd

/-- What was held for a TLBINV of a virtual device is tried again: basin accesses and parked rows (11 R277, 16 R369). -/
def State.tlbinvEnd (s : State) (vd : Nat) : State :=
  let s1 := (s.quaysOf (vd / 8)).foldl (fun (s : State) q =>
    (s.quay q).chans.foldl (fun (s : State) (c : Nat × Chan) =>
      if c.2.paused && c.2.vd == vd % 8 then s.at 1 clsOther (64 * q + c.1) (.basinAccessReissue (64 * q + c.1)) else s) s) s
  s1.ports.foldl (fun (s : State) (p : Nat × SwPort) => if p.2.parked.isEmpty then s else s.at 1 clsOther p.1 (.parkedRowRetry (p.1, vd))) s1

def execSysTlbinv (o : OpRAB) (s : State) : Out :=
  s.priv (.sysTlbinv o)
    (match s.me.wait with
     | .tlbinv n vd =>
       if s.tlbinvWaits n vd then .next s else .next ((s.tlbinvEnd vd).modMe Pilot.done)
     | _ =>
       let b := s.g o.b
       let vd := 8 * s.myPart + bf b 0 3
       let s2 := (s.quaysOf s.myPart).foldl (fun (t : State) q => t.tlbinvQuay vd (s.g o.a) (bit b 3) (bit b 4) q) s
       .next (s2.modMe fun m => { m with wait := .tlbinv s2.seqNo vd }))

end Sys2Proof.Machine
end

