-- ==== Sys2Proof/Machine/QuayOps.lean ====
section
/-! DEFINITION. Quay instructions on memory: loads, stores, streams, berth-way words, atomics, copies, translation,
ownership and flushes (08 R190 to R209). -/

namespace Sys2Proof.Machine

/-! Frame handles (08 R190) and the checks of an access (08 R193). -/

def hOff (h : Word) : Nat := bf h 0 16
def hIdx (h : Word) : Fin 16 := Fin.ofNat 16 (bf h 16 4)
def hOrd (h : Word) : Bool := bit h 30
def hFault (h : Word) : Bool := bit h 31

/-- The outcome of an access's checks: the physical address and the entry; what the slot waits for; or a stop. -/
inductive Chk where
  | ok (pa : Nat) (e : Fw)
  | wait (what : TransFor)
  | bad (cause detail : Nat) (value : DWord) (extra : Word)
  deriving DecidableEq, Repr

/-- An access: the offset, the access size, the bytes the bounds cover, and the permissions (08 R193, R204). -/
structure Span where
  t : Nat
  z : Nat
  n : Nat
  r : Bool
  w : Bool
  deriving DecidableEq, Repr

/-- The virtual address of an access through a page entry (16 R360). -/
def Fw.va (e : Fw) (t : Nat) : DWord :=
  match e.src with
  | .page v => granuleVa v t
  | _ => 0

/-- Page tables gave the frame of an entry. -/
def Fw.paged (e : Fw) : Bool :=
  match e.src with
  | .page _ => true
  | _ => false

/-- The value field of a stop: the address, or the handle for a block entry (16 R360). -/
def Fw.value (e : Fw) (h : Word) (t : Nat) : DWord :=
  match e.src with
  | .page v => granuleVa v t
  | _ => h.setWidth 64

/-- A descriptor covers a virtual address (08 R206). -/
def descCovers (d : BitVec 64) (va : DWord) : Bool :=
  bf d 0 39 ≤ (vframeOf va).toNat && (vframeOf va).toNat ≤ bf d 0 39 + bf d 39 24

/-- The ownership check of 08 R207. -/
def State.ownOk (s : State) (c : Nat) (va : DWord) : Bool :=
  !((s.cellRegion c).own.any fun d => descCovers d.2.2 va) ||
    (s.cell c).owned.toList.any fun d => bit d 63 && descCovers d va

/-- The block number that causes 0x17 and 0x18 report (16 R361). -/
def blkExtra (cause : Nat) (blk : Word) : Word := if cause = 0x17 ∨ cause = 0x18 then blk else 0

/-- A refill that failed stops the access (08 R193). -/
def Fw.refillBad (e : Fw) (t cause detail : Nat) : Chk :=
  match e.src with
  | .block hdr blk _ => .bad cause detail hdr (blkExtra cause blk)
  | _ => .bad cause detail (e.va t) 0

/-- The checks of 08 R193, in order. -/
def State.chk (s : State) (c : Nat) (h : Word) (a : Span) : Chk :=
  let cl := s.cell c
  let e := cl.fw[hIdx h]
  let i := (hIdx h).val
  let v := e.value h a.t
  if hFault h || e.src == .none then .bad 0x12 0 (h.setWidth 64) 0
  else if !e.valid then
    match cl.trans with
    | some ⟨.refill j, .fail cause detail⟩ => if j = i then e.refillBad a.t cause detail else .wait (.refill i)
    | _ => .wait (.refill i)
  else if a.t % a.z ≠ 0 then .bad 0x14 0 v 0
  else if e.len < a.t + a.n then .bad 0x15 0 v 0
  else if a.r && !e.r then .bad 0x13 0 v 0
  else if a.w && !e.w then .bad 0x13 1 v 0
  else if a.w && !e.dKnown then
    match cl.trans with
    | some ⟨.dirty j, .fail cause detail⟩ => if j = i then .bad cause detail v 0 else .wait (.dirty i)
    | _ => .wait (.dirty i)
  else if a.w && (match e.src with | .page _ => !s.ownOk c (e.va a.t) | _ => false) then .bad 0x16 0 (e.va a.t) 0
  else .ok (e.frame.toNat + a.t) e

/-- The firing of an access: it waits, stops, or has its effect `k` (08 R193, R218). -/
def State.access (s : State) (f : Fire) (more : Bool) (r : Chk) (k : Nat → Fw → State) : Out :=
  if (s.cell s.curCell).ready f && more then
    match r with
    | .ok pa e => .next (k pa e)
    | .wait _ => .next s
    | .bad cause detail value extra => .next (s.stopHere (BitVec.ofNat 8 cause) (BitVec.ofNat 8 detail) value extra 0)
  else .next s

/-- Room in an outstanding count (08 R194). -/
def Cell.room (c : Cell) (ord : Bool) : Bool := if ord then c.outOrd < 1023 else c.outUnord < 1023

/-- Issues a request with one deferred result, as the end of the firing. -/
def State.ask (s : State) (f : Fire) (a : Ask) : State :=
  let d := s.deferX f
  (d.2.issue a [(d.1, none)]).finish f.noDst f.popped 0 .zero 0

/-- A request with one deferred result of a given payload. -/
def State.askDone (s : State) (f : Fire) (a : Ask) (done : Wide) : State :=
  let d := s.deferX f
  (d.2.issue a [(d.1, some done)]).finish f.noDst f.popped 0 .zero 0

/-- An unordered store, which enters the coalescing buffer (08 R197). -/
def State.askCoal (s : State) (f : Fire) (a : Ask) (bytes : Tbl Byte) (done : Wide) : State :=
  let d := s.deferX f
  ((d.2.coalesce s.curCell a.pa a.key a.pol bytes d.1 done).modCell s.curCell fun c => c.countOut false 1).finish f.noDst
    f.popped 0 .zero 0

/-- A store, ordered or not. -/
def State.askStore (s : State) (f : Fire) (a : Ask) (bytes : Tbl Byte) (done : Wide) : State :=
  if a.ord then (s.coalTouch s.curCell a.pa 32).askDone f { a with kind := .write bytes } done
  else s.askCoal f a bytes done

/-! Loads and stores (08 R198, R199). -/

def qldSpan (a b : Wide) : Span := ⟨(hOff (lane a 0) + (lane b 0).toNat) % 2 ^ 32, 32, 32, true, false⟩
def execQld (o : OpB) (s : State) : Out :=
  let f := ofB o
  let c := s.cell s.curCell
  let h := lane (c.src o.a).pay 0
  let sp := qldSpan (c.src o.a).pay (c.src o.b).pay
  s.access f (c.room (hOrd h)) (s.chk s.curCell h sp) fun pa e =>
    (s.coalTouch s.curCell pa 32).ask f ⟨.read, pa, e.va sp.t, e.key, e.pol, hOrd h, e.paged⟩

def qstSpan (a : Wide) : Span := ⟨hOff (lane a 0), 32, 32, false, true⟩
/-- Bytes a word mask enables; 0 enables all. -/
def wordOn (m : Nat) (i : Nat) : Bool := m == 0 || m / 2 ^ (i / 4) % 2 == 1
def execQst (o : OpB) (s : State) : Out :=
  let f := ofB o
  let c := s.cell s.curCell
  let a := (c.src o.a).pay
  let h := lane a 0
  s.access f (c.room (hOrd h)) (s.chk s.curCell h (qstSpan a)) fun pa e =>
    s.askStore f ⟨.read, pa, e.va (hOff h), e.key, e.pol, hOrd h, e.paged⟩
      (maskedBytes pa (c.src o.b).pay (wordOn (bf (lane a 1) 0 8))) 0

/-! Streams (08 R200, R201). -/

/-- Literal k(b + i) of the active context. -/
def Cell.lit (c : Cell) (b i : Nat) : Word := c.ctx.lits[Fin.ofNat 16 (b + i)]
def streamBase (c : Cell) (b : Nat) : DWord := (c.lit b 1 ++ c.lit b 0 : BitVec 64)
/-- The Morton interleaving of the first d rods. -/
def mortonOf (rods : List Nat) (d : Nat) : Nat :=
  (List.range d).foldl (fun m j => (List.range 64).foldl (fun m i =>
    m + (rods.getD j 0) / 2 ^ i % 2 * 2 ^ (d * i + j)) m) 0
def streamAddr (c : Cell) (b : Nat) (off : DWord) : DWord :=
  let rods := (List.range 6).map (rodVal c.ab c.ab.ident.toNat)
  let ctl := c.lit b 6
  let d := if bf ctl 0 2 = 0 then 0 else if bit ctl 3 then 3 else 2
  let lin := (List.range 4).foldl (fun (m : DWord) k =>
    if d ≤ k then m + BitVec.ofNat 64 (rods.getD k 0) * (c.lit b (2 + k)).signExtend 64 else m) 0
  streamBase c b + off + (if d = 0 then 0 else 32 * BitVec.ofNat 64 (mortonOf rods d)) + lin

/-- The address of a stream's next data firing; QSTS has no offset. -/
def Cell.streamVa (c : Cell) (o : OpUI) (wr : Bool) : DWord :=
  streamAddr c o.b.val (if wr then 0 else (lane (c.src o.a).pay 0).signExtend 64)

/-- The outcome of a stream's checks, in the order of 08 R193: translation, alignment, permission, D, ownership (08 R201). A misaligned
store is translated without its write. -/
def State.streamChk (s : State) (c : Nat) (va base : DWord) (wr : Bool) : Chk :=
  let x : Word := (va - base).setWidth 32
  let odd := bf va 0 5 != 0
  let w := wr && !odd
  match (s.cell c).trans with
  | some ⟨.stream v u, st⟩ =>
    if v = va ∧ u = w then
      match st with
      | .running => .wait (.stream va w)
      | .fail cause detail => if odd && cause == 0x13 then .bad 0x14 0 va x else .bad cause detail va x
      | .ok f =>
        if odd then .bad 0x14 0 va x
        else if wr && !s.ownOk c va then .bad 0x16 0 va x
        else .ok (f.pa va) { (Fw.invalid.filled f) with src := .page (vframeOf va) }
    else .wait (.stream va w)
  | _ => .wait (.stream va w)

/-- A marker firing of a stream: A is neither read nor popped (08 R201). -/
def State.streamMark (s : State) (o : OpUI) : Out :=
  let f := { ofUI o with a := none, p := false }
  let c := s.cell s.curCell
  s.fireTag f true (c.ab.markPay.setWidth 256) ⟨BitVec.ofNat 3 c.ab.pending, false, (c.outTag f).seq⟩ fun c =>
    { c with ab := { c.ab with pending := 0 } }

/-- The translation used and the abacus stepped (08 R201). -/
def State.streamStep (s : State) : State := s.modCell s.curCell fun c => { c with trans := none, ab := c.ab.step }

/-- Conditions of a data firing apart from its checks. -/
def Cell.streamGo (c : Cell) (o : OpUI) (wr : Bool) : Bool :=
  !c.ab.over && c.room (bit (c.lit o.b.val 6) 2) &&
    (!wr || match selPort (some o.a) with | some p => c.dataAt p | none => true)

def execQlds (o : OpUI) (s : State) : Out :=
  let f := ofUI o
  let c := s.cell s.curCell
  if c.ab.pending ≠ 0 then s.streamMark o
  else
    let va := c.streamVa o false
    s.access f (c.streamGo o false) (s.streamChk s.curCell va (streamBase c o.b.val) false) fun pa e =>
      ((s.coalTouch s.curCell pa 32).ask f ⟨.read, pa, va, e.key, e.pol, bit (c.lit o.b.val 6) 2, e.paged⟩).streamStep

/-- Bytes that a stream's word mask enables: two words a bit (08 R200). -/
def streamOn (m : Nat) (i : Nat) : Bool := m == 0 || m / 2 ^ (i / 8) % 2 == 1
def execQsts (o : OpUI) (s : State) : Out :=
  let f := ofUI o
  let c := s.cell s.curCell
  if c.ab.pending ≠ 0 then s.streamMark o
  else
    let va := c.streamVa o true
    s.access f (c.streamGo o true) (s.streamChk s.curCell va (streamBase c o.b.val) true) fun pa e =>
      (s.askStore f ⟨.read, pa, va, e.key, e.pol, bit (c.lit o.b.val 6) 2, e.paged⟩
        (maskedBytes pa (c.src o.a).pay (streamOn (bf (c.lit o.b.val 6) 4 4))) (c.ab.ident.setWidth 256)).streamStep

/-! Berth-way words (08 R202). -/

def bwMask (l : Word) : Byte := if bf l 0 8 = 0 then 0xFF else l.setWidth 8
def execQldf (o : OpB) (s : State) : Out :=
  let f := ofB o
  let c := s.cell s.curCell
  let a := lane (c.src o.a).pay 0
  let m := bwMask (lane (c.src o.b).pay 0)
  if !c.ready f then .next s
  else if bwOut s s.curCell (bf a 0 19) then .next (s.stopHere 3 0 (a.setWidth 64) 0 0)
  else
    let sl := s.bwSlot s.curCell (bf a 0 19)
    s.fireTag f ((sl.fe &&& m) == m) sl.pay (c.outTag f) id

def execQstf (o : OpB) (s : State) : Out :=
  let f := ofB o
  let c := s.cell s.curCell
  let a := lane (c.src o.a).pay 0
  if !c.ready f then .next s
  else if bwOut s s.curCell (bf a 0 19) then .next (s.stopHere 3 0 (a.setWidth 64) 0 0)
  else
    let w := (s.bwIdx s.curCell (bf a 0 19), bwMask (lane (c.src o.a).pay 1), (c.src o.b).pay)
    (s.modQuay (quayOf s.curCell) fun q => { q with qstf := q.qstf ++ [w] }).fireTag f true 0 (c.outTag f) id

/-! Atomics, copies and prefetch (08 R203 to R205). -/

/-- An atomic operation's number (08 R203); configuration load admits 0 to 11. -/
def aopOf (n : Nat) : Aop := (Aop.ofCode n).getD .add
def qatmSpan (y : Nat) (a : Wide) : Span :=
  let z := if y / 16 % 2 = 1 then 8 else 4
  ⟨hOff (lane a 0), z, z, true, true⟩
def execQatm (o : OpBF) (s : State) : Out :=
  let f := ofBF o
  let c := s.cell s.curCell
  let h := lane (c.src o.a).pay 0
  let b := (c.src o.b).pay
  let dw := o.y.val / 16 % 2 == 1
  let v : DWord := if dw then b.setWidth 64 else (lane b 0).setWidth 64
  let k : DWord := if dw then (b >>> 64).setWidth 64 else (lane b 2).setWidth 64
  let sp := qatmSpan o.y.val (c.src o.a).pay
  s.access f (c.room (hOrd h)) (s.chk s.curCell h sp) fun pa e =>
    (s.coalTouch s.curCell pa sp.z).ask f ⟨.atom (aopOf (o.y.val % 16)) dw v k, pa, e.va sp.t, e.key, e.pol, hOrd h, e.paged⟩

/-- The count of a copy, and whether it is in range. -/
def qcpyCount (b : Wide) : Nat := bf (lane b 1) 0 17
def qcpyCountOk (n : Nat) : Bool := 16 ≤ n && n ≤ 65536 && n % 16 == 0
/-- The checks of a copy: the count, the source, the destination (08 R204). The stop for a bad count, for which the rule names no
side, records the source handle (log 88). -/
def State.qcpyChk (s : State) (a b : Wide) : Chk × Chk :=
  let n := qcpyCount b
  if !qcpyCountOk n then (.bad 0x15 0 ((lane a 0).setWidth 64) 0, .wait (.refill 0))
  else
    match s.chk s.curCell (lane a 0) ⟨hOff (lane a 0), 16, n, true, false⟩ with
    | .ok pa e => (.ok pa e, s.chk s.curCell (lane b 0) ⟨hOff (lane b 0), 16, n, false, true⟩)
    | r => (r, r)
/-- The copy's order bit and outstanding count are those of its source handle: the rules name neither side (08 R196; log 88). -/
def qcpyOrd (a : Wide) : Bool := hOrd (lane a 0)
/-- QCPY (08 R204). Of two that each fit the quay's copy store alone, of two cells or of one, the later does not fire (log 100). -/
def execQcpy (o : OpBF) (s : State) : Out :=
  let f := ofBF o
  let c := s.cell s.curCell
  let a := (c.src o.a).pay
  let b := (c.src o.b).pay
  let n := qcpyCount b
  let q := quayOf s.curCell
  let fits := !qcpyCountOk n || (s.quay q).copyBytes + n ≤ 65536
  let r := s.qcpyChk a b
  s.access f (c.room (qcpyOrd a) && fits) r.1 fun pa e =>
    match r.2 with
    | .ok dst d =>
      (((((s.coalTouch s.curCell pa n).coalTouch s.curCell dst n).modQuay q fun u =>
        { u with copyBytes := u.copyBytes + n }).askDone f
          ⟨.copy dst d.key d.pol n (o.y.val % 2 == 1), pa, e.va (hOff (lane a 0)), e.key, e.pol, qcpyOrd a, e.paged⟩ 0))
    | .wait _ => s
    | .bad cause detail value extra => s.stopHere (BitVec.ofNat 8 cause) (BitVec.ofNat 8 detail) value extra 0

/-- QPF: a failed check, an invalid entry or a count of 0 makes it a no-op (08 R205). -/
def execQpf (o : OpKB) (s : State) : Out :=
  let f := ofKB o
  let c := s.cell s.curCell
  let h := lane (c.src o.a).pay 0
  let n := bf (lane (c.src o.b).pay 0) 0 17
  if c.ready f then
    match s.chk s.curCell h ⟨hOff h, 16, 16, true, false⟩ with
    | .ok pa e =>
      if n = 0 then .next (s.finish f f.popped 0 .zero 0)
      else
        let m := min n (e.len - hOff h)
        .next ((s.issue ⟨.prefetch ((pa + m - 1) / 128 * 128 + 128 - pa / 128 * 128), pa / 128 * 128, e.va (hOff h), e.key,
          e.pol, false, false⟩ []).finish f f.popped 0 .zero 0)
    | _ => .next (s.finish f f.popped 0 .zero 0)
  else .next s

/-! Translation (08 R192). -/

def xlatVa (a : Wide) : DWord := a.setWidth 64
def xlatEntry (a : Wide) : Fin 16 := Fin.ofNat 16 (bf (lane a 2) 0 4)
def xlatProbe (a : Wide) : Bool := bit (lane a 2) 4
/-- The fault token of a failed probe (08 R190). -/
def faultTok (cause : Nat) : Wide := inLane0 (0x80000000#32 ||| BitVec.ofNat 32 (cause % 256))
/-- The handle token of entry i and an offset. -/
def handleTok (i off : Nat) : Wide := inLane0 (BitVec.ofNat 32 (i % 16 * 65536 + off % 65536))
/-- The entry an XLAT fills. -/
def Fw.ofPage (va : DWord) (f : Frame) : Fw := { (Fw.invalid.filled f) with src := .page (vframeOf va) }
def Cell.setFw (c : Cell) (i : Fin 16) (e : Fw) : Cell := { c with trans := none, fw := vset c.fw i e }

def execXlat (o : OpU) (s : State) : Out :=
  let f := ofU o
  let c := s.cell s.curCell
  let a := (c.src o.a).pay
  let i := xlatEntry a
  match c.trans with
  | some ⟨.xlat va w, st⟩ =>
    if !c.ready f || va ≠ xlatVa a || w ≠ c.srcAt o.a then .next s
    else
      match st with
      | .running => .next s
      | .ok fr => s.fireTag f true (handleTok i.val (bf va 0 16)) (c.outTag f) fun c => c.setFw i (.ofPage va fr)
      | .fail cause detail =>
        if xlatProbe a then s.fireTag f true (faultTok cause) (c.outTag f) fun c => c.setFw i .invalid
        else .next (s.stopHere (BitVec.ofNat 8 cause) (BitVec.ofNat 8 detail) va 0 0)
  | _ => .next s

/-! Ownership and flushes (08 R208, R209). -/

/-- The quay cell of the same region that a place names. -/
def State.handTarget (s : State) (c : Nat) (a : Wide) : Option Nat :=
  let t := s.atPlace (s.cellPart c) (bf (lane a 0) 0 16)
  if isQuayCell t && (s.cell t).region == (s.cell c).region then some t else none

/-- The flush of a firing: the buffer is sent, and the result waits (08 R209). -/
def State.flushFire (s : State) (f : Fire) (kind : FlushKind) (pay : Wide) : State :=
  let d := s.deferX f
  let s1 := d.2.coalSendAll s.curCell
  (s1.modCell s.curCell fun c => { c with flush := c.flush ++ [⟨kind, s1.seqNo, d.1, pay⟩] }).finish f.noDst f.popped 0
    .zero 0

def execHand (o : OpUI) (s : State) : Out :=
  let f := ofUI o
  let c := s.cell s.curCell
  let a := (c.src o.a).pay
  let r := Fin.ofNat 16 o.b.val
  let d := c.owned[r]
  if !c.ready f then .next s
  else if !bit d 63 then .next (s.stopHere 0x16 0 ((lane a 0).setWidth 64) 0 0)
  else
    match s.handTarget s.curCell a with
    | none => .next (s.stopHere 0x16 1 ((lane a 0).setWidth 64) 0 0)
    | some t =>
      .next ((s.modCell s.curCell fun c => { c with owned := vset c.owned r (setBit d 63 false) }).flushFire f
        (.hand t r (setBit d 63 true)) a)

def execQfls (o : OpU) (s : State) : Out :=
  let c := s.cell s.curCell
  if c.ready (ofU o) then .next (s.flushFire (ofU o) .stores (c.src o.a).pay) else .next s

def execQcmpl (o : OpU) (s : State) : Out :=
  let c := s.cell s.curCell
  if c.ready (ofU o) then .next (s.flushFire (ofU o) .all (c.src o.a).pay) else .next s

end Sys2Proof.Machine
end

