-- ==== Sys2Proof/Machine/Channels.lean ====
section
/-! DEFINITION. Channels: the home quay's table, the ring and the basin, and CHW, CHR, CHCL, CHST (08 R210 to R214;
11 R269 to R279). -/

namespace Sys2Proof.Machine

/-- Elements of an extent (11 R270). -/
def perExtent (e : Nat) : Nat := 65504 / (34 * e)
def Chan.pe (c : Chan) : Nat := perExtent c.e
/-- Present capacity and held elements (11 R270). -/
def Chan.cap (c : Chan) : Nat := c.nr0 + c.eg * c.pe
def Chan.heldN (c : Chan) : Nat := c.nr + c.nb
def Chan.full (c : Chan) : Bool := c.heldN == c.cap

/-- The virtual device of a channel, and its logical number. -/
def State.chanPart (s : State) (ch : Nat) : Nat := (s.partOf (ch / 128)).getD 0
def State.chanVd (s : State) (ch : Nat) : Nat := 8 * s.chanPart ch + (s.chan ch).vd
def State.chanNo (s : State) (ch : Nat) : Nat := ch - 128 * (s.part (s.chanPart ch)).first

/-- A record about a channel (13 R303, R308). -/
def State.chanRecord (s : State) (ch ty : Nat) (va : DWord) : State :=
  s.post (s.chanPart ch) (ch / 128) none
    (recBody ty (s.chan ch).vd 0xFFFF [(8, 2, s.chanNo ch), (16, 8, va.toNat)])

/-! The basin (11 R271, R273). -/

/-- Virtual address of a byte of an extent. -/
def Chan.extVa (c : Chan) (x off : Nat) : DWord := granuleVa (c.basin + BitVec.ofNat 39 x) off

/-- A broken channel: it is closed, its basin elements are discarded (11 R271). -/
def Chan.break (c : Chan) : Chan :=
  { c with broken := true, closed := true, nb := 0, rWr := (c.rWr + c.nr0 - c.moves.length) % c.nr0, moves := [],
           half := false, cur := match c.cur with
             | some (.inr _) => none
             | x => x }
/-- A row number added to the rows served or accepted: the bound below which all are, and those above it (17 R388, R389). -/
def addRow (low : Nat) (got : List Nat) (n : Nat) : Nat × List Nat := advance low (n :: got) (got.length + 1)
where
  /-- Moves the bound past the numbers listed. -/
  advance (low : Nat) (got : List Nat) : Nat → Nat × List Nat
    | 0 => (low, got)
    | fuel + 1 => if got.contains low then advance (low + 1) (got.filter (· != low)) fuel else (low, got)

/-- A row served: its credit returns when `credit` is set. -/
def SwRx.serve (x : SwRx) (num : Nat) (credit : Bool) : SwRx :=
  let r := addRow x.slow x.served num
  { x with slow := r.1, served := r.2, freed := if credit then x.freed + 1 else x.freed }
def State.modRx (s : State) (port ch : Nat) (f : SwRx → SwRx) : State :=
  s.modPort port fun p => { p with rx := p.rx.map fun (e : Nat × SwRx) => if e.1 = ch then (e.1, f e.2) else e }

/-- Those told of tokens that a broken basin no longer takes are told at once. -/
def State.tell (s : State) (t : Teller) (v : Wide) : State :=
  match t with
  | .req id => s.answer id v false
  | .push id => s.answer id 0 false
  | .pilot p => s.modPilot p fun q => { q with ans := some (v.setWidth 64) }
  | .pushPilot p => s.modPilot p fun q => { q with ans := some 0 }
  | .row p ch n => s.modRx p ch fun x => x.serve n true
  | .none => s
def State.breakChan (s : State) (ch : Nat) : State :=
  let c := s.chan ch
  let s1 := s.setChan ch c.break
  let s2 := match c.cur with
    | some (.inr _) =>
      (c.wtoks.foldl (fun (s : State) (t : Token × Teller) => s.tell t.2 (inLane0 (c.wIdx - 1))) s1).modChan ch fun x => { x with wtoks := [], wpos := 0 }
    | _ => s1
  s2.chanRecord ch 8 0

/-- The frame of an extent for an access of the home quay at an offset in it; a fault pauses the channel's basin accesses, and the
record names the address (11 R277). -/
def State.extFrame (s : State) (ch x off : Nat) : Option Frame × State :=
  let c := s.chan ch
  let r := s.translate (ch / 64) (s.chanVd ch) false (c.extVa x off) .w
  match r.1 with
  | .ok f => (some f, r.2)
  | .error (0x20, _) => (none, r.2.breakChan ch)
  | .error _ => (none, (r.2.modChan ch fun c => { c with paused := true }).chanRecord ch 9 (c.extVa x off))

/-- The extent after x: the link of its trailer, with its checks (11 R271, 16 R373). -/
def State.linkOf (s : State) (ch x : Nat) : Option Nat × State :=
  match s.extFrame ch x 65504 with
  | (none, s1) => (none, s1)
  | (some f, s1) =>
    let a := f.base.toNat + 65504
    let n : Nat := (s1.valAt 32 f.key a 4).toNat
    if s1.poisonedAt a 4 || (s.chan ch).eg ≤ n then (none, s1.breakChan ch)
    else (some n, (s1.charge (ch / 64) (s.chanVd ch) f.key f.pol a 4).touch (s.chanVd ch) f.key f.pol false a 4)

/-- Writes the link of an extent; the rest of its trailer is zero (11 R271). -/
def State.setLink (s : State) (ch x n : Nat) : State :=
  match s.extFrame ch x 65504 with
  | (none, s1) => s1
  | (some f, s1) => s1.qwrite (ch / 64) (s.chanVd ch) f.key f.pol (f.base.toNat + 65504) (toBytes (BitVec.ofNat 256 n) 32)

/-- The position after a position (11 R273). -/
def State.advancePos (s : State) (ch : Nat) (p : Nat × Nat) : Option (Nat × Nat) × State :=
  if p.2 + 1 < (s.chan ch).pe then (some (p.1, p.2 + 1), s)
  else
    match s.linkOf ch p.1 with
    | (some n, s1) => (some (n, 0), s1)
    | (none, s1) => (none, s1)

/-- The position n after a position. -/
def State.advanceBy (s : State) (ch : Nat) (p : Nat × Nat) : Nat → Option (Nat × Nat) × State
  | 0 => (some p, s)
  | n + 1 =>
    match s.advancePos ch p with
    | (some q, s1) => s1.advanceBy ch q n
    | (none, s1) => (none, s1)

/-- A tag as memory holds it (11 R271), and back. -/
def tagWord (t : Tag) : BitVec 16 := t.lvl ++ (BitVec.ofBool t.hdr) ++ t.seq
def tagOf (w : BitVec 16) : Tag := ⟨w.extractLsb' 13 3, bit w 12, w.setWidth 12⟩

/-- Offsets in an extent of basin slot j and of its tags (11 R271). -/
def Chan.elemOff (c : Chan) (j : Nat) : Nat := 32 * c.e * j
def Chan.tagOff (c : Chan) (j : Nat) : Nat := 32 * c.e * c.pe + 2 * c.e * j

/-- Sectors from `i` up to `j` of token k of the element at a basin position written, with its tag after the last; none when the access is
held. -/
def State.basinPut (s : State) (ch : Nat) (p : Nat × Nat) (k : Nat) (t : Token) (i j : Nat) : Bool × State :=
  let c := s.chan ch
  match s.extFrame ch p.1 (c.elemOff p.2 + 32 * k) with
  | (none, s1) => (false, s1)
  | (some f, s1) =>
    let b := f.base.toNat
    let s2 := s1.qwrite (ch / 64) (s.chanVd ch) f.key f.pol (b + c.elemOff p.2 + 32 * k + 16 * i) (((toBytes t.pay 32).take (16 * j)).drop (16 * i))
    (true, if j = 2 then s2.qwrite (ch / 64) (s.chanVd ch) f.key f.pol (b + c.tagOff p.2 + 2 * k) (toBytes (tagWord t.tag) 2) else s2)
/-- How many of n sectors a basin access takes at once: all, or, where anything else may be at them, some (12 R287; log 86). -/
def State.basinNow (s : State) (n : Nat) : Nat :=
  if s.traffic none || !s.reqs.isEmpty then max 1 (min n (Config.atOnce s.fresh)) else n

/-- The tokens of the element at a basin position; a poisoned sector breaks the channel (16 R373). -/
def State.basinGet (s : State) (ch : Nat) (p : Nat × Nat) : Option (List Token) × State :=
  let c := s.chan ch
  match s.extFrame ch p.1 (c.elemOff p.2) with
  | (none, s1) => (none, s1)
  | (some f, s1) =>
    let b := f.base.toNat
    let a := b + c.elemOff p.2
    let g := b + c.tagOff p.2
    if s1.poisonedAt a (32 * c.e) || s1.poisonedAt g (2 * c.e) then (none, s1.breakChan ch)
    else
      (some ((List.range c.e).map fun i => ⟨s1.valAt 256 f.key (a + 32 * i) 32, tagOf (s1.valAt 16 f.key (g + 2 * i) 2)⟩),
        (s1.touch (s.chanVd ch) f.key f.pol false a (32 * c.e)).touch (s.chanVd ch) f.key f.pol false g (2 * c.e))

/-! The ring. -/

/-- A slot of the ring in the home quay's berth ways. -/
def Chan.slotAt (c : Chan) (elem i : Nat) : Nat := c.base + elem * c.e + i
def State.ringPut (s : State) (ch elem i : Nat) (t : Token) : State :=
  let n := (s.chan ch).slotAt elem i
  s.modQuay (ch / 64) fun q => { q with slots := tblPut q.slots n ⟨t.pay, t.tag, 0xFF, 1⟩ }
def State.ringTok (s : State) (ch elem i : Nat) : Token :=
  let sl := tblGet .free (s.quay (ch / 64)).slots ((s.chan ch).slotAt elem i)
  ⟨sl.pay, sl.tag⟩
/-- Readies or frees the slots of an element. -/
def State.ringMark (s : State) (ch elem rdr : Nat) : State :=
  let c := s.chan ch
  s.modQuay (ch / 64) fun q => { q with slots := (List.range c.e).foldl (fun t i =>
    tblPut t (c.slotAt elem i) { tblGet .free t (c.slotAt elem i) with fe := 0, rdr := rdr }) q.slots }

/-! Allocation (11 R272). -/

/-- Place's test. An allocation into the basin waits during a splice, while its accesses are paused, and for ever once the
channel is broken (11 R276, R277; log 22). -/
def Chan.toRing (c : Chan) : Bool := c.nr + c.moves.length < c.nr0 && c.nb == 0
def Chan.toBasin (c : Chan) : Bool := c.nb < c.eg * c.pe && !c.splice && !c.paused && !c.broken
def Chan.grantable (c : Chan) : Bool := c.cur.isNone && c.wtoks.isEmpty && (c.toRing || c.toBasin)

/-- Closed and exhausted: nothing complete at the read index, and no partial element. -/
def Chan.spent (c : Chan) (waits : Bool) : Bool := c.closed && c.nr == 0 && c.nb == 0 && c.cur.isNone && !waits

/-- The oldest request for a channel's ring in its quay's roadstead. -/
def State.chanReq? (s : State) (ch : Nat) : Option BReq :=
  (s.quay (ch / 64)).road.find? fun r => r.chan == ch
/-- Requests for a channel's ring at its home quay: in the roadstead, outside it (10 R260), or about to enter. -/
def State.chanWaits (s : State) (ch : Nat) (p : BReq → Bool) : Bool :=
  ((s.quay (ch / 64)).road.any fun r => r.chan == ch && p r) || ((s.quay (ch / 64)).outside.any fun r => r.chan == ch && p r) ||
    s.pend.any fun e => match e.ev with
      | .berthRequestArrival (.quay q) r => q == ch / 64 && r.chan == ch && p r
      | _ => false
/-- Closed and exhausted, with no allocation that still waits (08 R212). -/
def State.chanSpent (s : State) (ch : Nat) : Bool := (s.chan ch).spent (s.chanWaits ch fun _ => true)

/-- The element is placed; none when a basin access is held. -/
def State.placeElem (s : State) (ch : Nat) : Bool × State :=
  let c := s.chan ch
  if c.toRing then
    (true, (s.modChan ch fun c =>
      { c with cur := some (.inl c.rWr), rWr := (c.rWr + 1) % c.nr0, nr := c.nr + 1, wIdx := c.wIdx + 1, wpos := 0 }).ringMark
        ch c.rWr 1)
  else
    match s.advancePos ch c.bWr with
    | (none, s1) => (false, s1)
    | (some p, s1) =>
      (true, s1.modChan ch fun d =>
        { d with cur := some (.inr c.bWr), bWr := p, lastW := c.bWr.1, nb := d.nb + 1, wIdx := d.wIdx + 1, wpos := 0 })

/-- Who is told of a granted request: a cell's waiting CHW, a pilot, or the requester of a push. -/
def State.tellerOf (s : State) (ch : Nat) (r : BReq) : Teller :=
  if r.kind = 1 then .pilot r.src
  else if r.kind = 0 then
    match s.reqs.find? fun q => q.cell == r.src && !q.served && (match q.kind with | .chw c _ a => c == ch && a | _ => false) with
    | some q => .req q.id
    | none => .none
  else if r.kind = 3 then (if r.mrk then .row r.src r.fctx r.rank else .none)
  else if r.kind = 4 then (if r.fctx = 1 then .push r.rank else .pushPilot r.src)
  else .none

/-- The tokens to write for a granted request: staged ones, and padding when the channel is closed under a waiting
allocation (11 R279). -/
def stagedToks (c : Chan) (r : BReq) (t : Teller) : List (Token × Teller) :=
  let toks := r.toks
  let pad := if r.kind = 4 ∨ (r.kind = 0 ∧ c.closed ∧ (toks.all fun x => x.tag.lvl == 0)) then List.replicate (c.e - toks.length) ⟨0, .zero⟩
    else ([] : List Token)
  match (toks ++ pad).reverse with
  | [] => []
  | l :: rest =>
    if r.kind = 0 then
      match toks ++ pad with
      | h :: tl => (h, t) :: tl.map fun x => (x, Teller.none)
      | [] => []
    else rest.reverse.map (fun x => (x, Teller.none)) ++ [(l, t)]

/-- The writer of an element that is no region's. -/
def noRegion : Nat := 65536
/-- The decision for a channel's oldest request (10 R258, 11 R272). -/
def State.chanGrant (s : State) (ch : Nat) : State :=
  match s.chanReq? ch with
  | none => s
  | some r =>
    if !(s.chan ch).grantable then s
    else
      match s.placeElem ch with
      | (false, s1) => s1
      | (true, s1) =>
        let t := s1.tellerOf ch r
        let s2 := s1.modQuay (ch / 64) fun q => { q with road := q.road.erase r }
        let c := s2.chan ch
        (s2.modChan ch fun c => { c with wtoks := stagedToks c r t, wreg := if r.kind = 0 then r.owner else noRegion }).modQuay
          (2 * (ch / 128)) fun q => { q with granted := (8 * s.chanPart ch + c.vd) :: q.granted }

/-- A token of the current element is written at the home quay, in a basin one or two sectors in a clk; the last completes it (08 R211,
11 R275; 12 R287). -/
def State.chanWrite (s : State) (ch : Nat) : State :=
  let c := s.chan ch
  match c.wtoks, c.cur with
  | (t, who) :: rest, some el =>
    let j := if c.half then 2 else s.basinNow 2
    let r : Bool × State := match el with
      | .inl n => (true, s.ringPut ch n c.wpos t)
      | .inr p => { s with fresh := s.fresh + 1 }.basinPut ch p c.wpos t (if c.half then 1 else 0) j
    let part := match el with
      | .inl _ => false
      | .inr _ => j != 2
    if r.1 && part then r.2.modChan ch fun d => { d with half := true }
    else if r.1 then
      let done := c.wpos + 1 == c.e || t.tag.lvl != 0
      let s1 := r.2.modChan ch fun d =>
        { d with wtoks := rest, wpos := if done then 0 else c.wpos + 1, cur := if done then none else some el, half := false }
      s1.tell who (inLane0 (c.wIdx - 1))
    else r.2
  | _, _ => s

/-! Reading (08 R212, 11 R275). -/

/-- The element at the read index lies in the ring and is complete. -/
def Chan.readable (c : Chan) : Bool := 0 < c.nr && c.cur != some (.inl c.rRd)

/-- The element at the read index is freed. -/
def State.freeElem (s : State) (ch : Nat) : State :=
  let c := s.chan ch
  (s.ringMark ch c.rRd 0).modChan ch fun c =>
    { c with rRd := (c.rRd + 1) % c.nr0, nr := c.nr - 1, rIdx := c.rIdx + 1, rpos := 0 }

/-- The next token of the element at the read index, and the state after it is taken. -/
def State.takeTok (s : State) (ch : Nat) : Token × State :=
  let c := s.chan ch
  let t := s.ringTok ch c.rRd c.rpos
  if t.tag.lvl ≠ 0 ∨ c.rpos + 1 = c.e then (t, s.freeElem ch)
  else (t, s.modChan ch fun c => { c with rpos := c.rpos + 1 })

/-- Answers a CHR with a token and its tag. -/
def State.chrAnswer (s : State) (ch id : Nat) (t : Token) : State :=
  ((s.modReq id fun r => { r with res := r.res.map fun w => ({ w.1 with tag := t.tag }, w.2) }).modChan ch fun c =>
    { c with chrWait := none }).answer id t.pay false

/-- The home quay serves the waiting reader. The level-7 marker of a channel that is closed and exhausted has a clear header bit and
sequence number 0: 08 R212 names neither (log 87). A pilot takes the whole element itself when it runs again. -/
def State.chanRead (s : State) (ch : Nat) : State :=
  let c := s.chan ch
  let ready := c.readable
  let spent := s.chanSpent ch
  match c.chrWait with
  | some (.cell id) =>
    if ready then
      let t := s.takeTok ch
      t.2.chrAnswer ch id t.1
    else if spent then s.chrAnswer ch id ⟨0, ⟨7, false, 0⟩⟩
    else s
  | some (.pilot p) =>
    if ready || spent then
      (s.modChan ch fun c => { c with chrWait := none }).modPilot p fun q => { q with ans := some 0 }
    else s
  | none => s

/-! Moves from the basin (11 R274). -/

/-- A move may start. -/
def Chan.canMove (c : Chan) : Bool :=
  c.moves.length < c.nb && c.nr + c.moves.length < c.nr0 && c.moves.length < 8 && !c.splice && !c.paused && !c.broken &&
    !(c.moves.length + 1 == c.nb && (match c.cur with | some (.inr _) => true | _ => false))

/-- The sectors of the element at a basin position, and of its tags. -/
def Chan.sectors (c : Chan) (f : Frame) (p : Nat × Nat) : List Nat :=
  sectorsOf (f.base.toNat + c.elemOff p.2) (32 * c.e) ++ sectorsOf (f.base.toNat + c.tagOff p.2) (2 * c.e)
/-- A move on its way, under the sluices of the channel's virtual device. -/
def State.moveSend (s : State) (ch : Nat) (f : Frame) (p : Nat × Nat) : State :=
  let q := ch / 64
  let secs := (s.chan ch).sectors f p
  let h := s.home (secs.headD 0)
  s.send (s.chanVd ch) 0 (if h = q then rankMove else rankFar) (s.secsLat q (s.chanVd ch) f.key secs)
    (s.crossAll q (s.chanVd ch) f.key f.pol secs) clsOther ch (some (.basinMoveLand ch))

def State.moveStart (s : State) (ch : Nat) : State :=
  let c := s.chan ch
  if !c.canMove then s
  else
    match s.advanceBy ch c.bRd c.moves.length with
    | (none, s1) => s1
    | (some p, s1) =>
      match s1.extFrame ch p.1 (c.elemOff p.2) with
      | (none, s2) => s2
      | (some f, s2) =>
        match (s2.moveSend ch f p).basinGet ch p with
        | (none, s3) => s3
        | (some toks, s3) =>
          ({ s3 with fresh := s3.fresh + 1 } : State).modChan ch fun d =>
            { d with moves := d.moves ++ [⟨d.rWr, toks, s.basinNow (2 * c.e)⟩], rWr := (d.rWr + 1) % d.nr0 }

/-- The tokens of a move of which n sectors were read first, and the rest, with the tags, later. -/
def mixToks (n : Nat) (a b : List Token) : List Token :=
  (List.range b.length).map fun i =>
    let x := (a.getD i ⟨0, .zero⟩).pay
    let y : Token := b.getD i ⟨0, .zero⟩
    let lo : BitVec 128 := (if 2 * i < n then x else y.pay).extractLsb' 0 128
    let hi : BitVec 128 := (if 2 * i + 1 < n then x else y.pay).extractLsb' 128 128
    (⟨hi ++ lo, y.tag⟩ : Token)
/-- The tokens of a move that lands; none when the access is held. -/
def State.moveToks (s : State) (ch : Nat) (m : BMove) : Option (List Token) × State :=
  if 2 * (s.chan ch).e ≤ m.done then (some m.toks, s)
  else
    match s.basinGet ch (s.chan ch).bRd with
    | (some b, s1) => (some (mixToks m.done m.toks b), s1)
    | (none, s1) => (none, s1)

def State.moveLand (s : State) (ch : Nat) : State :=
  let c := s.chan ch
  match c.moves with
  | [] => s
  | m :: rest =>
    match (if c.paused then (none, s) else s.advancePos ch c.bRd) with
    | (none, s1) => s1.at 1 clsOther ch (.basinMoveLand ch)
    | (some p, s0) =>
    match s0.moveToks ch m with
    | (none, s1) => s1.at 1 clsOther ch (.basinMoveLand ch)
    | (some toks, s1) =>
      let s2 := s1.ringMark ch m.ring 1
      let s3 := (List.range toks.length).foldl (fun s i => s.ringPut ch m.ring i (toks.getD i ⟨0, .zero⟩)) s2
      s3.modChan ch fun d => { d with moves := rest, nr := d.nr + 1, nb := d.nb - 1, bRd := p }

/-! The instructions. -/

/-- The channel an instruction names. -/
def State.chanOf (s : State) (a : Wide) : Nat := s.chanAt (s.cellPart s.curCell) (bf (lane a 0) 0 13)
/-- The channel-number field of a stop. -/
def chanField (a : Wide) : Word := BitVec.ofNat 32 (bf (lane a 0) 0 13)

/-- A registration of 09 R243 names a quay cell. -/
def State.isParty (s : State) (reg : Word) (c : Nat) : Bool := bf reg 30 2 == 0 && bf reg 0 16 == (s.place c).toNat

/-- The checks of 08 R210: the detail of the channel fault. -/
def State.chanBad (s : State) (ch : Nat) (reg : Chan → Option Word) : Option Nat :=
  let c := s.chan ch
  let p := s.cellPart s.curCell
  if s.partOf (ch / 128) ≠ some p ∨ !c.opened then some 0
  else if c.vd ≠ (s.cellRegion s.curCell).vd then some 1
  else
    match reg c with
    | some r => if s.isParty r s.curCell then none else some 2
    | none => none

/-- A channel firing: it waits for its own conditions, stops on a channel fault, or has its effect. -/
def State.chanFire (s : State) (f : Fire) (a : Wide) (ok : Bool) (reg : Chan → Option Word) (k : State → Nat → Out) : Out :=
  if (s.cell s.curCell).ready f && ok then
    match s.chanBad (s.chanOf a) reg with
    | some d => .next (s.stopHere 0x19 (BitVec.ofNat 8 d) 0 0 (chanField a))
    | none => k s (s.chanOf a)
  else .next s

/-- Tokens of the element that the writer has fired, whether or not they have reached the home quay. -/
def State.chanPos (s : State) (ch : Nat) : Nat :=
  let c := s.chan ch
  let sent := s.reqs.countP fun r => !r.arrived && (match r.kind with | .chw n _ al => n == ch && !al | _ => false)
  (c.wpos + c.wtoks.length + sent) % c.e

/-- The closed flag as the writer's next CHW finds it: set, or by a CHCL of its own that is still on its way (08 R213; log 67). -/
def State.shut (s : State) (ch : Nat) : Bool := (s.chan ch).closed || s.reqs.any fun r => r.kind == .chcl ch && !r.served
/-- CHW (08 R211). -/
def execChw (o : OpB) (s : State) : Out :=
  let f := ofB o
  let c := s.cell s.curCell
  let a := (c.src o.a).pay
  let b := c.src o.b
  s.chanFire f a (!c.chwBusy && c.room false) (fun k => some k.writer) fun s ch =>
    let k := s.chan ch
    let pos := s.chanPos ch
    if s.shut ch then .next (s.stopHere 0x1A 0 0 0 (chanField a))
    else if b.tag.lvl ≠ 0 ∧ pos ≠ 0 then .next (s.stopHere 0x19 3 0 0 (chanField a))
    else
      let al := pos == 0
      let last := b.tag.lvl ≠ 0 || pos + 1 == k.e
      let d := if last then s.deferX f else (⟨.none, .none, .zero, 0⟩, s)
      let t : Token := ⟨b.pay, b.tag⟩
      let s1 := if al then d.2.modCell s.curCell fun c => { c with chwBusy := true } else d.2
      .next ((s1.issue ⟨.chw ch t al, 0, 0, 0, 0, false, false⟩ (if last then [(d.1, none)] else [])).finish f.noDst f.popped 0
        .zero 0)

/-- CHR (08 R212). -/
def execChr (o : OpU) (s : State) : Out :=
  let f := ofU o
  let c := s.cell s.curCell
  s.chanFire f (c.src o.a).pay (!c.chrBusy && c.room false) (fun k => some k.reader) fun s ch =>
    .next ((s.modCell s.curCell fun c => { c with chrBusy := true }).ask f ⟨.chr ch, 0, 0, 0, 0, false, false⟩)

/-- CHCL (08 R213): its request travels to the home quay like every channel request (08 R210), behind the cell's older ones. -/
def execChcl (o : OpKU) (s : State) : Out :=
  let f := ofKU o
  let c := s.cell s.curCell
  let a := (c.src o.a).pay
  s.chanFire f a (c.room false) (fun k => some k.writer) fun s ch =>
    if s.chanPos ch ≠ 0 then .next (s.stopHere 0x19 4 0 0 (chanField a))
    else .next ((s.issue ⟨.chcl ch, 0, 0, 0, 0, false, false⟩ []).finish f f.popped 0 .zero 0)

/-- Complete elements not yet fully read. -/
def Chan.complete (c : Chan) : Nat := c.heldN - (if c.cur.isSome then 1 else 0)
/-- The snapshot of 08 R214. -/
def State.chanSnap (s : State) (ch : Nat) : List Word :=
  let c := s.chan ch
  let w (n : Nat) : Word := BitVec.ofNat 32 n
  let b (x : Bool) (n : Nat) : Nat := if x then n else 0
  [w c.complete, w c.cap, w c.eg,
    w (b c.closed 1 + b (c.nb != 0) 2 + b (match c.chrWait with | some (.cell _) => true | _ => false) 4 +
      b (s.chanWaits ch fun r => r.kind == 0) 8),
    c.wIdx, c.rIdx, w (c.wpos % 8 + c.rpos % 8 * 8 + (c.e - 1) * 64)]

/-- CHST (08 R214): needs only that the channel belong to the virtual device. -/
def execChst (o : OpU) (s : State) : Out :=
  let f := ofU o
  let c := s.cell s.curCell
  s.chanFire f (c.src o.a).pay (c.room false) (fun _ => none) fun s ch =>
    .next (s.ask f ⟨.chst ch, 0, 0, 0, 0, false, false⟩)

/-- Rank of a request among those that arrive at a quay in one clk (10 R259). -/
def State.quayRank (q : Nat) (c : Nat) : Nat :=
  if quayOf c = q then 16 + cellCol c else entryLink c (q / 2 * 1024 + (if q % 2 = 1 then 127 else 126))

/-- A channel request reaches its home quay (08 R211, R212, R214). -/
def State.serveChan (s : State) (r : Req) : State :=
  let s1 := s.modReq r.id fun x => { x with arrived := true }
  match r.kind with
  | .chst ch => s1.answer r.id (ofLanes (s1.chanSnap ch)) false
  | .chcl ch => (s1.modChan ch fun c => { c with closed := true }).answer r.id 0 false
  | .chr ch => s1.modChan ch fun c => { c with chrWait := some (.cell r.id) }
  | .chw ch t true =>
    let q : BReq :=
      { kind := 0, who := s.place r.cell, src := r.cell, fctx := r.ctx, hnd := 0, cnt := (s.chan ch).e, dctx := 0,
        dport := 0, mrk := false, chan := ch, rank := 0, lat := r.lat / 2, owner := (s.cell r.cell).region.getD 0,
        toks := [t] }
    s1.at 1 clsRequest (State.quayRank (ch / 64) r.cell) (.berthRequestArrival (.quay (ch / 64)) q)
  | .chw ch t false => s1.modChan ch fun c => { c with wtoks := c.wtoks ++ [(t, .req r.id)] }
  | _ => s1

end Sys2Proof.Machine
end

