-- ==== Sys2Proof/Machine/BlockMap.lean ====
section
/-! DEFINITION. The block map: BLKMAP, BLKREF, BLKREL (08 R215, R216; 16 R357 to R359; 21 R394). -/

namespace Sys2Proof.Machine

/-- A map header read (16 R357): its block count, block size, key, policy and free-frame channel. -/
structure MapHdr where
  count : Nat
  size : Nat
  key : BitVec 6
  pol : BitVec 2
  chan : Nat
  deriving DecidableEq, Repr

/-- An entry read (16 R358), where it lies and the frame of its page. -/
structure MapEnt where
  va : DWord
  pa : Nat
  page : Frame
  e : BitVec 128
  deriving DecidableEq, Repr

def entV (e : BitVec 128) : Bool := bit e 0
def entCow (e : BitVec 128) : Bool := bit e 1
def entInd (e : BitVec 128) : Bool := bit e 2
def entCount (e : BitVec 128) : Nat := bf e 16 16
def entOblk (e : BitVec 128) : Nat := bf e 32 32
def entAddr (e : BitVec 128) : Nat := bf e 64 64
/-- The entry with another count and valid bit. -/
def entSet (e : BitVec 128) (v : Bool) (count : Nat) : BitVec 128 :=
  setBit ((e &&& ~~~(0xFFFF#128 <<< 16)) ||| (BitVec.ofNat 128 (count % 65536) <<< 16)) 0 v

/-- An ordered read of n bytes through the page tables of a virtual device. -/
def State.vread (s : State) (q vd : Nat) (user : Bool) (va : DWord) (n : Nat) : Except Fail (Frame × List Byte) × State :=
  match s.translate q vd user va .r with
  | (.error f, s1) => (.error f, s1)
  | (.ok f, s1) =>
    if s1.poisonedAt (f.pa va) n then (.error (0x20, 0), s1)
    else
      let r := s1.qread q vd f.key f.pol (f.pa va) n
      (.ok (f, r.1), r.2)

/-- The header of a map; log 23 says what a reserved policy gives. -/
def State.mapHdr (s : State) (q vd : Nat) (user : Bool) (hdr : DWord) : Except Fail MapHdr × State :=
  if bf hdr 0 6 ≠ 0 then (.error (0x14, 0), s)
  else
    match s.vread q vd user hdr 64 with
    | (.error f, s1) => (.error f, s1)
    | (.ok (_, b), s1) =>
      let w : BitVec 512 := ofBytes 512 b
      let k : BitVec 6 := w.extractLsb' 40 6
      if !s.keyOk vd k then (.error (0x11, 0), s1)
      else if 2 ≤ bf w 48 2 then (.error (0x10, 2), s1)
      else (.ok ⟨bf w 0 32, 2 ^ (bf w 32 3 + 9), k, w.extractLsb' 48 2, bf w 64 13⟩, s1)

/-- Entry b of a map. -/
def State.mapEnt (s : State) (q vd : Nat) (user : Bool) (hdr : DWord) (b : Nat) : Except Fail MapEnt × State :=
  let va := hdr + BitVec.ofNat 64 (64 + 16 * b)
  match s.vread q vd user va 16 with
  | (.error f, s1) => (.error f, s1)
  | (.ok (f, bs), s1) => (.ok ⟨va, f.pa va, f, ofBytes 128 bs⟩, s1)

/-- A block resolved through at most one indirection: the named entry, the owner's header and the owner's entry. -/
structure Blk where
  named : MapEnt
  hdr : MapHdr
  owner : MapEnt
  deriving DecidableEq, Repr

/-- The entries that a count change writes: the owner's, and before it the indirect entry that a release goes through (16 R359). -/
def Blk.written (b : Blk) (rel : Bool) : List MapEnt := if rel && entInd b.named.e then [b.named, b.owner] else [b.owner]
/-- The first of them whose page has W clear: the change is a write, and its translation fails (16 R353, 08 R193). -/
def Blk.barred (b : Blk) (rel : Bool) : Option MapEnt := (b.written rel).find? fun m => !m.page.w
/-- An entry is replaced: a write, whose translation sets D (16 R355). -/
def State.entPut (s : State) (q vd : Nat) (user : Bool) (m : MapEnt) (e : BitVec 128) : State :=
  (s.translate q vd user m.va .w).2.qwrite q vd m.page.key m.page.pol m.pa (toBytes e 16)

/-- The owner's frame is checked against the ranges and its alignment (16 R359). -/
def State.frameOk (s : State) (vd : Nat) (b : Blk) : Except Fail Blk :=
  if !s.inRanges (vd / 8) (entAddr b.owner.e) then .error (0x11, 1)
  else if entAddr b.owner.e % b.hdr.size ≠ 0 then .error (0x18, 3)
  else .ok b

/-- The named entry read: beyond the map is its own failure. -/
def State.named (s : State) (q vd : Nat) (user : Bool) (hdr : DWord) (b : Nat) : Except Fail (MapHdr × MapEnt) × State :=
  match s.mapHdr q vd user hdr with
  | (.error f, s1) => (.error f, s1)
  | (.ok h, s1) =>
    if h.count ≤ b then (.error (0x18, 1), s1)
    else
      match s1.mapEnt q vd user hdr b with
      | (.error f, s2) => (.error f, s2)
      | (.ok e, s2) => (.ok (h, e), s2)

/-- The lookup of 16 R359. -/
def State.blkFind (s : State) (q vd : Nat) (user : Bool) (hdr : DWord) (b : Nat) : Except Fail Blk × State :=
  match s.named q vd user hdr b with
  | (.error f, s1) => (.error f, s1)
  | (.ok (h, e), s1) =>
    if !entV e.e then (.error (0x18, 0), s1)
    else if !entInd e.e then (s1.frameOk vd ⟨e, h, e⟩, s1)
    else
      let oh := BitVec.ofNat 64 (entAddr e.e)
      if bf oh 0 6 ≠ 0 then (.error (0x18, 3), s1)
      else
        match s1.named q vd user oh (entOblk e.e) with
        | (.error (0x18, _), s2) => (.error (0x18, 3), s2)
        | (.error f, s2) => (.error f, s2)
        | (.ok (h2, e2), s2) =>
          if h2.size ≠ h.size ∨ !entV e2.e ∨ entInd e2.e then (.error (0x18, 3), s2)
          else (s2.frameOk vd ⟨e, h2, e2⟩, s2)

/-- The lookup of BLKMAP (08 R215). -/
def State.blkLookup (s : State) (c : Nat) (hdr : DWord) (blk : Word) (wr : Bool) : Except Fail Frame × State :=
  match s.blkFind (quayOf c) (s.cellVd c) true hdr blk.toNat with
  | (.error f, s1) => (.error f, s1)
  | (.ok b, s1) =>
    if wr && entCow b.owner.e && 1 < entCount b.owner.e then (.error (0x17, 0), s1)
    else
      (.ok { base := BitVec.ofNat 52 (entAddr b.owner.e), len := b.hdr.size, r := true, w := wr, key := b.hdr.key,
             pol := b.hdr.pol, d := true }, s1)

/-! The instructions. -/

def blkWr (a : Wide) : Bool := bit (lane a 2) 4
def blkProbe (a : Wide) : Bool := bit (lane a 2) 5
def Fw.ofBlock (hdr : DWord) (blk : Word) (wr : Bool) (f : Frame) : Fw :=
  { (Fw.invalid.filled f) with src := .block hdr blk wr }

/-- BLKMAP (08 R215). -/
def execBlkmap (o : OpB) (s : State) : Out :=
  let f := ofB o
  let c := s.cell s.curCell
  let a := (c.src o.a).pay
  let b := lane (c.src o.b).pay 0
  let i := xlatEntry a
  match c.trans with
  | some ⟨.block hdr blk wr, st⟩ =>
    if !c.ready f || hdr ≠ xlatVa a || blk ≠ b || wr ≠ blkWr a then .next s
    else
      match st with
      | .running => .next s
      | .ok fr => s.fireTag f true (handleTok i.val 0) (c.outTag f) fun c => c.setFw i (.ofBlock hdr blk wr fr)
      | .fail cause detail =>
        if blkProbe a then s.fireTag f true (faultTok cause) (c.outTag f) fun c => c.setFw i .invalid
        else .next (s.stopHere (BitVec.ofNat 8 cause) (BitVec.ofNat 8 detail) hdr (blkExtra cause blk) 0)
  | _ => .next s

/-- The failures of a count change that are judged when it is served, not before the firing (08 R216; log 24). -/
def servedFail (f : Fail) : Bool := f.1 == 0x18 && (f.2 == 0 || f.2 == 2 || f.2 == 4)

/-- BLKREF and BLKREL issue their request once the lookup's other checks hold. -/
def State.blkFire (s : State) (o : OpU) (rel : Bool) : Out :=
  let f := ofU o
  let c := s.cell s.curCell
  let a := (c.src o.a).pay
  let hdr := xlatVa a
  let blk := lane a 2
  if c.ready f && c.room false then
    let n := s.named (quayOf s.curCell) (s.cellVd s.curCell) true hdr blk.toNat
    let r := n.2.blkFind (quayOf s.curCell) (s.cellVd s.curCell) true hdr blk.toNat
    let bad (e : Fail) : Out :=
      .next (r.2.stopHere (BitVec.ofNat 8 e.1) (BitVec.ofNat 8 e.2) hdr (blkExtra e.1 blk) 0)
    match n.1, r.1 with
    | .error e, _ => bad e
    | .ok (_, m), .error e =>
      if servedFail e then
        .next (r.2.ask f ⟨.blkop hdr blk rel, m.pa, hdr, m.page.key, m.page.pol, false, false⟩)
      else bad e
    | .ok (_, m), .ok b =>
      if (b.barred rel).isSome then bad (0x13, 1)
      else .next (r.2.ask f ⟨.blkop hdr blk rel, m.pa, hdr, m.page.key, m.page.pol, false, false⟩)
  else .next s

def execBlkref (o : OpU) (s : State) : Out := s.blkFire o false
def execBlkrel (o : OpU) (s : State) : Out := s.blkFire o true

/-! A count change served (08 R216, 16 R359). -/

/-- The free-frame channel takes pushes: open, its writer and reader pilots of the partition. -/
def State.freeChanOk (s : State) (part ch : Nat) : Bool :=
  let c := s.chan (s.chanAt part ch)
  s.partOf (s.chanAt part ch / 128) == some part && c.opened && bf c.writer 30 2 == 1 && bf c.reader 30 2 == 1 &&
    bf c.writer 0 6 < (s.part part).count && bf c.reader 0 6 < (s.part part).count

/-- The change judged and made: a failure, or the new count and the frame to push. -/
def State.blkChange (s : State) (q vd : Nat) (user : Bool) (hdr : DWord) (blk : Nat) (rel : Bool) :
    Except Fail (Nat × Option (Nat × Token)) × State :=
  match s.blkFind q vd user hdr blk with
  | (.error f, s1) => (.error f, s1)
  | (.ok b, s1) =>
    let n := entCount b.owner.e
    if (b.barred rel).isSome then (.error (0x13, 1), s1)
    else if !rel then
      if n = 0 ∨ 65534 < n then (.error (0x18, 2), s1)
      else
        (.ok (n + 1, none), s1.entPut q vd user b.owner (entSet b.owner.e true (n + 1)))
    else if n = 0 then (.error (0x18, 2), s1)
    else if n = 1 ∧ !s1.freeChanOk (vd / 8) b.hdr.chan then (.error (0x18, 4), s1)
    else
      let s2 := if entInd b.named.e then s1.entPut q vd user b.named (setBit b.named.e 0 false) else s1
      let s3 := s2.entPut q vd user b.owner (entSet b.owner.e (n != 1) (n - 1))
      let fr : DWord := BitVec.ofNat 64 (entAddr b.owner.e)
      let t : Token := ⟨ofLanes [fr.setWidth 32, (fr >>> 32).setWidth 32, BitVec.ofNat 32 b.hdr.size], .zero⟩
      (.ok (n - 1, if n = 1 then some (s3.chanAt (vd / 8) b.hdr.chan, t) else none), s3)

/-- The push of a released frame joins the channel's roadstead as kind 4. `who` is a place or a strip; `cell` tells which. -/
def State.pushReq (s : State) (ch src : Nat) (who : BitVec 16) (cell : Bool) (id : Nat) (t : Token) : State :=
  let r : BReq :=
    { kind := 4, who := who, src := src, fctx := if cell then 1 else 2, hnd := 0, cnt := (s.chan ch).e, dctx := 0,
      dport := 0, mrk := false, chan := ch, rank := id, lat := 0, owner := if cell then (s.cell src).region.getD 0 else 0,
      toks := [t] }
  s.at 1 clsRequest (if cell then State.quayRank (ch / 64) src else 64 + src) (.berthRequestArrival (.quay (ch / 64)) r)

/-- BLOCK_MAP_OP_SERVE for a request of a cell. -/
def State.serveBlk (s : State) (r : Req) (hdr : DWord) (blk : Word) (rel : Bool) : State :=
  match s.blkChange (quayOf r.cell) r.vd true hdr blk.toNat rel with
  | (.error f, s1) =>
    s1.reqFails r (BitVec.ofNat 8 f.1) (BitVec.ofNat 8 f.2) hdr (blkExtra f.1 blk) 0
  | (.ok (n, none), s1) => s1.answer r.id (inLane0 (BitVec.ofNat 32 n)) false
  | (.ok (_, some (ch, t)), s1) =>
    (s1.modReq r.id fun x => { x with arrived := true }).pushReq ch r.cell (s.place r.cell) true r.id t

end Sys2Proof.Machine
end

