-- ==== Sys2Proof/Machine/Guard.lean ====
section
/-! DEFINITION. The guard of a slot: conditions 1 to 6 of 03 R63, with 03 R65 and 07 R179. -/

namespace Sys2Proof.Machine

/-- The instruction a slot of the active context holds. -/
def Cell.instr (c : Cell) (i : Fin 16) : Option Instr := (decodeCell c.ctx.inst[i].toNat).toOption

/-- The two ports of a MERGE slot (03 R65). -/
def mergePorts : Instr → List (Fin 4)
  | .merge o => (selPort (some o.a)).toList ++ (selPort (some o.b)).toList
  | _ => []

/-- Ports whose rdy bit an MXROW slot does not test by condition 3 (07 R179). -/
def skipsIn1 : Instr → Bool
  | .mxrow _ => true
  | _ => false

/-- Condition 3 for one in-port. -/
def Cell.rdyOk (c : Cell) (t : Word) (ins : Instr) (n : Fin 4) : Bool :=
  !trgRdy t n || c.dataAt n || (skipsIn1 ins && n == 1) || (trgMk t && ctlMset c.ctx.ctl n && c.join.isSome) ||
    ((mergePorts ins).contains n && (mergePorts ins).any c.dataAt)

/-- Condition 4. -/
def Cell.tagOk (c : Cell) (t : Word) : Bool :=
  !trgTme t ||
    match c.headTok c.actx (trgTmp t) with
    | some k => bf k.tag.seq 0 4 == trgTmv t
    | none => false

/-- Condition 6. -/
def Cell.countOk (c : Cell) (t : Word) : Bool :=
  !trgCg t || four.all fun n =>
    !bdEn c.ctx.binds[n] || bdDcnt c.ctx.binds[n] == 0 || bdDcnt c.ctx.binds[n] ≤ c.ctx.rings[n].arr

/-- Conditions 1 to 6 for slot i, whose instruction is `ins`. -/
def Cell.guard (c : Cell) (i : Fin 16) (ins : Instr) : Bool :=
  let t := c.ctx.trig[i]
  trgV t && (c.p &&& trgPm t) == trgPv t && four.all (c.rdyOk t ins) && c.tagOk t && (!trgMk t || c.join.isSome) &&
    c.countOk t

/-- The search order of 05 R116. -/
def Cell.order (c : Cell) : List (Fin 16) :=
  if ctlFair c.ctx.ctl then (List.range 16).map fun k => Fin.ofNat 16 (c.ctx.fptr.toNat + k) else sixteen

/-- Slots of the active context whose guard holds, with their instructions, in search order. -/
def Cell.guarded (c : Cell) : List (Fin 16 × Instr) :=
  c.order.filterMap fun i =>
    match c.instr i with
    | some ins => if c.guard i ins then some (i, ins) else none
    | none => none

end Sys2Proof.Machine
end

