-- ==== Sys2Proof/Machine/Load.lean ====
section
/-! DEFINITION. Configuration load: the region header, the cell images, and every check of both in the order of 03 R86
(02 R48 to R57, 03 R64, R70 to R77, 06 R142, R144, 07 R170, R175, 08 R189, 13 R305, R306). -/

namespace Sys2Proof.Machine

/-- The first failure of a load (13 R305). -/
structure LoadFail where
  code : Nat
  off : Nat
  word : Nat
  place : Nat
  ctx : Nat
  slot : Nat
  deriving DecidableEq, Repr

/-- The first of the checks that fails. -/
def firstFail (l : List (Bool × LoadFail)) : Option LoadFail := (l.find? fun x => x.1).map (·.2)

/-! The header (02 R55, R56). -/

/-- One step of the CRC-32 of IEEE 802.3 on a bit, least significant first. -/
def crcBit (c : BitVec 32) (b : Bool) : BitVec 32 :=
  if (bit c 0) != b then (c >>> 1) ^^^ 0xEDB88320#32 else c >>> 1
/-- The CRC-32 of the low n bits of a word. -/
def crc32 {w : Nat} (v : BitVec w) (n : Nat) : BitVec 32 :=
  ~~~((List.range n).foldl (fun c i => crcBit c (bit v i)) 0xFFFFFFFF#32)

/-- Width of rod k in a widths word, and the sum of all. -/
def rodBits (w : DWord) (k : Nat) : Nat := bf w (7 * k) 7
def rodSum (w : DWord) : Nat := (List.range 6).foldl (fun n k => n + rodBits w k) 0
/-- The conditions of 01 R13. -/
def rodsOk (w : DWord) : Bool :=
  (List.range 6).all (fun k => rodBits w k ≤ 64) && rodSum w ≤ 64 &&
    (List.range 5).all fun k => rodBits w k != 0 || rodBits w (k + 1) == 0

/-- A binary8 code that is assigned (04 R90). -/
def b8Assigned (c : Nat) : Bool := c % 8 != 0 && c < 32

/-- Contexts a header marks as used, ascending. -/
def usedCtxs (h : BitVec 512) : List (Fin 4) := four.filter fun x => bit (hdrCtxs h) x.val
/-- Strips that the rectangle spans, from its origin column. -/
def hdrSpan (h : BitVec 512) (col : Nat) : Nat := (col + hdrWidth h - 1) / 8 + 1
/-- Cells of the rectangle. -/
def hdrCells (h : BitVec 512) : Nat :=
  (hdrRows h + (if hdrQn h then 1 else 0) + (if hdrQs h then 1 else 0)) * hdrWidth h

/-- A header failure names the field: its first byte's offset and its value (13 R305). -/
def hdrFail (h : BitVec 512) (off size : Nat) : LoadFail :=
  ⟨1, off, bf h (8 * off) (8 * size) % 2 ^ 32, 0xFFFF, 0xFF, 0xFF⟩

/-- The checks of the header in order: each field, then the whole-header conditions. `bwBytes` are the bytes of the berth
ways of the quays the rectangle includes, `first` the partition's first physical strip. -/
def headerFail (h : BitVec 512) (bwBytes first : Nat) : Option LoadFail :=
  let f (off size : Nat) : Nat := bf h (8 * off) (8 * size)
  let last := hdrStrip h + hdrSpan h (hdrCol h) - 1
  firstFail
    [(f 0 4 ≠ 0x48524754, hdrFail h 0 4), (f 4 2 ≠ 1, hdrFail h 4 2), (95 < f 6 1, hdrFail h 6 1),
     (96 < f 7 1 ∨ 96 < f 6 1 + f 7 1, hdrFail h 7 1), (47 < f 8 1, hdrFail h 8 1), (7 < f 9 1, hdrFail h 9 1),
     (f 0xA 2 = 0 ∨ 96 < f 0xA 2, hdrFail h 0xA 2), (15 < f 0xC 1, hdrFail h 0xC 1),
     (15 < f 0xD 1 ∨ f 0xD 1 % 2 = 0, hdrFail h 0xD 1), (3 < f 0xE 1, hdrFail h 0xE 1), (63 < f 0xF 1, hdrFail h 0xF 1),
     (f 0x10 4 % 32 ≠ 0 ∨ 32768 < f 0x10 4, hdrFail h 0x10 4), (f 0x14 4 % 32 ≠ 0 ∨ bwBytes < f 0x14 4, hdrFail h 0x14 4),
     (64 < f 0x18 2, hdrFail h 0x18 2), (1023 < f 0x1A 2 || !b8Assigned (f 0x1A 1), hdrFail h 0x1A 2),
     (f 0x1C 4 ≠ 0xFFFFFFFF ∧ f 0x1C 4 % 4 ≠ 0, hdrFail h 0x1C 4), (bf h 298 22 ≠ 0, hdrFail h 0x20 8),
     (f 0x28 8 / 2 ^ (min 64 (rodSum (hdrWidths h))) ≠ 0, hdrFail h 0x28 8), (7 < f 0x30 2, hdrFail h 0x30 2),
     (0xFFF < f 0x32 2, hdrFail h 0x32 2), (0xFF < f 0x34 2, hdrFail h 0x34 2), (f 0x36 2 ≠ 0, hdrFail h 0x36 2),
     ((crc32 h 480).toNat ≠ f 0x3C 4, hdrFail h 0x3C 4),
     (!rodsOk (hdrWidths h), hdrFail h 0x20 8),
     (hdrRows h = 0 && !hdrQn h && !hdrQs h, hdrFail h 7 1),
     ((first + hdrStrip h) / 12 ≠ (first + last) / 12, hdrFail h 0xA 2),
     (hdrDiscard h && !hdrIdem h, hdrFail h 0xC 1), (hdrDiscard h && hdrChans h != 0, hdrFail h 0xC 1),
     (hdrImage h ≠ hdrCells h * (usedCtxs h).length * 320, hdrFail h 0x38 4)]

/-! The cells of a region (02 R57). -/

/-- Rows of a region placed at origin row `row`, as place fields have them, north to south. -/
def rowsOf (h : BitVec 512) (row : Nat) : List Nat :=
  (if hdrQn h then [126] else []) ++ (List.range (hdrRows h)).map (row + ·) ++ (if hdrQs h then [127] else [])
/-- Place fields of the cells of a region placed at an origin, in the order of the images. -/
def placesOf (h : BitVec 512) (strip row col : Nat) : List Nat :=
  (rowsOf h row).flatMap fun r => (List.range (hdrWidth h)).map fun i =>
    (strip + (col + i) / 8) * 1024 + (col + i) % 8 * 128 + r

/-! The image of a context (02 R48). -/

abbrev Img := BitVec 2560
def Img.trig (b : Img) (i : Nat) : Word := b.extractLsb' (64 * i) 32
def Img.inst (b : Img) (i : Nat) : Word := b.extractLsb' (64 * i + 32) 32
def Img.lit (b : Img) (i : Nat) : Word := b.extractLsb' (1024 + 32 * i) 32
def Img.route (b : Img) (i : Nat) : DWord := b.extractLsb' (1536 + 64 * i) 64
def Img.bind (b : Img) (i : Nat) : DWord := b.extractLsb' (1792 + 64 * i) 64
def Img.conf (b : Img) (i : Nat) : BitVec 16 := b.extractLsb' (2048 + 16 * i) 16
def Img.ctl (b : Img) : DWord := b.extractLsb' 2304 64

/-- The context an image gives (01 R22). -/
def Img.toCtx (b : Img) : Ctx :=
  { Ctx.empty with
    trig := .ofFn fun i => b.trig i.val, inst := .ofFn fun i => b.inst i.val, lits := .ofFn fun i => b.lit i.val,
    routes := .ofFn fun i => b.route i.val, binds := .ofFn fun i => b.bind i.val, conf := .ofFn fun i => b.conf i.val,
    ctl := b.ctl }

/-! Operand shapes (03 R71, R76). -/

/-- What a field of a shape is. -/
inductive Role where
  | s | i | f | d | w | h | o | z | n
  deriving DecidableEq, Repr

/-- The roles of a, b, x, y. -/
structure Shape where
  a : Role
  b : Role
  x : Role
  y : Role
  deriving DecidableEq, Repr

def shZ : Shape := ⟨.z, .z, .n, .n⟩
def shO : Shape := ⟨.z, .z, .d, .d⟩
def shI : Shape := ⟨.z, .i, .d, .d⟩
def shU : Shape := ⟨.s, .z, .d, .d⟩
def shB : Shape := ⟨.s, .s, .d, .d⟩
def shBW : Shape := ⟨.s, .s, .w, .d⟩
def shUI : Shape := ⟨.s, .i, .d, .d⟩
def shUF : Shape := ⟨.s, .z, .d, .f⟩
def shBF : Shape := ⟨.s, .s, .d, .f⟩
def shUIF : Shape := ⟨.s, .i, .d, .f⟩
def shUIW : Shape := ⟨.s, .i, .w, .f⟩
def shKU : Shape := ⟨.s, .z, .n, .n⟩
def shKB : Shape := ⟨.s, .s, .n, .n⟩
def shKI : Shape := ⟨.s, .i, .n, .n⟩
def shKF : Shape := ⟨.s, .z, .n, .f⟩
def shNIF : Shape := ⟨.z, .i, .n, .f⟩
def shBN : Shape := ⟨.z, .i, .h, .f⟩
def shPF : Shape := ⟨.f, .f, .n, .f⟩
def shPO : Shape := ⟨.s, .s, .o, .n⟩
def shSF : Shape := ⟨.s, .s, .n, .f⟩

/-- The shape of an opcode; none for a reserved or pilot opcode (03 R74, R76, R86). -/
def shapeOf (op : Nat) : Option Shape :=
  if op < 0x10 then
    [some shZ, some shU, some shBF, some shUF, some shB, some shB, some shB, some shB, some shB, some shUIF, some shUIW,
      some shU, some shU, some shBF, some shUF, none].getD op none
  else if op < 0x90 then
    if (0x2C ≤ op ∧ op < 0x30) ∨ (0x6C ≤ op ∧ op < 0x70) then some shBW
    else if (0x40 ≤ op ∧ op < 0x44) ∨ 0x84 ≤ op then some shU
    else some shB
  else if op < 0xA0 then
    [some shUF, some shUIF, some shUIF, some shUF, some shUF, some shUF, some shUF, some shBF, some shKF, some shPF,
      some shI].getD (op - 0x90) none
  else if op < 0xB0 then
    [some shBN, some shKB, some shPO, some shU, some shU, some shB, some shUI, some shU, some shU, some shSF, some shB,
      some shKU, some shUF, some shUI, some shI, some shKI].getD (op - 0xA0) none
  else if op < 0xC0 then
    [some shNIF, some shI, some shKI, some shI, some shUIF, some shO, some shI, some shKI, some shKU, some shKI, some shU,
      some shKU, some shZ, some shKF].getD (op - 0xB0) none
  else if op < 0xD0 then
    [some shB, some shB, some shUI, some shUI, some shB, some shB, some shBF, some shBF, some shU, some shUI, some shU,
      some shKB, some shB, some shU, some shKU, some shU].getD (op - 0xC0) none
  else [some shB, some shU, some shU, some shU].getD (op - 0xD0) none

/-- The fields of format C (03 R66). -/
def cOp (w : Word) : Nat := bf w 24 8
def cA (w : Word) : Nat := bf w 19 5
def cB (w : Word) : Nat := bf w 14 5
def cX (w : Word) : Nat := bf w 9 5
def cY (w : Word) : Nat := bf w 4 5
def cPopa (w : Word) : Bool := bit w 3
def cPopb (w : Word) : Bool := bit w 2
def cTr (w : Word) : Nat := bf w 0 2

/-- A select names an in-port. -/
def selIn (v : Nat) : Bool := 8 ≤ v && v < 12
/-- A field's value fits its role. -/
def roleOk (r : Role) (v : Nat) : Bool :=
  match r with
  | .z => v == 0
  | .n => v == 17
  | .d => v ≤ 17 && !(8 ≤ v && v < 12)
  | .w => v < 8
  | .h => 8 ≤ v && v < 12
  | .o => 12 ≤ v && v < 16
  | _ => true

/-- A number-format code (03 R78). -/
def fmtAssigned (n : Nat) : Bool := n < 4 || (8 ≤ n && n < 16)

/-- Values of immediates and small fields that an instruction's definition assigns, where no list of R76, R175 or R189
speaks of them (03 R72, 06 R142). -/
def valueOk (op b y : Nat) : Bool :=
  if op = 0x02 then y < 16 && (y < 8 || y == 8)
  else if op = 0x03 ∨ op = 0xAC then y < 8
  else if op = 0x0D then y < 16 && y % 4 != 0 && y / 4 < 3
  else if op = 0x0E then y < 16 && y % 4 != 0
  else if op = 0x90 ∨ op = 0x93 ∨ op = 0x94 ∨ op = 0x97 then y < 4
  else if op = 0x91 then fmtAssigned b && fmtAssigned y && b != y && (b < 4 || y < 4)
  else if op = 0x92 then 8 ≤ b && b < 16 && 8 ≤ y && y < 16 && b != y
  else if op = 0x95 ∨ op = 0x96 then 8 ≤ y && y < 16
  else if op = 0x98 then y / 8 < 3 && (y / 8 != 2 || y % 8 == 0)
  else if op = 0x99 then b < 16 && y < 8
  else if op = 0x9A then b < 8 || b == 8
  else if op = 0xA0 then y < 16
  else if op = 0xA6 then 1 ≤ b && b ≤ 7
  else if op = 0xAD then b < 8
  else if op = 0xAE then b ≤ 12
  else if op = 0xB0 then y < 2
  else if op = 0xB4 then y < 3
  else if op = 0xB6 then b ≤ 6
  else true

/-- Code 4: the operand shape and field values (03 R71, R72). -/
def shapeFits (h : Shape) (w : Word) : Bool :=
  let op := cOp w
  let two := (h.x == .d || h.x == .w) && h.y == .d
  roleOk h.a (cA w) && roleOk h.b (cB w) && roleOk h.x (cX w) && roleOk h.y (cY w) && valueOk op (cB w) (cY w) &&
    !(two && cX w == 17 && cY w != 17 && op != 0xBA) && !(two && cX w == cY w && cX w != 17)

/-- Code 5: the tag action (03 R70, with the ta constraints of R76). -/
def tagFits (h : Shape) (w : Word) : Bool :=
  let op := cOp w
  let noDst := h.x == .n && h.y != .d && op != 0xA9
  !(cPopa w && !(h.a == .s && selIn (cA w))) && !(cPopb w && !(h.b == .s && selIn (cB w))) &&
    !(cPopa w && cPopb w && cA w == cB w) && !(cTr w == 1 && h.b != .s) && !(cTr w != 0 && noDst) &&
    !((op == 0x00 || op == 0xBC || op == 0xA0 || op == 0x99) && bf w 0 4 != 0) &&
    !((op == 0xA7 || op == 0xA5) && cTr w != 0) && !(op == 0xAA && !(cPopa w && cPopb w)) &&
    !(op == 0xA1 && !(cPopa w && (cPopb w || !selIn (cB w))))

/-- The literals of a stream descriptor (08 R200). -/
def streamDescOk (k : Nat → Word) (b : Nat) : Bool :=
  bf (k b) 0 5 == 0 && (List.range 4).all (fun i => bf (k (b + 2 + i)) 0 5 == 0) && bf (k (b + 6)) 0 2 < 2 &&
    bf (k (b + 6)) 8 24 == 0 && k (b + 7) == 0

/-- What a slot's checks need of its surroundings. -/
structure Around where
  h : BitVec 512
  count : Nat
  quay : Bool
  top : Bool
  bottom : Bool

/-- The out-port destinations a slot names, ascending; BERTH names the port of its handle. -/
def outPorts (h : Shape) (w : Word) : List Nat :=
  (List.range 4).filter fun n =>
    ((h.x == .d || h.x == .o) && cX w == 12 + n) || (h.y == .d && cY w == 12 + n) || (h.x == .h && cX w == 8 + n)

/-- A valid slot of the context holds RACE. -/
def imgRaces (b : Img) : Bool := (List.range 16).any fun i => trgV (b.trig i) && cOp (b.inst i) == 0xAD

/-- Code 6: the instruction constraints (03 R76, 06 R142, R159, 07 R170, R175, 08 R189). -/
def constraintOk (e : Around) (b : Img) (t w : Word) : Bool :=
  let op := cOp w
  !(op == 0xAA && !(selIn (cA w) && selIn (cB w) && cA w != cB w)) &&
  !(op == 0xA1 && !(selIn (cA w) && (if cPopb w then selIn (cB w) else cB w == 0))) &&
  !(op == 0xA9 && !(0 < cY w && cY w < 16 &&
      (List.range 4).all fun n => cY w / 2 ^ n % 2 == 0 || rtV (b.route n))) &&
  !(op == 0xAD && !(selIn (cA w) && bdDcnt (b.bind (cA w - 8)) != 0 && cB w % 8 + 1 ≤ bdDcnt (b.bind (cA w - 8)))) &&
  !(trgCg t && imgRaces b) && !(op == 0xB9 && 3 < cB w) && !(op == 0xBD && 4 < cY w) &&
  !(op == 0xBA && !(if e.bottom then cX w == 17 else 12 ≤ cX w && cX w < 16)) &&
  !(op == 0xBA && !(cY w == 17 || (12 ≤ cY w && cY w < 16))) &&
  !(op == 0xBA && !e.top && !bit t 13) && !(op == 0xBA && !e.top && ctlMatrix b.ctl && cA w == 9) &&
  !(op == 0xBB && !e.bottom) && !(trgMk t && (op == 0xB8 || op == 0xBA || op == 0xBB)) &&
  !(0xC0 ≤ op && (match shapeOf op with | some h => (h.x == .d && cX w == 16) || (h.y == .d && cY w == 16) | none => false)) &&
  !((op == 0xC2 || op == 0xC3) && !(cB w ≤ 8 && streamDescOk b.lit (cB w))) && !(op == 0xC9 && 15 < cB w) &&
  !(op == 0xC6 && 12 ≤ cY w % 16) && !(op == 0xC7 && 1 < cY w)

/-- Code 7: the placement (03 R77). -/
def placementOk (e : Around) (b : Img) (w : Word) : Bool :=
  let op := cOp w
  !(0xC0 ≤ op && !e.quay) && !(0xB8 ≤ op && op ≤ 0xBC && !ctlMatrix b.ctl) && !(op == 0xBD && !bit e.h 385) &&
    !(0xB0 ≤ op && op ≤ 0xB4 && !hdrBeacon e.h) && !(0xCC ≤ op && op ≤ 0xCF && hdrDiscard e.h)

/-- Code 3: the trigger word (03 R64). -/
def triggerOk (b : Img) (h : Shape) (t w : Word) : Bool :=
  bf t 1 2 == 0 && (trgPv t &&& ~~~trgPm t) == 0 && (trgTme t || (bf t 9 2 == 0 && trgTmv t == 0)) &&
    (!trgTme t || trgRdy t (trgTmp t)) && four.all (fun n => !trgRdy t n || bdEn (b.bind n.val)) &&
    (!trgMk t || bf b.ctl 1 4 != 0) &&
    (!trgCg t || (List.range 4).any fun n => bdEn (b.bind n) && bdDcnt (b.bind n) != 0) &&
    !(h.a == .s && selIn (cA w) && !trgRdy t (Fin.ofNat 4 (cA w))) &&
    !(h.b == .s && selIn (cB w) && !trgRdy t (Fin.ofNat 4 (cB w)))

/-- The checks of slot i (03 R86, item 3). A slot that is not valid is not examined. -/
def slotFail (e : Around) (place ctx off : Nat) (b : Img) (i : Nat) : Option LoadFail :=
  let t := b.trig i
  let w := b.inst i
  let bad (code : Nat) : LoadFail := ⟨code, off + 8 * i + 4, w.toNat, place, ctx, i⟩
  if !trgV t then none
  else
    match shapeOf (cOp w) with
    | none => some (bad 2)
    | some h =>
      firstFail
        [(!triggerOk b h t w, ⟨3, off + 8 * i, t.toNat, place, ctx, i⟩), (!shapeFits h w, bad 4), (!tagFits h w, bad 5),
         (!constraintOk e b t w, bad 6), (!placementOk e b w, bad 7),
         ((outPorts h w).any fun n => !rtV (b.route n), bad 8)]

/-- The rows of conflict matrix that are not symmetric (02 R53). -/
def conflictBad (b : Img) (i : Nat) : Bool :=
  (List.range 16).any fun j => i != j && bit (b.conf i) j != bit (b.conf j) i

/-- The checks of a context before its slots, and then its slots (03 R86, item 2). -/
def ctxFail (e : Around) (place ctx off : Nat) (b : Img) : Option LoadFail :=
  let c := b.ctl
  let at_ (code rel : Nat) (v : Nat) : LoadFail := ⟨code, off + rel, v % 2 ^ 32, place, ctx, 0xFF⟩
  firstFail
    ([(decide (bf c 36 28 ≠ 0), at_ 8 0x120 c.toNat), (!bit (hdrCtxs e.h) (ctlNctx c).val, at_ 8 0x120 c.toNat),
      (ctlMatrix c && (!bit e.h 385 || e.quay || (!e.top && !bdEn (b.bind 1))), at_ 8 0x120 c.toNat)] ++
     (List.range 4).flatMap (fun n =>
       let r := b.route n
       [(decide (bf r 24 40 ≠ 0) || (96 ≤ rtDest r % 128 && rtDest r % 128 ≤ 125), at_ 8 (0xC0 + 8 * n) r.toNat),
        (e.count ≤ rtDest r / 1024, at_ 11 (0xC0 + 8 * n) r.toNat)]) ++
     (List.range 4).map (fun n =>
       let d := b.bind n
       (decide (bf d 38 26 ≠ 0) || decide (1024 < bdBase d + bdCap d), at_ 8 (0xE0 + 8 * n) d.toNat)) ++
     (List.range 16).map (fun i => (conflictBad b i, at_ 8 (0x100 + i / 2 * 4) (bf b (2048 + i / 2 * 32) 32))) ++
     (List.range 6).map (fun i => (decide (bf b (2368 + 32 * i) 32 ≠ 0), at_ 9 (0x128 + 4 * i) (bf b (2368 + 32 * i) 32))) ++
     [(four.any fun n => ctlMset c n && !bdEn (b.bind n.val), at_ 8 0x120 c.toNat),
      (four.any fun n => ctlMfan c n && !rtV (b.route n.val), at_ 8 0x120 c.toNat)]) <|>
  (List.range 16).findSome? (slotFail e place ctx off b)

/-! Rings of a cell (02 R52). -/

/-- Enabled rings of the contexts of a cell, as first slot and capacity. -/
def ringsIn (xs : List (Fin 4 × Img)) : List (Nat × Nat) :=
  xs.flatMap fun x => ((List.range 4).filter fun n => bdEn (x.2.bind n)).map fun n => (bdBase (x.2.bind n), bdCap (x.2.bind n))
/-- Two of the rings overlap. -/
def ringsOverlap : List (Nat × Nat) → Bool
  | [] => false
  | r :: t => (t.any fun q => r.1 < q.1 + q.2 && q.1 < r.1 + r.2) || ringsOverlap t
/-- The cell-wide ring checks (log 26: the record names the first binding of the cell's first context). -/
def cellFail (h : BitVec 512) (place off : Nat) (xs : List (Fin 4 × Img)) : Option LoadFail :=
  let w := match xs with
    | x :: _ => bf (x.2.bind 0) 0 32
    | [] => 0
  let rs := ringsIn xs
  firstFail
    [(ringsOverlap rs, ⟨8, off + 0xE0, w, place, 0xFF, 0xFF⟩),
     (hdrBerth h < 32 * rs.foldl (fun n r => n + r.2) 0, ⟨8, off + 0xE0, w, place, 0xFF, 0xFF⟩)]

/-! The region's images. -/

/-- A cell's images: its place, the offset of the first, and its used contexts. -/
structure CellImg where
  place : Nat
  off : Nat
  ctxs : List (Fin 4 × Img)
  deriving DecidableEq, Repr

/-- The images of a region's cells, from the bytes after its header (02 R57). -/
def cellImgs (h : BitVec 512) (used : List (Fin 4)) : List Nat → Nat → List Byte → List CellImg
  | [], _, _ => []
  | p :: ps, off, bs =>
    let n := 320 * used.length
    ⟨p, off, (List.range used.length).map fun j => (used.getD j 0, ofBytes 2560 ((bs.drop (320 * j)).take 320))⟩ ::
      cellImgs h used ps (off + n) (bs.drop n)

/-- Where a cell's image lies: the row of its place field and the region's rows. -/
def aroundOf (h : BitVec 512) (row count place : Nat) : Around :=
  let r := place % 128
  { h := h, count := count, quay := 126 ≤ r, top := r == row, bottom := r + 1 == row + hdrRows h }

/-- The first failure of a cell. -/
def CellImg.fail (c : CellImg) (h : BitVec 512) (row count : Nat) : Option LoadFail :=
  ((List.range c.ctxs.length).findSome? fun j =>
    match c.ctxs[j]? with
    | some x => ctxFail (aroundOf h row count c.place) c.place x.1.val (c.off + 320 * j) x.2
    | none => none) <|> cellFail h c.place c.off c.ctxs

/-! Requests larger than their rings (06 R144). -/

/-- The berth requests a context can make: the slot or 0xFF for the marker fan, the port and the count. -/
def berthReqs (x : Ctx) : List (Nat × Fin 4 × Nat) :=
  (sixteen.filter fun i => trgV x.trig[i] && cOp x.inst[i] == 0xA0).map (fun i =>
    (i.val, Fin.ofNat 4 (cX x.inst[i]), bf x.inst[i] 4 4 * 32 + cB x.inst[i] + 1)) ++
  (four.filter (ctlMfan x.ctl)).map fun n => (0xFF, n, 1)

/-- The first request of a context that its target cannot hold. `cap` gives the capacity at a place, context and port, none
where the check is not made. -/
def berthFail (cap : Nat → Nat → Nat → Option Nat) (place ctx off : Nat) (x : Ctx) : Option LoadFail :=
  (berthReqs x).findSome? fun r =>
    let t := x.routes[r.2.1]
    match cap (rtDest t) (rtCtx t).val (rtPort t).val with
    | some c =>
      if c < r.2.2 then
        some ⟨10, if r.1 = 0xFF then off + 0x120 else off + 8 * r.1 + 4,
          if r.1 = 0xFF then bf x.ctl 0 32 else x.inst[Fin.ofNat 16 r.1].toNat, place, ctx, r.1⟩
      else none
    | none => none

/-- The capacity of an in-port: 0 when its binding is not enabled. -/
def bindCap (d : DWord) : Nat := if bdEn d then bdCap d else 0

/-- Capacity of a target within the region. -/
def imgCap (cs : List CellImg) (place ctx port : Nat) : Option Nat :=
  (cs.find? fun c => c.place == place).map fun c =>
    match c.ctxs.find? fun x => x.1.val == ctx with
    | some x => bindCap (x.2.bind port)
    | none => 0

/-- The first failure of a region's images. -/
def imagesFail (h : BitVec 512) (row count : Nat) (cs : List CellImg) : Option LoadFail :=
  (cs.findSome? fun c => c.fail h row count) <|>
  cs.findSome? fun c => (List.range c.ctxs.length).findSome? fun j =>
    match c.ctxs[j]? with
    | some x => berthFail (imgCap cs) c.place x.1.val (c.off + 320 * j) x.2.toCtx
    | none => none

/-! The state a load leaves (01 R21, R22, R29). -/

/-- The abacus of a header (01 R13). -/
def abacusOf (h : BitVec 512) : Abacus :=
  let w := hdrWidths h
  let lo (k : Nat) : Nat := (List.range k).foldl (fun n j => n + rodBits w j) 0
  { Abacus.empty with
    widths := .ofFn fun k => rodBits w k.val
    limits := .ofFn fun k => bf (hdrLimits h) (lo k.val) (rodBits w k.val) + 1 }

/-- A cell after configuration load. -/
def cellOf (h : BitVec 512) (region : Nat) (xs : List (Fin 4 × Img)) : Cell :=
  let c := xs.foldl (fun (c : Cell) x => c.setCtx x.1 x.2.toCtx) Cell.reset
  { c with
    region := some region, p := ctlPinit c.ctxs[(0 : Fin 4)].ctl, cfmt := hdrCfmt h, ab := abacusOf h,
    tagNext := hdrTagBase h, tagOld := hdrTagBase h, tagSize := hdrTagSize h, mx := .reset (hdrCfmt h) }

/-- The save size of a region, fixed by its header (13 R313). -/
def saveSize (h : BitVec 512) : Nat :=
  let up (v : Nat) : Nat := (v + 4095) / 4096 * 4096
  let qr := (if hdrQn h then 1 else 0) + (if hdrQs h then 1 else 0)
  if hdrDiscard h then 0
  else 4096 + up (hdrImage h) + 40960 * hdrCells h + 4096 * (qr * hdrWidth h) + up (hdrQuay h) * (qr * hdrSpan h (hdrCol h))

/-- The load-fault record (13 R305). -/
def State.loadFault (s : State) (part strip vd rid : Nat) (stage : Nat) (hdrVa : DWord) (f : LoadFail) : State :=
  s.post part strip none (recBody 2 vd rid
    [(8, 1, stage), (9, 1, f.code), (10, 2, f.place), (12, 1, f.ctx), (13, 1, f.slot), (16, 4, f.off), (20, 4, f.word),
     (24, 8, hdrVa.toNat)])

end Sys2Proof.Machine
end

