-- ==== Sys2Proof/Machine/Regions.lean ====
section
/-! DEFINITION. Regions as the FAB commands and their events treat them: placing, stitching, starting, halting, draining,
saving, restoring and killing (09 R240 to R242; 10 R253, R263; 13 R304 to R314; 16 R363 to R368). -/

namespace Sys2Proof.Machine

/-- A region's key in the region table. -/
def regionKey (part rid : Nat) : Nat := part * 2048 + rid

/-- The code RSTAT reports (09 R241). -/
def RState.code : RState → Nat
  | .free => 0 | .loading => 1 | .loaded => 2 | .running => 3 | .stopped => 4 | .saving => 5 | .saved => 6
  | .restoring => 7 | .drained => 8 | .killing => 9

/-- A region that its cells can be reached in (13 R311). -/
def RState.placed : RState → Bool
  | .loaded | .running | .stopped | .drained => true
  | _ => false

/-! Reading through a translation, granule by granule. -/

/-- n bytes at a virtual address, or the offset of the first that cannot be read and whether it is poisoned. -/
def State.vbytes (s : State) (q vd : Nat) (user : Bool) (va : DWord) : Nat → Nat → Nat → Except (Nat × Bool) (List Byte) × State
  | 0, _, _ => (.ok [], s)
  | fuel + 1, n, at_ =>
    if n = 0 then (.ok [], s)
    else
      let m := min n (65536 - va.toNat % 65536)
      match s.translate q vd user va .r with
      | (.error _, s1) => (.error (at_, false), s1)
      | (.ok f, s1) =>
        if s1.poisonedAt (f.pa va) m then
          (.error (at_ + ((List.range m).find? fun i => s1.poison.contains ((f.pa va + i) / 16)).getD 0, true), s1)
        else
          let r := s1.qread q vd f.key f.pol (f.pa va) m
          match r.2.vbytes q vd user (va + BitVec.ofNat 64 m) fuel (n - m) (at_ + m) with
          | (.ok bs, s2) => (.ok (r.1 ++ bs), s2)
          | e => e

/-- n bytes read for a pilot in supervisor mode. -/
def State.pbytes (s : State) (p : Nat) (user : Bool) (va : DWord) (n : Nat) : Except (Nat × Bool) (List Byte) × State :=
  s.vbytes (s.pilotQuay p) (s.pilotVd p) user va (n / 65536 + 2) n 0

/-! The cells of a region. -/

/-- Place fields of a region's cells, in the order of its images, and its physical cells. -/
def Region.places (r : Region) : List Nat := placesOf r.hdr r.strip r.row r.col
def State.regCells (s : State) (r : Nat) : List Nat :=
  let g := s.region r
  g.places.map fun p => s.atPlace g.part p
/-- A change of every cell of a region. -/
def State.eachCell (s : State) (r : Nat) (f : State → Nat → State) : State := (s.regCells r).foldl f s
def State.modCells (s : State) (r : Nat) (f : Cell → Cell) : State := s.eachCell r fun s c => s.modCell c f

/-- Quays that a rectangle includes, by strip. -/
def quaysFor (h : BitVec 512) (first strip col : Nat) : List Nat :=
  (List.range (hdrSpan h col)).flatMap fun i =>
    (if hdrQn h then [2 * (first + strip + i)] else []) ++ (if hdrQs h then [2 * (first + strip + i) + 1] else [])
def State.regQuays (s : State) (r : Nat) : List Nat :=
  let g := s.region r
  quaysFor g.hdr (s.part g.part).first g.strip g.col

/-- Physical strip of a region's origin, the source of its records (13 R303). -/
def State.regStrip (s : State) (r : Nat) : Nat := (s.part (s.region r).part).first + (s.region r).strip

/-- A record about a region. -/
def State.regRecord (s : State) (r ty : Nat) (fs : List (Nat × Nat × Nat)) : State :=
  s.post (s.region r).part (s.regStrip r) none (recBody ty (s.region r).vd (s.region r).rid fs)

/-- The command-done record of 13 R308. -/
def State.doneRecord (s : State) (r fn : Nat) : State :=
  let g := s.region r
  s.regRecord r 0xA [(8, 1, fn), (9, 1, g.st.code), (12, 4, saveSize g.hdr / 4096)]

/-- An asynchronous command on a region has finished. -/
def State.asyncEnd (s : State) (r : Nat) : State :=
  { s with pilots := s.pilots.map fun p => (p.1, { p.2 with async := p.2.async.filter fun x => x != r }) }

/-! Objects in berth ways (10 R253). -/

/-- Slots of a quay's berth ways. -/
def Quay.ways (q : Quay) : Nat := 65536 * q.bw
/-- A run of n slots from base is free. -/
def Quay.runFree (q : Quay) (base n : Nat) : Bool :=
  base + n ≤ q.ways && q.areas.all fun a => base + n ≤ a.base || a.base + a.len ≤ base
/-- The lowest-addressed free run of n slots. -/
def Quay.findRun (q : Quay) (n : Nat) : Option Nat :=
  ((0 :: q.areas.map fun a => a.base + a.len).filter fun b => q.runFree b n).foldl (fun o b => match o with
    | some x => some (min x b)
    | none => some b) none
/-- An object placed: its slots free, their bits empty, and their data words zero (DESIGN CHOICE, log 6). -/
def Quay.place (q : Quay) (base n : Nat) (owner : Sum Nat Nat) : Quay :=
  { q with areas := ⟨base, n, owner⟩ :: q.areas, slots := q.slots.filter fun x => x.1 < base || base + n ≤ x.1 }
def Quay.unplace (q : Quay) (owner : Sum Nat Nat) : Quay := { q with areas := q.areas.filter fun a => a.owner != owner }

/-- Bytes of the berth ways of the quays that a header includes: the least of them. A header that includes no quay row has the most
that any quay can have, 8 ways, as its bound, where 02 R55 names no quay (DESIGN CHOICE, log 94). -/
def State.berthBytes (s : State) (part : Nat) (h : BitVec 512) : Nat :=
  let p := s.part part
  (((quaysFor h p.first (hdrStrip h) (hdrCol h)).filter fun q => q / 2 < p.first + p.count).map fun q =>
    32 * (s.quay q).ways).foldl min (32 * 65536 * 8)

/-- The rectangle lies in the partition (13, Placement). -/
def State.inPart (s : State) (part : Nat) (h : BitVec 512) (strip col : Nat) : Bool :=
  strip + hdrSpan h col ≤ (s.part part).count
/-- The number of a failing strip among the failing units. -/
def stripUnit (t : Nat) : Nat := 0x10000 + t
/-- No strip of the rectangle is failing or released, and no quay that it includes belongs to a fused slice (15 R335; 16 R371, R372). -/
def State.sound (s : State) (first : Nat) (h : BitVec 512) (strip col : Nat) : Bool :=
  (List.range (hdrSpan h col)).all (fun i =>
      !s.host.failing.contains (stripUnit (first + strip + i)) && !s.host.released.contains (first + strip + i)) &&
    (quaysFor h first strip col).all fun q => !s.host.fused.contains q
/-- It lies on free cells, and each quay has room for its area. -/
def State.fits (s : State) (part : Nat) (h : BitVec 512) (strip row col : Nat) : Bool :=
  s.inPart part h strip col && s.sound (s.part part).first h strip col &&
    (placesOf h strip row col).all (fun p => ((s.cell (s.atPlace part p)).region).isNone) &&
    (quaysFor h (s.part part).first strip col).all fun q => ((s.quay q).findRun (hdrQuay h / 32)).isSome

/-- The region takes its cells and its quay areas. -/
def State.occupy (s : State) (r : Nat) : State :=
  let n := hdrQuay (s.region r).hdr / 32
  let s1 := s.eachCell r fun s c => s.setCell c { Cell.reset with region := some r }
  (s1.regQuays r).foldl (fun s q => s.modQuay q fun u => u.place ((u.findRun n).getD 0) n (.inl r)) s1

/-- The region gives up its cells and areas. -/
def State.vacate (s : State) (r : Nat) : State :=
  let s1 := s.eachCell r fun s c =>
    if (s.cell c).region = some r then
      let s2 := if (s.cell c).acted then s.modQuay (2 * cellStrip c) fun q => { q with granted := s.cellVd c :: q.granted } else s
      { s2 with cells := tblDel s2.cells c }
    else s
  (s1.regQuays r).foldl (fun s q => s.modQuay q fun u => u.unplace (.inl r)) s1

/-- The images read again and checked: a failure, or the cells' images (09 R242, 13 R305). -/
def State.readImages (s : State) (r : Nat) : Except LoadFail (List CellImg) × State :=
  let g := s.region r
  match s.pbytes g.ldr false (g.hdrVa + 64) (hdrImage g.hdr) with
  | (.error (n, _), s1) =>
    let per := 320 * max 1 (usedCtxs g.hdr).length
    (.error ⟨12, 64 + n, 0, g.places.getD (n / per) 0xFFFF, ((usedCtxs g.hdr).getD (n % per / 320) 0).val, 0xFF⟩, s1)
  | (.ok bs, s1) =>
    let cs := cellImgs g.hdr (usedCtxs g.hdr) g.places 64 bs
    match imagesFail g.hdr g.row (s.part g.part).count cs with
    | some f => (.error f, s1)
    | none => (.ok cs, s1)

/-- The cells of a region take their configuration and their owned descriptors (01 R21, R29; 08 R206). -/
def State.configure (s : State) (r : Nat) (cs : List CellImg) : State :=
  let g := s.region r
  let s1 := cs.foldl (fun s c => s.setCell (s.atPlace g.part c.place) (cellOf g.hdr r c.ctxs)) s
  g.own.foldl (fun s o =>
    s.modCell (s.atPlace g.part (g.places.getD o.1 0)) fun c => { c with owned := vset c.owned (Fin.ofNat 16 o.2.1) o.2.2 }) s1

/-! Stitching (13 R311, 14 R318, 06 R144). -/

/-- Offset of an image of a region: of cell k and the used context x. -/
def imgOff (h : BitVec 512) (k : Nat) (x : Fin 4) : Nat :=
  let u := usedCtxs h
  64 + (k * u.length + (u.findIdx? (· == x)).getD 0) * 320

/-- The routes of a region that are present: cell number, place, context, port, descriptor. -/
def State.regRoutes (s : State) (r : Nat) : List (Nat × Nat × Fin 4 × Fin 4 × DWord) :=
  let g := s.region r
  (List.range g.places.length).flatMap fun k =>
    let p := g.places.getD k 0
    (usedCtxs g.hdr).flatMap fun x =>
      (four.filter fun n => rtV ((s.cell (s.atPlace g.part p)).ctxs[x].routes[n])).map fun n =>
        (k, p, x, n, (s.cell (s.atPlace g.part p)).ctxs[x].routes[n])

/-- A cell of a partition, on a strip that it has not released (15 R333, R335). -/
def State.within (s : State) (part c : Nat) : Bool := s.partOf (cellStrip c) == some part && !s.host.released.contains (cellStrip c)
/-- The region that a route of a partition reaches. -/
def State.reaches (s : State) (part : Nat) (d : DWord) : Option Nat :=
  if s.within part (s.atPlace part (rtDest d)) then (s.cell (s.atPlace part (rtDest d))).region else none
/-- A route reaches a region that is not placed, or no region. -/
def State.unreached (s : State) (r : Nat) : Bool :=
  (s.regRoutes r).any fun x => match s.reaches (s.region r).part x.2.2.2.2 with
    | some t => !(s.region t).st.placed
    | none => true

/-- A route that 13 R311 forbids. -/
def State.routeForbidden (s : State) (r : Nat) (d : DWord) : Bool :=
  match s.reaches (s.region r).part d with
  | some t => t != r && (hdrDiscard (s.region r).hdr || hdrDiscard (s.region t).hdr)
  | none => false

/-- The first failure at stitching: forbidden routes, then requests larger than their rings. -/
def State.stitchFail (s : State) (r : Nat) : Option LoadFail :=
  let g := s.region r
  ((s.regRoutes r).findSome? fun x =>
    if s.routeForbidden r x.2.2.2.2 then
      some ⟨11, imgOff g.hdr x.1 x.2.2.1 + 0xC0 + 8 * x.2.2.2.1.val, bf x.2.2.2.2 0 32, x.2.1, x.2.2.1.val, 0xFF⟩
    else none) <|>
  (List.range g.places.length).findSome? fun k =>
    let p := g.places.getD k 0
    (usedCtxs g.hdr).findSome? fun x =>
      berthFail (fun t tc tp =>
        if s.within g.part (s.atPlace g.part t) && (s.cell (s.atPlace g.part t)).region.isSome then
          some (bindCap ((s.cell (s.atPlace g.part t)).ctxs[Fin.ofNat 4 tc].binds[Fin.ofNat 4 tp]))
        else none) p x.val (imgOff g.hdr k x) ((s.cell (s.atPlace g.part p)).ctxs[x])

/-- The lane of a route is its virtual device (14 R318). -/
def laneSet (d : DWord) (vd : Nat) : DWord := if rtV d then (d &&& ~~~0xE00000#64) ||| BitVec.ofNat 64 (vd % 8 * 2 ^ 21) else d
def State.stitch (s : State) (r : Nat) : State :=
  s.modCells r fun c => { c with ctxs := c.ctxs.map fun x => { x with routes := x.routes.map fun d => laneSet d (s.region r).vd } }

/-! Starting (09 R242, 13 R310, 16 R363, R367). -/

/-- Drops what a cell was translating: its walks at the quay, and its translation. -/
def State.dropTrans (s : State) (c : Nat) : State :=
  let q := quayOf c
  let u := s.quay q
  let s1 := (s.setQuay q { u with walks := u.walks.filter (fun w => w.who != .cell c), queue := u.queue.filter fun w => w.who != .cell c }).modCell c
    fun x => { x with trans := none }
  let room := 16 - (s1.quay q).walks.length
  let next := (s1.quay q).queue.take room
  next.foldl (fun s w => s.walkRead q w) (s1.modQuay q fun u =>
    { u with walks := u.walks ++ next, queue := u.queue.drop room })

/-- Puts the saved channel requests of a region back (08 R219). -/
def State.requeueAll (s : State) (r : Nat) : State :=
  ((s.region r).requeue.foldl (fun s x => s.modQuay x.1 fun q =>
    if q.road.length < Config.quayRoad then { q with road := q.road ++ [x.2] } else { q with outside := q.outside ++ [x.2] }) s).modRegion r
    fun g => { g with requeue := [] }

/-- Sends the berth requests that waited at their requesters again (06 R169, 16 R367). -/
def State.rewaitAll (s : State) (r : Nat) : State :=
  ((s.region r).rewait.foldl (fun s b =>
    let d := s.routeCell b.src (Fin.ofNat 4 b.fctx) (Fin.ofNat 4 b.hnd)
    s.at (routeLat b.src d) clsRequest (entryLink b.src d * 16) (.berthRequestArrival (.cell d) { b with lat := routeLat b.src d })) s).modRegion r
    fun g => { g with rewait := [] }

/-- The region runs from the next clk on. -/
def State.goRegion (s : State) (r : Nat) : State :=
  let s1 := s.eachCell r fun s c =>
    let s2 := if isQuayCell c then s.dropTrans c else s
    s2.modCell c fun x => { x.thaw s.clk with stop := .clear }
  s1.modRegion r fun g =>
    { g with st := .running, gated := false, started := true, halt := none, expired := false, counter := g.quantum.toNat,
             runs := s.clk + 1 }

/-- The first clk of a start, in the order of 16 R367: the requests of roadsteads, those that waited for an entry, cancelled reads. -/
def State.firstClk (s : State) (r : Nat) : State := ((s.requeueAll r).rewaitAll r).eachCell r fun s c => s.reissue c

/-- RSTART in an accepted state: its status, and the state after it. -/
def State.startRegion (s : State) (r : Nat) : Int × State :=
  let g := s.region r
  if s.unreached r then (-3, s)
  else if g.started then (0, s.goRegion r)
  else
    match s.stitchFail r with
    | some f => (-8, s.loadFault g.part (s.regStrip r) g.vd g.rid 1 g.hdrVa f)
    | none => (0, (s.stitch r).goRegion r)

/-! Requests of a region that halts or ends. -/

def State.ofCell (s : State) (c : Nat) : List Req := s.reqs.filter fun r => r.cell == c

/-- A read that a halt can cancel: memory reads, CHR, CHST, and an ungranted nothing else (01 R30, 08 R219). -/
def ReqKind.cancels : ReqKind → Bool
  | .read | .chr _ | .chst _ => true
  | _ => false
/-- A CHR that its home quay has served has taken its token: it is answered (08 R212). -/
def Req.canCancel (r : Req) : Bool :=
  r.kind.cancels && match r.kind with
    | .chr _ => !r.served
    | _ => true

/-- Reads that shared the answer of a request are issued on their own. -/
def State.ungroup (s : State) (id : Nat) : State :=
  (s.reqs.filter fun r => r.group == some id && !r.served).foldl (fun s r =>
    (s.modReq r.id fun x => { x with group := none }).reqNext { r with group := none }) s

/-- A request on its way goes no further. -/
def State.recall (s : State) (r : Req) : State :=
  { s with
    arbs := s.arbs.map fun a => if a.1 / 1024 = 4 then a else (a.1, { a.2 with queue := a.2.queue.filter fun q => q.req != r.id })
    pend := s.pend.filter fun p => p.ev != r.serveEv }

/-- Cancels the reads of a cell; they wait for the restart. -/
def State.cancelReads (s : State) (c : Nat) : State :=
  ((s.ofCell c).filter fun r => r.canCancel && !r.held).foldl (fun s r =>
    let s1 := ((s.modReq r.id fun x =>
      { x with held := true, arrived := false, served := false, group := none, ans := 0, poison := false, done := 0, pre := [] }).recall r).ungroup r.id
    match r.kind with
    | .chr ch => s1.modChan ch fun k => if k.chrWait = some (.cell r.id) then { k with chrWait := none } else k
    | _ => s1) s

/-- A write, an atomic, a copy or a count change that has not been served is served now, and completes. -/
def State.finishReq (s : State) (r : Req) : State :=
  let s1 := if r.served || r.arrived then s
    else match r.kind with
      | .blkop hdr blk rel => (s.recall r).serveBlk r hdr blk rel
      | .chcl _ | .chw _ _ _ => (s.recall r).serveChan r
      | k => if k.isStore then (s.recall r).serveRest r else s
  match s1.req? r.id with
  | some x =>
    if !x.served || x.canCancel then s1
    else if x.poison then s1.reqFails x 0x20 0 x.va 0 0
    else s1.complete x
  | none => s1
def State.finishWrites (s : State) (c : Nat) : State :=
  ((s.ofCell c).filter fun r => !r.held).foldl (fun s r => match s.req? r.id with
    | some x => s.finishReq x
    | none => s) s

/-! Halting (16 R364, 13 R310, R312). -/

/-- A halt begins, unless one is under way. A command or a trap of the clk of an expiry takes its place as the cause. -/
def State.haltRegion (s : State) (r : Nat) (by_ : HaltBy) : State :=
  let g := s.region r
  if g.st ≠ .running then s
  else
    match g.halt with
    | some .quantum => if g.haltAt = s.clk then s.modRegion r fun g => { g with halt := some by_ } else s
    | some _ => s
    | none =>
      let s1 := s.eachCell r fun s c => if isQuayCell c then s.coalSendAll c else s
      (((s1.modRegion r fun g => { g with halt := some by_, haltAt := s.clk }).at Config.haltGate clsOther r
        (.preemptSignal r)).at Config.haltReads clsOther r (.readPhaseEnd r)).at Config.haltDone clsOther r (.haltComplete r)

/-- The halt that an event of it belongs to still runs. -/
def State.halting (s : State) (r d : Nat) : Bool :=
  let g := s.region r
  g.st == .running && g.halt.isSome && g.haltAt + d == s.clk

/-- The cells stop firing (PREEMPT_SIGNAL). A discard region cancels its reads at once. -/
def State.gateRegion (s : State) (r : Nat) : State :=
  let disc := hdrDiscard (s.region r).hdr
  let s1 := s.eachCell r fun s c =>
    let s2 := s.modCell c fun x => if x.stop.stopped then x else x.freeze s.clk
    if isQuayCell c then (let s3 := s2.coalSendAll c
                          if disc then s3.cancelReads c else s3) else s2
  s1.modRegion r fun g => { g with gated := true }

/-- A token that still crosses the die boundaries. -/
def Pass.isToken (p : Pass) : Bool :=
  match p.ev with
  | some (.tokenArrival _ _ _ _ _) => true
  | _ => false
/-- Passes leave the arbiters' queues. -/
def State.dropPasses (s : State) (t : Pass → Bool) : State :=
  let ids := (s.passes.filter t).map (·.id)
  { s with
    passes := s.passes.filter fun p => !t p
    arbs := s.arbs.map fun a => if a.1 / 1024 = 4 then a else (a.1, { a.2 with queue := a.2.queue.filter fun q => !ids.contains q.req }) }
/-- A token, on its way to another die, from one of the cells listed or to one of them. -/
def Pass.ofCells (p : Pass) (cs : List Nat) : Bool :=
  p.isToken && p.via.any fun v => cs.contains v.src || cs.contains v.tgt.1
/-- Tokens of a region's cells that still wait at the die boundaries go on at once, each no earlier than its latency: they have landed
by the bound of a halt, all that a virtual channel still holds in one clk if need be (14 R328, 16 R364). None passes one sent before it. -/
def State.hurry (s : State) (r : Nat) : State :=
  let cs := s.regCells r
  (s.passes.filter fun p => p.ofCells cs).foldl (fun s p => match p.ev, p.via with
    | some e, some v => s.arrives (max 1 (p.since + p.lat - s.clk)) p.cls p.sub { v with sent := 0 } e
    | _, _ => s) (s.dropPasses fun p => p.ofCells cs)
/-- The last clk in which what still waits can land by the 258th of a halt begins. -/
def Region.settles (g : Region) (clk : Nat) : Bool := g.st == .running && g.halt.isSome && g.haltAt + Config.haltSettle == clk + 1

/-- The read phase ends (READ_PHASE_END): reads are cancelled, writes completed, translations dropped, EVT records
delivered. A record that finds the queue full goes on waiting at its source, as 09 R248 has it, and its cell may fire EVT again
(DESIGN CHOICE, log 95). -/
def State.readsEnd (s : State) (r : Nat) : State :=
  let cs := s.regCells r
  let s1 := s.eachCell r fun s c =>
    if isQuayCell c then (((s.finishWrites c).cancelReads c).dropTrans c).modCell c fun x => { x with evtBusy := false }
    else s.modCell c fun x => { x with evtBusy := false }
  { s1 with records := s1.records.map fun x => match x.cell with
      | some c => if cs.contains c then { x with cell := none } else x
      | none => x }

/-- The counted clk of a region with the present one, which counts unless a halt began earlier; with a quantum of 0 every RUNNING clk
does (13 R310). -/
def Region.counts (g : Region) (clk : Nat) : Bool :=
  g.st == .running && g.runs ≤ clk && (g.halt.isNone || g.haltAt == clk || g.quantum == 0)
def Region.runNow (g : Region) (clk : Nat) : Nat := min 0xFFFFFFFF (g.runClk + if g.counts clk then 1 else 0)
/-- The quantum expires in this clk. -/
def Region.expiresNow (g : Region) (clk : Nat) : Bool := g.counts clk && g.quantum != 0 && g.counter == 1

/-- Pilots that wait in an RSTOP of a region are told how its halt ended (09 R242). -/
def State.tellStop (s : State) (r : Nat) (v : DWord) : State :=
  { s with pilots := s.pilots.map fun (p : Nat × Pilot) => (p.1, if p.2.wait = .region r then { p.2 with ans := some v } else p.2) }
/-- A region becomes STOPPED; a quantum's halt posts its record (13 R307). -/
def State.stopRegion (s : State) (r : Nat) : State :=
  let g := s.region r
  let s1 := (s.modRegion r fun g => { g with st := .stopped, halt := none, gated := true }).tellStop r 0
  match g.halt with
  | some .quantum =>
    s1.regRecord r 3 [(8, 4, g.runClk), (12, 1, if hdrDiscard g.hdr then 1 else 0), (13, 1, g.prio.toNat)]
  | _ => s1

/-! Draining (01 R20, 13 R304). -/

/-- The drain cells: cells whose final context has an empty marker fan, or else a nonempty marker set. -/
def State.drainCells (s : State) (r : Nat) : List Nat :=
  let x := hdrFinal (s.region r).hdr
  let cs := s.regCells r
  let sinks := cs.filter fun c => bf (s.cell c).ctxs[x].ctl 5 4 == 0
  if sinks.isEmpty then cs.filter fun c => bf (s.cell c).ctxs[x].ctl 1 4 != 0 else sinks
/-- A level-7 join has been made at every drain cell. -/
def State.joinedAll (s : State) (r : Nat) : Bool :=
  !(s.drainCells r).isEmpty && (s.drainCells r).all fun c => (s.cell c).joined
/-- Drained: no drain of a cell is in progress (07 R185), and no completion outstanding. -/
def State.isDrained (s : State) (r : Nat) : Bool :=
  s.joinedAll r && (s.regCells r).all fun c => (s.cell c).mx.drain.isNone && (!isQuayCell c || !(s.cell c).memBusy)

/-- REGION_COMPLETION_EVENT. -/
def State.drainRegion (s : State) (r : Nat) : State :=
  let g := s.region r
  let fl := (s.regCells r).foldl (fun (n : BitVec 6) c => n ||| (s.cell c).flags) 0
  let s1 := s.modRegion r fun g =>
    { g with st := .drained, gated := true, halt := none, runClk := g.runNow s.clk }
  (s1.tellStop r 1).regRecord r 1 [(8, 4, g.runNow s.clk), (12, 1, if g.expired || g.expiresNow s.clk then 1 else 0), (13, 1, fl.toNat)]

/-! Saving and restoring (16 R365 to R368). -/

/-- A RUNNING region has a route that reaches a region (13 R314). -/
def State.reachedBy (s : State) (r : Nat) : Bool :=
  s.regions.any fun x => x.1 != r && x.2.st == .running && (s.regRoutes x.1).any fun t => s.reaches x.2.part t.2.2.2.2 == some r

/-- A CRC-32 after one more byte. -/
def crcByte (c : Word) (b : Byte) : Word := (List.range 8).foldl (fun x i => crcBit x (bit b i)) c
/-- The CRC-32 of bytes (log 13). -/
def crcBytes (bs : List Byte) : Word := ~~~(bs.foldl crcByte 0xFFFFFFFF)
/-- The bytes of a save image: free, but for the CRC-32 of the others that ends its header of 4,096 bytes (16 R365; log 13). -/
def saveImage (id n : Nat) : List Byte :=
  let bs := (List.range n).map (Config.saveByte id)
  if n < 4096 then bs
  else bs.take 4092 ++ toBytes (crcBytes (bs.take 4092 ++ bs.drop 4096)) 4 ++ bs.drop 4096

/-- Requests of a region in channel roadsteads. -/
def fromRegion (r : Nat) (b : BReq) : Bool := b.owner == r && (b.kind == 0 || (b.kind == 4 && b.fctx == 1))
def State.chanReqs (s : State) (r : Nat) : List (Nat × BReq) :=
  s.quays.flatMap fun q => ((q.2.road ++ q.2.outside).filter (fromRegion r)).map fun b => (q.1, b)
/-- Berth requests of a region that wait at their requesters for an entry of another region's roadstead (10 R260). Those that wait for
one of its own are saved with the cell that they wait at. -/
def State.berthWaits (s : State) (r : Nat) : List BReq :=
  (s.cells.filter fun c => c.2.region != some r).flatMap fun c => c.2.outside.filter (fromRegion r)
def State.unwait (s : State) (r : Nat) : State :=
  { s with cells := s.cells.map fun (c : Nat × Cell) =>
      (c.1, if c.2.region = some r then c.2 else { c.2 with outside := c.2.outside.filter fun b => !fromRegion r b }) }
/-- A region's requests leave every roadstead. -/
def State.unqueueChans (s : State) (r : Nat) : State :=
  { s with quays := s.quays.map fun (q : Nat × Quay) => (q.1, { q.2 with
      road := q.2.road.filter fun b => !fromRegion r b, outside := q.2.outside.filter fun b => !fromRegion r b }) }
def State.unqueueCells (s : State) (r : Nat) : State :=
  { s with cells := s.cells.map fun (c : Nat × Cell) => (c.1, { c.2 with
      road := c.2.road.filter fun b => !fromRegion r b, outside := c.2.outside.filter fun b => !fromRegion r b }) }

/-- The unwritten slots of a held berth become holes (10 R263). -/
def Cell.abandon (c : Cell) (x p : Fin 4) (h : Handle) : Cell :=
  let b := bdBase c.ctxs[x].binds[p]
  let hd := b + c.ctxs[x].rings[p].head
  let lo := if h.base ≤ hd ∧ hd ≤ h.base + h.len then hd else h.base
  let c1 := (List.range (h.len + 1)).foldl (fun (c : Cell) i =>
    let n := h.base + i
    if lo ≤ n ∧ (c.slot n).rdr ≠ 0 ∧ (c.slot n).fe = 0 then c.setSlot n (c.slot n).freed else c) c
  c1.advance x p
/-- The slots that deferred results of a cell have reserved (06 R158, 08 R195). -/
def DefW.dsts (w : DefW) : List WDst := [w.x, w.y]
def Cell.reserved (c : Cell) (reqs : List Req) : List WDst :=
  (c.dly.flatMap fun d => d.w.dsts) ++ (c.bcred.flatMap fun b => b.w.dsts) ++ (c.lands.flatMap fun l => l.w.dsts) ++
    (c.flush.flatMap fun f => f.w.dsts) ++ (c.coal.flatMap fun l => l.held.flatMap fun h => h.1.dsts) ++
    (reqs.flatMap fun r => r.res.flatMap fun w => w.1.dsts) ++
    match c.mx.drain with
    | some d => (List.range d.toks.length).map fun i => match d.dst with
      | .out t x p n l => .out t x p (n + i) l
      | w => w
    | none => []
/-- A slot of a berth is held and not written. -/
def Cell.holds (c : Cell) (h : Handle) : Bool :=
  (List.range (h.len + 1)).any fun i => (c.slot (h.base + i)).rdr != 0 && (c.slot (h.base + i)).fe == 0
/-- A save whose cell at a place holds the unwritten slots of a berth: the berth's target was saved since the grant. -/
def Save.keeps (t : Nat) (h : Handle) (v : Save) : Bool := v.live && (v.places.zip v.cells).any fun x => x.1 == t && x.2.holds h
/-- A berth at a cell is abandoned (10 R263): in the save that holds it, or where the cell stands. -/
def State.abandonAt (s : State) (t : Nat) (x p : Fin 4) (h : Handle) : State :=
  if s.saves.any (Save.keeps t h) then
    { s with saves := s.saves.map fun (v : Save) =>
        if v.keeps t h then { v with cells := (v.places.zip v.cells).map fun c => if c.1 = t then c.2.abandon x p h else c.2 } else v }
  else s.modCell t fun k => k.abandon x p h
/-- A reserved slot that is dropped becomes a hole. -/
def State.abandonSlot (s : State) (w : WDst) : State :=
  match w with
  | .out t x p n _ => s.abandonAt t (Fin.ofNat 4 x) (Fin.ofNat 4 p) ⟨true, 0, 0, 0, n, false⟩
  | _ => s
/-- The berths of a cell's handles, each with the cell, context and port that it lies at; `at_` says where the cell stands. -/
def State.heldBerths (s : State) (at_ : Nat) (c : Cell) : List (Nat × Fin 4 × Fin 4 × Handle) :=
  four.flatMap fun x => four.filterMap fun n =>
    let d := c.ctxs[x].routes[n]
    if c.ctxs[x].hands[n].v then some (s.atPlace (s.cellPart at_) (rtDest d), rtCtx d, rtPort d, c.ctxs[x].hands[n]) else none
/-- Every berth that a cell holds is abandoned at its target, and every slot reserved for its deferred results. -/
def State.abandonOf (s : State) (at_ : Nat) (c : Cell) (reqs : List Req) : State :=
  (c.reserved reqs).foldl State.abandonSlot
    ((s.heldBerths at_ c).foldl (fun s b => s.abandonAt b.1 b.2.1 b.2.2.1 b.2.2.2) s)
def Cell.noHandles (c : Cell) : Cell := { c with ctxs := c.ctxs.map fun x => { x with hands := x.hands.map fun h => if h.v then .none else h } }
def State.abandonCell (s : State) (c : Nat) : State :=
  (s.abandonOf c (s.cell c) (s.ofCell c)).modCell c Cell.noHandles

/-- The slots of a region's quay areas, by index in the area. -/
def State.areaSlots (s : State) (r q : Nat) : List (Nat × Slot) :=
  match (s.quay q).areas.find? fun a => a.owner == .inl r with
  | some a => ((s.quay q).slots.filter fun x => a.base ≤ x.1 && x.1 < a.base + a.len).map fun x => (x.1 - a.base, x.2)
  | none => []

/-- The place a save image goes to: the save area of the region's virtual device. -/
def State.saveAt (s : State) (r off : Nat) : Nat := (s.vd (8 * (s.region r).part + (s.region r).vd)).saveBase.toNat + off

/-- SAVE_COMPLETE of a settle region: its state is taken and its image written. -/
def State.saveSettle (s : State) (r : Nat) : State :=
  let g := s.region r
  let vd := 8 * g.part + g.vd
  let n := saveSize g.hdr
  let pa := s.saveAt r g.saveOff
  let cs := s.regCells r
  let mine (q : Req) : Bool := cs.contains q.cell
  let v : Save :=
    { region := r, id := s.seqNo, pa := pa, bytes := n, places := cs, cells := cs.map s.cell,
      slots := (s.regQuays r).map (s.areaSlots r), reqs := s.reqs.filter mine, queued := s.chanReqs r,
      waiting := s.berthWaits r, live := true }
  let s1 := ({ s with seqNo := s.seqNo + 1, saves := v :: s.saves,
                      reqs := s.reqs.filter fun q => !mine q }.unqueueChans r).unwait r
  if s1.hasKey vd then s1.qwrite (2 * s1.regStrip r) vd (s1.rootKey vd) 0 pa (saveImage v.id n) else s1

/-- SAVE_COMPLETE of a discard region: its berths are abandoned and its requests removed. -/
def State.saveDiscard (s : State) (r : Nat) : State :=
  let cs := s.regCells r
  let s1 := ((s.eachCell r State.abandonCell).unqueueChans r).unqueueCells r
  { s1 with reqs := s1.reqs.filter fun q => !cs.contains q.cell }

/-- A cell of a restored region named by where it was. -/
def movedTo (old new : List Nat) (c : Nat) : Nat :=
  match old.findIdx? (· == c) with
  | some i => new.getD i c
  | none => c

/-- A slot reserved in a cell of a restored region follows the cell. -/
def WDst.moved (f : Nat → Nat) : WDst → WDst
  | .out c x p n l => .out (f c) x p n l
  | w => w
def DefW.moved (f : Nat → Nat) (w : DefW) : DefW := { w with x := w.x.moved f, y := w.y.moved f }
def Cell.movedDefs (c : Cell) (f : Nat → Nat) : Cell :=
  { c with
    dly := c.dly.map fun d => { d with w := d.w.moved f }
    bcred := c.bcred.map fun b => { b with w := b.w.moved f }
    lands := c.lands.map fun l => { l with w := l.w.moved f }
    flush := c.flush.map fun l => { l with w := l.w.moved f, kind := match l.kind with
      | .hand t r d => .hand (f t) r d
      | k => k }
    mx := { c.mx with drain := c.mx.drain.map fun d => { d with dst := d.dst.moved f } } }
def Req.movedDefs (r : Req) (f : Nat → Nat) : Req :=
  { r with cell := f r.cell, res := r.res.map fun w => (w.1.moved f, w.2) }

/-- A request of a restored region, and a grant to it, follow its cells. -/
def movedReq (r : Nat) (f : Nat → Nat) (b : BReq) : BReq :=
  if fromRegion r b then
    { b with src := f b.src, who := b.who + BitVec.ofNat 16 (f b.src) - BitVec.ofNat 16 b.src }
  else b
def Pend.moved (r : Nat) (f : Nat → Nat) (p : Pend) : Pend :=
  match p.ev with
  | .grantArrival g => if g.owner = r then { p with ev := .grantArrival { g with dst := f g.dst } } else p
  | _ => p
def State.follow (s : State) (r : Nat) (f : Nat → Nat) : State :=
  { s with
    pend := s.pend.map (Pend.moved r f)
    cells := s.cells.map fun (c : Nat × Cell) => (c.1, { c.2 with road := c.2.road.map (movedReq r f), outside := c.2.outside.map (movedReq r f) })
    quays := s.quays.map fun (q : Nat × Quay) => (q.1, { q.2 with road := q.2.road.map (movedReq r f), outside := q.2.outside.map (movedReq r f) }) }

/-- The image at an offset of the save area is one that a save wrote, there or elsewhere: its CRC-32 matches (16 R365, log 13). -/
def State.imageOk (s : State) (r off : Nat) (v : Save) : Bool :=
  let vd := 8 * (s.region r).part + (s.region r).vd
  v.region == r && s.hasKey vd && s.bytesAt (s.rootKey vd) (s.saveAt r off) v.bytes == saveImage v.id v.bytes

/-- The image that the save area may hold at an offset is read at its home slices (12 R289, R290). -/
def State.imageRead (s : State) (r off : Nat) : State :=
  let vd := 8 * (s.region r).part + (s.region r).vd
  if s.hasKey vd then (s.qread (2 * s.regStrip r) vd (s.rootKey vd) 0 (s.saveAt r off) (saveSize (s.region r).hdr)).2 else s

/-- A quay with the slots of a region's area as saved. -/
def Quay.fillArea (u : Quay) (r n : Nat) (xs : List (Nat × Slot)) : Quay :=
  match u.areas.find? fun a => a.owner == .inl r with
  | some a =>
    { u with slots := xs.foldl (fun (t : Tbl Slot) (x : Nat × Slot) => if x.1 < n then tblPut t (a.base + x.1) x.2 else t) u.slots }
  | none => u

/-- The cells of a settle region from its save (16 R367): window entries invalid, translations gone. -/
def State.restoreSettle (s : State) (r : Nat) (v : Save) : State :=
  let new := s.regCells r
  let f := movedTo v.places new
  let s1 := (List.range new.length).foldl (fun (s : State) (i : Nat) =>
    s.setCell (new.getD i 0)
      (let c := v.cells.getD i Cell.reset
       { c.movedDefs f with fw := c.fw.map fun e => { e with valid := false }, trans := none })) s
  let qs := s1.regQuays r
  let n := hdrQuay (s1.region r).hdr / 32
  let s2 := (List.range qs.length).foldl (fun (s : State) (i : Nat) =>
    s.modQuay (qs.getD i 0) fun u => u.fillArea r n (v.slots.getD i [])) s1
  let s3 : State := { s2 with reqs := s2.reqs ++ v.reqs.map (fun (q : Req) => q.movedDefs f),
                              saves := s2.saves.map fun (x : Save) => if x.region = r then { x with live := false } else x }
  let s4 := (v.reqs.filter fun q => q.served).foldl (fun (s : State) (q : Req) => s.at 1 clsWrite q.id (.requestCompletion q.id)) s3
  (s4.follow r f).modRegion r fun g =>
    { g with requeue := v.queued.map fun x => (x.1, movedReq r f x.2), rewait := v.waiting.map (movedReq r f) }

/-- A region configured again under a header at its origin, on the cells that it gives up for it. -/
def State.reloadAs (s : State) (r : Nat) (h : BitVec 512) : Option State :=
  let g := s.region r
  let s1 := (s.vacate r).modRegion r fun g =>
    { g with hdr := h, own := g.own.filter fun o => isQuayCell ((placesOf h g.strip g.row g.col).getD o.1 0) }
  if 96 < g.row + hdrRows h || !s1.fits g.part h g.strip g.row g.col then none
  else
    match (s1.occupy r).readImages r with
    | (.error _, _) => none
    | (.ok cs, s2) => some (s2.configure r cs)

/-- The reload of a discard region (13 R312, 16 R368): whatever valid header now lies at its header's address is loaded. -/
def State.reloadDiscard (s : State) (r : Nat) : Option State :=
  let g := s.region r
  match s.pbytes g.ldr false g.hdrVa 64 with
  | (.error _, _) => none
  | (.ok bs, s1) =>
    let h : BitVec 512 := ofBytes 512 bs
    if (headerFail h (s1.berthBytes g.part h) (s1.part g.part).first).isSome then none else s1.reloadAs r h

/-- RESTORE_COMPLETE: the region is STOPPED, or SAVED when its image or its routes fail. -/
def State.restoreRegion (s0 : State) (r : Nat) : State :=
  let g := s0.region r
  let s := if hdrDiscard g.hdr then s0 else s0.imageRead r g.saveOff
  let good : Option State :=
    if hdrDiscard g.hdr then s.reloadDiscard r
    else (s0.saves.find? (s0.imageOk r g.saveOff)).map fun v => s.restoreSettle r v
  let s1 := match good with
    | some t =>
      if (t.stitchFail r).isSome then (s.vacate r).modRegion r fun g => { g with st := .saved }
      else t.modRegion r fun g => { g with st := .stopped, started := false, gated := true }
    | none => (s.vacate r).modRegion r fun g => { g with st := .saved }
  (s1.doneRecord r 4).asyncEnd r

/-! Killing (09 R242, 10 R263, 11 R279). -/

/-- The channels whose writer is a cell are padded where an element is incomplete. -/
def State.padChans (s : State) (r : Nat) : State :=
  let g := s.region r
  s.quays.foldl (fun (s : State) (q : Nat × Quay) => q.2.chans.foldl (fun (s : State) (k : Nat × Chan) =>
    let c := k.2
    if c.opened && bf c.writer 30 2 == 0 && s.chanPart (64 * q.1 + k.1) == g.part && c.vd == g.vd && c.wreg == r &&
        c.cur.isSome && c.wpos + c.wtoks.length < c.e && 0 < c.wpos + c.wtoks.length then
      s.modChan (64 * q.1 + k.1) fun c =>
        { c with wtoks := c.wtoks ++ List.replicate (c.e - (c.wpos + c.wtoks.length)) ((⟨0, .zero⟩ : Token), Teller.none) }
    else s) s) s

/-- RKILL begins: the cells stop, reads are dropped, writes complete. -/
def State.killStart (s : State) (r : Nat) : State :=
  let s1 := s.eachCell r fun s c =>
    if isQuayCell c ∧ (s.cell c).region = some r then (((s.coalSendAll c).finishWrites c).cancelReads c).dropTrans c else s
  (s1.modRegion r fun g => { g with st := .killing, gated := true, halt := none, kill := false }).at Config.killClk clsOther r
    (.killComplete r)

/-- KILL_COMPLETE: everything the region holds is freed. -/
def State.killEnd (s : State) (r : Nat) : State :=
  let held := (s.regCells r).filter fun c => (s.cell c).region = some r
  let s0 := held.foldl (fun s c => (s.finishWrites c).abandonCell c) s
  let s1 := (s0.saves.filter fun v => v.region == r && v.live).foldl (fun (s : State) v =>
    (v.places.zip v.cells).foldl (fun s x => s.abandonOf x.1 x.2 (v.reqs.filter fun q => q.cell == x.1)) s) s0
  let s2 := ((s1.padChans r).unqueueChans r).unqueueCells r
  let s3 := { s2 with
    reqs := s2.reqs.filter fun q => !held.contains q.cell
    quays := s2.quays.map fun (q : Nat × Quay) => (q.1, { q.2 with chans := q.2.chans.map fun (k : Nat × Chan) => (k.1,
      match k.2.chrWait with
      | some (.cell id) => if (s2.reqs.any fun x => x.id == id && held.contains x.cell) then { k.2 with chrWait := none } else k.2
      | _ => k.2) }) }
  let s4 := if held.isEmpty then s3 else s3.vacate r
  let s5 := s4.modRegion r fun g => { g with st := .free }
  let s6 := (s5.doneRecord r 5).asyncEnd r
  { s6 with regions := tblDel s6.regions r, saves := s6.saves.filter fun v => v.region != r }

end Sys2Proof.Machine
end

