-- ==== Sys2Proof/Machine/Cmd.lean ====
section
/-! DEFINITION. What a pilot's commands share: privilege, the drain before them, their status, and their memory operands
(09 R237, R239). -/

namespace Sys2Proof.Machine

/-- A command: illegal in user mode unless marked U; sent once every earlier store is acknowledged (09 R239, items 1 and 5). -/
def State.cmd (s : State) (i : Instr) (user : Bool) (k : State → Out) : Out :=
  if !(s.me.sup || user) then s.illegalI i
  else if s.me.stores.isEmpty then k s
  else .next (s.waits .again)

/-- A status or a value in gd, and the command completes. -/
def State.status (s : State) (d : Fin 32) (v : Int) : Out := .next (s.ret d (BitVec.ofInt 64 v))

def badArg : Int := -1
def notOwn : Int := -2
def badState : Int := -3
def empty : Int := -4
def full : Int := -5
def closed : Int := -6
def quota : Int := -7
def faulted : Int := -8

/-- The command waits: it executes again. -/
def State.again (s : State) : Out := .next (s.waits .again)

/-- A memory operand that is read: alignment and faults raise trap 0x0B; a poisoned sector takes the pilot offline. -/
def State.opRead (s : State) (va : DWord) (align n : Nat) (k : List Byte → State → Out) : Out :=
  if va.toNat % align ≠ 0 then .next (s.trap 0xB va)
  else
    match s.pbytes s.curPilot (!s.me.sup) va n with
    | (.error (_, true), s1) => .next (s1.offline s.curPilot)
    | (.error (n, false), s1) => .next (s1.trap 0xB (va + BitVec.ofNat 64 n))
    | (.ok bs, s1) => k bs s1

/-- The frames of n 32-byte pieces of an operand, or the address that faults. -/
def State.opFrames (s : State) (acc : Acc) : DWord → Nat → Except DWord (List (Frame × Nat)) × State
  | _, 0 => (.ok [], s)
  | va, n + 1 =>
    match s.translate (s.pilotQuay s.curPilot) (s.pilotVd s.curPilot) (!s.me.sup) va acc with
    | (.error _, s1) => (.error va, s1)
    | (.ok f, s1) =>
      match s1.opFrames acc (va + 32) n with
      | (.ok fs, s2) => (.ok ((f, f.pa va) :: fs), s2)
      | e => e

/-- A memory operand of n 32-byte pieces that is written: judged before any effect. -/
def State.opWrite (s : State) (va : DWord) (n : Nat) (k : List (Frame × Nat) → State → Out) : Out :=
  if va.toNat % 32 ≠ 0 then .next (s.trap 0xB va)
  else
    match s.opFrames .w va n with
    | (.error a, s1) => .next (s1.trap 0xB a)
    | (.ok fs, s1) => k fs s1

/-- A memory operand of n 32-byte pieces is judged: one that is misaligned or faults raises trap 0x0B and never gives a status
(09 R237). What follows goes on from the state before. -/
def State.opJudged (s : State) (acc : Acc) (va : DWord) (n : Nat) (k : Out) : Out :=
  if va.toNat % 32 ≠ 0 then .next (s.trap 0xB va)
  else
    match (s.opFrames acc va n).1 with
    | .error a => .next (s.trap 0xB a)
    | .ok _ => k

/-- A store of a command, acknowledged at once; the pilot's own L1 follows it, and a later load joins no earlier read (12 R297). -/
def State.putPiece (s : State) (f : Frame × Nat) (v : Wide) : State :=
  (s.qwrite (s.pilotQuay s.curPilot) s.myVd f.1.key f.1.pol f.2 (toBytes v 32)).modMe fun m =>
    { m with l1d := l1Store m.l1d f.2 (toBytes v 32), join := s.seqNo }

/-- The end of a command that waited. -/
def State.endWait (s : State) (d : Fin 32) (v : Int) : Out := s.status d v

end Sys2Proof.Machine
end

