-- ==== Sys2Proof/Machine/BcnCmd.lean ====
section
/-! DEFINITION. The BCN commands (09 R245). -/

namespace Sys2Proof.Machine

/-- A beacon command: an unassigned channel raises trap 0x08. -/
def State.bcn (s : State) (i : Instr) (a : Fin 32) (user : Bool) (k : State → Nat → Out) : Out :=
  s.cmd i user fun s =>
    let ch := bf (s.g a) 0 5
    if s.bcnOk s.myPart ch then k s ch else .next (s.trap 8 (BitVec.ofNat 64 ch))

/-- ARRIVE and REDUCE: wait while the arrival bit is set, then send the arrival. -/
def State.bcnArrive (s : State) (ch : Nat) (op : Option (Fin 3)) (va vo vm : Word) : Out :=
  if bit s.me.arr ch then s.again
  else
    .next ((s.arrive s.curPilot ch va vo vm).modMe fun m =>
      { m with arr := setBit m.arr ch true
               redOp := match op with
                 | some x => tblPut m.redOp ch x
                 | none => tblDel m.redOp ch
               latched := if op.isSome then m.latched else tblDel m.latched ch }.next)

def execBcnArrive (o : OpRA) (s : State) : Out :=
  s.bcn (.bcnArrive o) o.a true fun s ch => s.bcnArrive ch none 0xFFFFFFFF 0 0

/-- The two results of WAIT and READ, in gd and gb. -/
def State.ret2 (s : State) (d b : Fin 32) (x y : DWord) : State := s.modMe fun m => ((m.setReg d x).setReg b y).next

def execBcnWait (o : OpR3) (s : State) : Out :=
  s.bcn (.bcnWait o) o.a true fun s ch =>
    if bit s.me.arr ch then s.again
    else .next (s.ret2 o.d o.b ((s.genOf ch s.curPilot).setWidth 64) ((tblGet 0 s.me.latched ch).setWidth 64))

/-- CAST without the configure bit. -/
def State.bcnCast (s : State) (d b : Fin 32) (ch : Nat) : Out :=
  (s.broadcast s.myPart s.curPilot 1024 ch (s.g b)).status d 0

/-- Clears every arrival bit of a channel (09 R245, 16 R375), also of the cells that a save holds (06 R169). -/
def State.clearArrivals (s : State) (part ch : Nat) : State :=
  let mine (c : Nat) : Bool := s.partOf (cellStrip c) == some part
  let clr (c : Nat) (k : Cell) : Cell := if mine c then { k with arrBits := setBit k.arrBits ch false } else k
  { s with
    cells := s.cells.map fun (c : Nat × Cell) => (c.1, clr c.1 c.2)
    saves := s.saves.map fun v => if v.live then { v with cells := (v.places.zip v.cells).map fun x => clr x.1 x.2 } else v
    pilots := s.pilots.map fun (p : Nat × Pilot) =>
      (p.1, if s.partOf p.1 = some part then { p.2 with arr := setBit p.2.arr ch false } else p.2) }

/-- CAST with the configure bit. -/
def State.bcnConfigure (s : State) (d b : Fin 32) (ch : Nat) : Out :=
  if (s.beacon ch).arrivals ≠ 0 then s.status d badState
  else ((s.modBeacon ch fun c => { c with P := (s.g b).setWidth 16 }).clearArrivals s.myPart ch).status d 0

def execBcnCast (o : OpR3) (s : State) : Out :=
  let conf := bit (s.g o.a) 8
  s.bcn (.bcnCast o) o.a (!conf) fun s ch => if conf then s.bcnConfigure o.d o.b ch else s.bcnCast o.d o.b ch

/-- The row of CAST with g(ga)<8> set, whose words are CAST's. -/
def execBcnCastConfigure (o : OpR3) (s : State) : Out :=
  s.bcn (.bcnCast o) o.a false fun s ch => s.bcnConfigure o.d o.b ch

def execBcnRead (o : OpR3) (s : State) : Out :=
  s.bcn (.bcnRead o) o.a true fun s ch =>
    .next (s.ret2 o.d o.b (tblGet 0 (s.beacon ch).bval s.curPilot) ((tblGet 0 (s.beacon ch).bcnt s.curPilot).setWidth 64))

/-- REDUCE carries g(gb)<31:0>. -/
def State.bcnReduce (s : State) (ch : Nat) (op : Fin 3) (b : Fin 32) : Out :=
  let v : Word := (s.g b).setWidth 32
  s.bcnArrive ch (some op) v v v
def execBcnReduceAnd (o : OpRAB) (s : State) : Out :=
  s.bcn (.bcnReduceAnd o) o.a true fun s ch => s.bcnReduce ch 0 o.b
def execBcnReduceOr (o : OpRAB) (s : State) : Out :=
  s.bcn (.bcnReduceOr o) o.a true fun s ch => s.bcnReduce ch 1 o.b
def execBcnReduceMax (o : OpRAB) (s : State) : Out :=
  s.bcn (.bcnReduceMax o) o.a true fun s ch => s.bcnReduce ch 2 o.b

/-- Regions of a virtual device that run. -/
def State.runningOf (s : State) (vd : Nat) : List Nat :=
  (s.regions.filter fun x => x.2.st == .running && 8 * x.2.part + x.2.vd == vd).map (·.1)

/-- PREEMPT. A virtual device that the partition does not have has no RUNNING region (log 48). -/
def execBcnPreempt (o : OpR3) (s : State) : Out :=
  s.bcn (.bcnPreempt o) o.a false fun s ch =>
    match s.me.wait with
    | .preempt _ vd n =>
      if (s.runningOf vd).any fun r => (s.region r).halt.isSome then .next s else s.endWait o.d n
    | _ =>
      let vd := 8 * s.myPart + bf (s.g o.b) 0 3
      let rs := s.runningOf vd
      if rs.isEmpty then s.status o.d 0
      else
        .next ((rs.foldl (fun s r => s.haltRegion r (.preempt s.curPilot)) s).modMe fun m =>
          { m with wait := .preempt ch vd rs.length })

end Sys2Proof.Machine
end

