-- ==== Sys2Proof/Machine/Chn.lean ====
section
/-! DEFINITION. The CHN commands (09 R243, R244). -/

namespace Sys2Proof.Machine

/-! CHOPEN. -/

/-- A registration of 09 R243: its fields in range. -/
def regOk (count : Nat) (reader : Bool) (v : Word) : Bool :=
  let k := bf v 30 2
  if k = 0 then bf v 16 14 == 0 && 126 ≤ bf v 0 7 && bf v 10 6 < count
  else if k = 1 then bf v 6 24 == 0 && bf v 0 6 < count
  else if reader then false
  else if k = 2 then bf v 0 30 == 0
  else bf v 3 27 == 0

/-- A free entry of a channel table. -/
def Quay.freeEntry (q : Quay) : Option Nat := (List.range 64).find? fun e => !(tblGet .unused q.chans e).opened

/-- The fields of an open descriptor out of range (09 R243, 11 R269). -/
def openBad (count : Nat) (d : Wide) : Bool :=
  let e := bf d 8 2 + 1
  let n := bf d 16 16
  bf d 10 6 != 0 || n == 0 || 4096 < n || bf d 64 16 != 0 || !canonical (d.extractLsb' 64 64) || bf d 195 61 != 0 ||
    !regOk count false (d.extractLsb' 128 32) || !regOk count true (d.extractLsb' 160 32) ||
    2 ^ 31 < n + bf d 32 32 * perExtent e

def execChnChopen (o : OpR2) (s : State) : Out :=
  s.cmd (.chnChopen o) false fun s =>
    s.opRead (s.g o.a) 32 32 fun bs s =>
      let d : Wide := ofBytes 256 bs
      let part := s.myPart
      let p := s.part part
      let q := bf d 0 8
      let e := bf d 8 2 + 1
      let n := bf d 16 16
      let qq := 2 * p.first + q
      let u := s.quay qq
      if openBad p.count d then s.status o.d badArg
      else if 2 * p.count ≤ q ∨ (tblGet? s.vds (8 * part + bf d 192 3)).isNone then s.status o.d notOwn
      else
        match (if s.host.fused.contains qq then none else u.freeEntry), u.findRun (n * e) with
        | some k, some base =>
          let c : Chan :=
            { Chan.unused with
              opened := true, vd := bf d 192 3, e := e, base := base, nr0 := n, basin := d.extractLsb' 80 39,
              limit := bf d 32 32, writer := d.extractLsb' 128 32, reader := d.extractLsb' 160 32 }
          ((s.setQuay qq (u.place base (n * e) (.inr (64 * qq + k)))).setChan (64 * qq + k) c).status o.d (64 * q + k : Nat)
        | _, _ => s.status o.d full

/-! The channel a command names. -/

/-- The channel number's checks (09 R244): a status, or the physical channel. -/
def State.chnArg (s : State) (a : Fin 32) : Except Int Nat :=
  let n := bf (s.g a) 0 13
  let ch := s.chanAt s.myPart n
  let c := s.chan ch
  if 2 * (s.part s.myPart).count ≤ n / 64 then .error notOwn
  else if !s.me.sup && c.opened && c.vd != bf s.me.vdid 0 3 then .error notOwn
  else if !c.opened then .error badState
  else .ok ch

def State.chn (s : State) (d a : Fin 32) (k : Nat → Out) : Out :=
  match s.chnArg a with
  | .error e => s.status d e
  | .ok ch => k ch

/-- Requests on the way to a channel, or waiting at it. -/
def State.chanBusy (s : State) (ch : Nat) : Bool :=
  let c := s.chan ch
  (s.chanReq? ch).isSome || ((s.quay (ch / 64)).outside.any fun r => r.chan == ch) || c.chrWait.isSome || c.cur.isSome ||
    !c.wtoks.isEmpty || (s.reqs.any fun r => r.kind.isChan == some ch && !r.served && !r.held) ||
    s.pend.any fun p => match p.ev with
      | .berthRequestArrival (.quay q) r => q == ch / 64 && r.chan == ch
      | _ => false

/-- The channel is freed: entry, ring and extents (11 R284). -/
def State.chanFree (s : State) (ch : Nat) : State :=
  let c := s.chan ch
  ((s.modVd (s.chanVd ch) fun v => { v with quota := v.quota + BitVec.ofNat 32 c.eg }).modQuay (ch / 64) fun q =>
    { q.unplace (.inr ch) with chans := tblDel q.chans (ch % 64) })

/-- CHCLOSE with the free bit. -/
def State.chFree (s : State) (d : Fin 32) (ch : Nat) : Out :=
  let c := s.chan ch
  if !c.closed ∨ c.heldN ≠ 0 ∨ s.chanBusy ch ∨ c.splice then s.status d badState
  else (s.chanFree ch).status d 0

/-- CHCLOSE without it. -/
def State.chClose (s : State) (d : Fin 32) (ch : Nat) : Out :=
  if s.chanPos ch ≠ 0 then s.status d badState
  else (s.modChan ch fun c => { c with closed := true }).status d 0

def execChnChclose (o : OpR3) (s : State) : Out :=
  s.cmd (.chnChclose o) false fun s =>
    s.chn o.d o.a fun ch => if bit (s.g o.b) 0 then s.chFree o.d ch else s.chClose o.d ch

/-- The row of CHCLOSE with g(gb)<0> set, whose words are CHCLOSE's. -/
def execChnChcloseFree (o : OpR3) (s : State) : Out :=
  s.cmd (.chnChclose o) false fun s => s.chn o.d o.a fun ch => s.chFree o.d ch

/-- The pilot is registered. -/
def State.amParty (s : State) (v : Word) : Bool :=
  bf v 30 2 == 1 && bf v 0 6 + (s.part s.myPart).first == s.curPilot

/-- The tokens of a command's data: 32 bytes each, tag zero. -/
def dataToks : Nat → List Byte → List Token
  | 0, _ => []
  | n + 1, bs => ⟨ofBytes 256 (bs.take 32), .zero⟩ :: dataToks n (bs.drop 32)

/-- CHPUT: its request waits in the home roadstead; it ends when its element is written. -/
def execChnChput (o : OpR3) (s : State) : Out :=
  s.cmd (.chnChput o) true fun s =>
    match s.me.wait, s.me.ans with
    | .chput _, some v => (s.modMe fun m => { m with ans := none }).endWait o.d v.toNat
    | .chput _, none => .next s
    | _, _ =>
      let e := match s.chnArg o.a with
        | .ok ch => (s.chan ch).e
        | .error _ => 1
      s.opJudged .r (s.g o.b) e <| s.chn o.d o.a fun ch =>
        let c := s.chan ch
        if !s.amParty c.writer then s.status o.d notOwn
        else if c.closed then s.status o.d closed
        else
          s.opRead (s.g o.b) 32 (32 * c.e) fun bs s =>
            let r : BReq :=
              { kind := 1, who := BitVec.ofNat 16 (s.curPilot - (s.part s.myPart).first), src := s.curPilot, fctx := 0, hnd := 0,
                cnt := c.e, dctx := 0, dport := 0, mrk := false, chan := ch, rank := 0, lat := 0, owner := 0,
                toks := dataToks c.e bs }
            .next (((s.chargeChan s.curPilot s.myVd ch).at 1 clsRequest (64 + s.curPilot) (.berthRequestArrival (.quay (ch / 64)) r)).modMe fun m =>
              { m with wait := .chput ch, ans := none })

/-- Takes the tokens of the element at the read index and writes their payloads. -/
def State.takeAll (s : State) (ch : Nat) : List (Frame × Nat) → State
  | [] => s
  | f :: fs =>
    let t := s.takeTok ch
    let s1 := t.2.putPiece f t.1.pay
    if t.1.tag.lvl ≠ 0 then s1 else s1.takeAll ch fs

/-- CHTAKE: waits until the element at the read index is complete, or reserved for it. -/
def execChnChtake (o : OpR3) (s : State) : Out :=
  s.cmd (.chnChtake o) true fun s =>
    match s.me.wait, s.me.ans with
    | .chtake _, none => .next s
    | _, _ =>
      s.opJudged .w (s.g o.b) 1 <| s.chn o.d o.a fun ch =>
        let c := s.chan ch
        if !s.amParty c.reader then s.status o.d notOwn
        else if c.readable then
          let lvl := (s.ringTok ch c.rRd c.rpos).tag.lvl
          s.opWrite (s.g o.b) (if lvl = 0 then c.e else 1) fun fs s =>
            ((s.takeAll ch fs).modMe fun m => { m with ans := none }).status o.d (c.rIdx.toNat + lvl.toNat * 2 ^ 32 : Nat)
        else if s.chanSpent ch then (s.modMe fun m => { m with ans := none }).status o.d closed
        else
          .next (((s.chargeChan s.curPilot s.myVd ch).modChan ch fun c => { c with chrWait := some (.pilot s.curPilot) }).modMe fun m =>
            { m with wait := .chtake ch, ans := none })

/-- The 32 bytes of CHSTAT. -/
def State.chstatBytes (s : State) (ch : Nat) : Wide := ofLanes (s.chanSnap ch ++ [(s.vd (s.chanVd ch)).quota])
/-- CHSTAT. What it writes is aligned to 32 bytes (log 53). -/
def execChnChstat (o : OpR3) (s : State) : Out :=
  s.cmd (.chnChstat o) true fun s =>
    s.opJudged .w (s.g o.b) 1 <| s.chn o.d o.a fun ch =>
      s.opWrite (s.g o.b) 1 fun fs s =>
        let v := s.chstatBytes ch
        (fs.foldl (fun s f => s.putPiece f v) (s.chargeChan s.curPilot s.myVd ch)).status o.d 0

end Sys2Proof.Machine
end

