-- ==== Sys2Proof/Machine/Number.lean ====
section
/-! DEFINITION. Number formats, exact values and rounding (04 R89 to R101, R105). Elements are held as numbers. -/

namespace Sys2Proof.Machine

/-- A float format; a binary8 format carries its code (04 R90). -/
inductive Fmt where
  | b8 (c : Byte)
  | bf16
  | f16
  | f32
  | a36
  deriving DecidableEq, Repr

/-- An exact value: NaN, an infinity, or (−1)^neg × m × 2^e, where m = 0 is a signed zero. -/
inductive FV where
  | nan (signalling : Bool)
  | inf (neg : Bool)
  | fin (neg : Bool) (m : Nat) (e : Int)
  deriving DecidableEq, Repr

def Fmt.isUnsigned : Fmt → Bool
  | .b8 c => bit c 3
  | _ => false
def Fmt.isFinite : Fmt → Bool
  | .b8 c => !bit c 4
  | _ => false
def Fmt.isB8 : Fmt → Bool
  | .b8 _ => true
  | _ => false
/-- Width in bits. -/
def Fmt.width : Fmt → Nat
  | .b8 _ => 8
  | .bf16 => 16
  | .f16 => 16
  | .f32 => 32
  | .a36 => 36
/-- Precision (04 R98, R96). -/
def Fmt.prec : Fmt → Nat
  | .b8 c => bf c 0 3
  | .bf16 => 8
  | .f16 => 11
  | .f32 => 24
  | .a36 => 28
/-- Exponent bias (04 R91, R94, R96). -/
def Fmt.bias : Fmt → Nat
  | .b8 c => if bit c 3 then 2 ^ (8 - bf c 0 3) else 2 ^ (7 - bf c 0 3)
  | .f16 => 15
  | _ => 127
def Fmt.emin (f : Fmt) : Int := 1 - f.bias
/-- The canonical NaN (04 R92, R94). -/
def Fmt.nan : Fmt → Nat
  | .b8 c => if bit c 3 then 0xFF else 0x80
  | .bf16 => 0x7FC0
  | .f16 => 0x7E00
  | .f32 => 0x7FC00000
  | .a36 => 0x7FC000000
/-- The code of +∞, where the format has one. -/
def Fmt.infCode : Fmt → Nat
  | .b8 c => if bit c 3 then 0xFE else 0x7F
  | .bf16 => 0x7F80
  | .f16 => 0x7C00
  | .f32 => 0x7F800000
  | .a36 => 0x7F8000000
/-- The code of the largest finite value (04 R92, R98). -/
def Fmt.maxCode (f : Fmt) : Nat :=
  match f with
  | .b8 _ => if f.isUnsigned then (if f.isFinite then 0xFE else 0xFD) else (if f.isFinite then 0x7F else 0x7E)
  | _ => f.infCode - 1
def Fmt.signBit (f : Fmt) : Nat := 2 ^ (f.width - 1)

/-- Value of exponent field E and fraction T. -/
def Fmt.field (f : Fmt) (neg : Bool) (E T : Nat) : FV :=
  let t := f.prec - 1
  if E = 0 then (if f = .a36 then .fin neg 0 0 else .fin neg T (1 - f.bias - t))
  else .fin neg (2 ^ t + T) (E - f.bias - t)

/-- Decode8 of 04 R91, and the IEEE formats and A36 of R94, R96. -/
def Fmt.decode (f : Fmt) (x : Nat) : FV :=
  let t := f.prec - 1
  let neg := !f.isUnsigned && x / f.signBit % 2 == 1
  let mag := if f.isUnsigned then x else x % f.signBit
  if f.isB8 then
    if x = f.nan then .nan false
    else if !f.isFinite && x == f.infCode then .inf false
    else if !f.isFinite && !f.isUnsigned && x == 0xFF then .inf true
    else f.field neg (mag / 2 ^ t) (mag % 2 ^ t)
  else if f.infCode < mag then .nan (f != .a36 && mag / 2 ^ (t - 1) % 2 == 0)
  else if mag = f.infCode then .inf neg
  else f.field neg (mag / 2 ^ t) (mag % 2 ^ t)

/-- A code with its sign; binary8 has no negative zero. -/
def Fmt.signed (f : Fmt) (neg : Bool) (mag : Nat) : Nat := if neg && !(f.isB8 && mag == 0) then mag + f.signBit else mag

/-- Encode of 04 R98 for the magnitude n × 2^q. -/
def Fmt.encodeMag (f : Fmt) (n : Nat) (q : Int) : Nat :=
  let t := f.prec - 1
  let n1 := if 2 ^ f.prec ≤ n then n / 2 else n
  let q1 := if 2 ^ f.prec ≤ n then q + 1 else q
  if n1 < 2 ^ t then n1 else (q1 + t + f.bias).toNat * 2 ^ t + (n1 - 2 ^ t)

/-- a × 2^x < b × 2^y. -/
def dyLt (a : Nat) (x : Int) (b : Nat) (y : Int) : Bool :=
  if a = 0 then 0 < b
  else if b = 0 then false
  else if a.log2 + x < b.log2 + y then true
  else if b.log2 + y < a.log2 + x then false
  else if x ≤ y then a < b * 2 ^ (y - x).toNat else a * 2 ^ (x - y).toNat < b

/-- The value n × 2^q exceeds maxfin. -/
def Fmt.tooBig (f : Fmt) (n : Nat) (q : Int) : Bool :=
  match f.decode f.maxCode with
  | .fin _ m e => dyLt m e n q
  | _ => false

/-- Rounding modes of cfmt<9:8> (04 R97): 0 nearest even, 1 toward zero, 2 toward +∞, 3 toward −∞. -/
def mirror (mode : Nat) : Nat := if mode = 2 then 3 else if mode = 3 then 2 else mode

/-- The rounded count of grid steps from the floor n, the remainder r of d, a sticky part below, and the sign. -/
def roundUp (mode : Nat) (neg : Bool) (n r d : Nat) (sticky : Bool) : Bool :=
  if r = 0 && !sticky then false
  else if mode = 0 then d < 2 * r || (2 * r == d && (sticky || n % 2 == 1))
  else if mode = 2 then !neg
  else if mode = 3 then neg
  else false

/-- The grid point of spacing 2^q chosen for (m + sticky) × 2^e, and whether it is inexact. -/
def toGrid (mode : Nat) (neg : Bool) (m : Nat) (e q : Int) (sticky : Bool) : Nat × Bool :=
  if q ≤ e then (m * 2 ^ (e - q).toNat + (if roundUp mode neg (m * 2 ^ (e - q).toNat) 0 1 sticky then 1 else 0), sticky)
  else
    let d := 2 ^ (q - e).toNat
    (m / d + (if roundUp mode neg (m / d) (m % d) d sticky then 1 else 0), m % d != 0 || sticky)

/-- Overflow of 04 R99. -/
def Fmt.overflow (f : Fmt) (mode : Nat) (neg : Bool) : Nat × Flags :=
  if f.isFinite then (f.signed neg f.maxCode, flOverflow ||| flInexact ||| flSat)
  else
    let toInf := mode == 0 || (mode == 2 && !neg) || (mode == 3 && neg)
    (f.signed neg (if toInf then f.infCode else f.maxCode), flOverflow ||| flInexact)

/-- Round of 04 R98 for a nonzero value of a sign the format has. -/
def Fmt.roundMag (f : Fmt) (mode : Nat) (neg : Bool) (m : Nat) (e : Int) (sticky : Bool) : Nat × Flags :=
  let top : Int := m.log2 + e
  let q : Int := (if top < f.emin then f.emin else top) - f.prec + 1
  let g := toGrid mode neg m e q sticky
  if f.tooBig g.1 q then f.overflow mode neg
  else (f.signed neg (f.encodeMag g.1 q), flIf g.2 flInexact ||| flIf (g.2 && top < f.emin) flUnderflow)

/-- RoundFlush of 04 R101. -/
def Fmt.flushMag (f : Fmt) (mode : Nat) (neg : Bool) (m : Nat) (e : Int) : Nat × Flags :=
  let q : Int := m.log2 + e - f.prec + 1
  let g := toGrid mode neg m e q false
  if dyLt g.1 q 1 f.emin then (f.signed neg 0, flUnderflow ||| flInexact)
  else if f.tooBig g.1 q then f.overflow mode neg
  else (f.signed neg (f.encodeMag g.1 q), flIf g.2 flInexact)

/-- A negative value for an unsigned binary8 destination (04 R100). -/
def Fmt.negUnsigned (f : Fmt) (r : Nat × Flags) : Nat × Flags := if r.1 = 0 then r else (f.nan, flInvalid)

def Fmt.round (f : Fmt) (mode : Nat) (neg : Bool) (m : Nat) (e : Int) (sticky : Bool) : Nat × Flags :=
  if f.isUnsigned && neg then f.negUnsigned (f.roundMag (mirror mode) false m e sticky)
  else f.roundMag mode neg m e sticky
def Fmt.roundFlush (f : Fmt) (mode : Nat) (neg : Bool) (m : Nat) (e : Int) : Nat × Flags :=
  if f.isUnsigned && neg then f.negUnsigned (f.flushMag (mirror mode) false m e)
  else f.flushMag mode neg m e

/-- A zero of a sign. -/
def Fmt.zero (f : Fmt) (neg : Bool) : Nat := if f.isB8 then 0 else f.signed neg 0

/-- An exact infinity where the format has it; `fl` is what a finite binary8 format adds when it clamps. -/
def Fmt.infinity (f : Fmt) (neg : Bool) (fl : Flags) : Nat × Flags :=
  if f.isUnsigned && neg then (f.nan, flInvalid)
  else if f.isFinite then (f.signed neg f.maxCode, fl)
  else (f.signed neg f.infCode, 0)

/-- A value put into a float format (04 R105). -/
def Fmt.put (f : Fmt) (mode : Nat) : FV → Nat × Flags
  | .nan sg => (f.nan, flIf sg flInvalid)
  | .inf neg => f.infinity neg (flOverflow ||| flInexact ||| flSat)
  | .fin neg 0 _ => (f.zero neg, 0)
  | .fin neg (m + 1) e => f.round mode neg (m + 1) e false

/-- ToInt of 04 R105. -/
def toInt (n : Nat) (sgn : Bool) (mode : Nat) : FV → Int × Flags
  | .nan _ => (0, flInvalid)
  | .inf neg => (if neg then intLo n sgn else intHi n sgn, flInvalid ||| flSat)
  | .fin neg m e =>
    let g := toGrid mode neg m e 0 false
    let v : Int := if neg then -(g.1 : Int) else g.1
    if v < intLo n sgn then (intLo n sgn, flInvalid ||| flSat)
    else if intHi n sgn < v then (intHi n sgn, flInvalid ||| flSat)
    else (v, flIf g.2 flInexact)

/-- The exact sum of two finite values as a signed number of units 2^e. -/
def addUnits (n1 : Bool) (m1 : Nat) (e1 : Int) (n2 : Bool) (m2 : Nat) (e2 : Int) : Int × Int :=
  let e := if m1 = 0 then e2 else if m2 = 0 then e1 else if e1 ≤ e2 then e1 else e2
  let a : Int := if m1 = 0 then 0 else m1 * 2 ^ (e1 - e).toNat
  let b : Int := if m2 = 0 then 0 else m2 * 2 ^ (e2 - e).toNat
  ((if n1 then -a else a) + (if n2 then -b else b), e)

/-- The value of v units of 2^e; a zero is positive. -/
def ofUnits (v : Int) (e : Int) : FV := .fin (v < 0) v.natAbs e

def FV.isNan : FV → Bool
  | .nan _ => true
  | _ => false
def FV.isSnan : FV → Bool
  | .nan s => s
  | _ => false
def FV.neg : FV → FV
  | .nan s => .nan s
  | .inf n => .inf !n
  | .fin n m e => .fin (!n) m e

/-- The exact sum with R131's special operands: a value, or invalid. -/
def fvAdd (mode : Nat) (x y : FV) : FV × Flags :=
  match x, y with
  | .nan s, b => (.nan false, flIf (s || b.isSnan) flInvalid)
  | a, .nan s => (.nan false, flIf (s || a.isSnan) flInvalid)
  | .inf a, .inf b => if a = b then (.inf a, 0) else (.nan false, flInvalid)
  | .inf a, .fin _ _ _ => (.inf a, 0)
  | .fin _ _ _, .inf b => (.inf b, 0)
  | .fin n1 m1 e1, .fin n2 m2 e2 =>
    let u := addUnits n1 m1 e1 n2 m2 e2
    if u.1 = 0 then (.fin (if m1 = 0 ∧ m2 = 0 ∧ n1 = n2 then n1 else mode == 3) 0 0, 0)
    else (ofUnits u.1 u.2, 0)

/-- The exact product. -/
def fvMul (x y : FV) : FV × Flags :=
  match x, y with
  | .nan s, b => (.nan false, flIf (s || b.isSnan) flInvalid)
  | a, .nan s => (.nan false, flIf (s || a.isSnan) flInvalid)
  | .inf a, .inf b => (.inf (a != b), 0)
  | .inf a, .fin n m _ => if m = 0 then (.nan false, flInvalid) else (.inf (a != n), 0)
  | .fin n m _, .inf b => if m = 0 then (.nan false, flInvalid) else (.inf (n != b), 0)
  | .fin n1 m1 e1, .fin n2 m2 e2 => (.fin (n1 != n2) (m1 * m2) (e1 + e2), 0)

/-- a < b for values that are not NaN; zeros are equal. -/
def fvLt (x y : FV) : Bool :=
  match x, y with
  | .inf a, .inf b => a && !b
  | .inf a, .fin _ _ _ => a
  | .fin _ _ _, .inf b => !b
  | .fin n1 m1 e1, .fin n2 m2 e2 => (addUnits n1 m1 e1 (!n2) m2 e2).1 < 0
  | _, _ => false

/-- a = b for values that are not NaN; zeros are equal. -/
def fvEq (x y : FV) : Bool :=
  match x, y with
  | .inf a, .inf b => a == b
  | .fin n1 m1 e1, .fin n2 m2 e2 => (addUnits n1 m1 e1 (!n2) m2 e2).1 == 0
  | _, _ => false

/-! Elements as numbers. -/

/-- Element i of width n as a number. -/
def eltN (n : Nat) (v : Wide) (i : Nat) : Nat := v.toNat / 2 ^ (n * i) % 2 ^ n

/-- The number whose digits of n bits are given, lowest first. -/
def packN (n : Nat) : List Nat → Nat
  | [] => 0
  | x :: xs => x % 2 ^ n + packN n xs * 2 ^ n

/-- Results as numbers with flags, gathered into a payload. -/
def gatherN (n : Nat) (rs : List (Nat × Flags)) : Wide × Flags :=
  (BitVec.ofNat 256 (packN n (rs.map (·.1))), flOr (rs.map (·.2)))

def eltsN (n : Nat) (v : Wide) : List Nat := (List.range (256 / n)).map (eltN n v)

end Sys2Proof.Machine
end

