-- ==== Sys2Proof/Machine/Transc.lean ====
section
/-! DEFINITION. The transcendentals (05 R133, R134): an exact result as an interval of one unit, correctly rounded for
b8, bf16 and f16; for f32 a free value (log 10) wherever it keeps the bound of R133. -/

namespace Sys2Proof.Machine

/-- Newton steps toward the floor of a square root, from above. -/
def sqrtStep (n x : Nat) : Nat → Nat
  | 0 => x
  | k + 1 => let y := (x + n / x) / 2; if y < x then sqrtStep n y k else x

/-- Floor of the square root. -/
def isqrt (n : Nat) : Nat := if n = 0 then 0 else sqrtStep n (2 ^ (n.log2 / 2 + 1)) (n.log2 + 2)

/-- Bits of the fixed-point fractions below. -/
def txBits : Nat := 512

/-- Floor of 2^f × 2^txBits for the fraction f whose bits are those of `frac` below bit `j`: a product of the roots
2^(1/2), 2^(1/4), …; `root` is the root before the next. -/
def exp2Frac (frac : Nat) (root acc : Nat) : Nat → Nat
  | 0 => acc
  | j + 1 =>
    let r := isqrt (root * 2 ^ txBits)
    exp2Frac frac r (if frac / 2 ^ j % 2 = 1 then acc * r / 2 ^ txBits else acc) j

/-- `b` bits of the binary logarithm of x / 2^txBits, which lies in [1, 2), by repeated squaring. -/
def log2Frac (x acc : Nat) : Nat → Nat
  | 0 => acc
  | b + 1 =>
    let y := x * x / 2 ^ txBits
    if 2 ^ (txBits + 1) ≤ y then log2Frac (y / 2) (2 * acc + 1) b else log2Frac y (2 * acc) b

/-- A real result: an exact value, or one strictly between m × 2^e and (m + 1) × 2^e in magnitude. -/
structure Real1 where
  neg : Bool
  m : Nat
  e : Int
  sticky : Bool
  deriving DecidableEq, Repr

/-- 1 / a for a = ± m × 2^e. -/
def rcpReal (neg : Bool) (m : Nat) (e : Int) : Real1 :=
  let k := m.log2 + 200
  ⟨neg, 2 ^ k / m, -k - e, 2 ^ k % m != 0⟩

/-- 1 / √a for a = m × 2^e. -/
def rsqReal (m : Nat) (e : Int) : Real1 :=
  let m1 := if e % 2 = 0 then m else 2 * m
  let e1 := if e % 2 = 0 then e else e - 1
  let k := m1.log2 + 200
  let t := isqrt (2 ^ (2 * k) / m1)
  ⟨false, t, -k - e1 / 2, t * t * m1 != 2 ^ (2 * k)⟩

/-- 2^a for a = ± m × 2^e. Beyond 2^17 in magnitude the result overflows or underflows in every format. -/
def exp2Real (neg : Bool) (m : Nat) (e : Int) : Real1 :=
  if 17 < m.log2 + e then ⟨false, 1, if neg then -131072 else 131072, neg⟩
  else if 0 ≤ e then ⟨false, 1, if neg then -(m * 2 ^ e.toNat : Nat) else (m * 2 ^ e.toNat : Nat), false⟩
  else
    let j := (-e).toNat
    let i : Int := m / 2 ^ j
    let f := m % 2 ^ j
    if f = 0 then ⟨false, 1, if neg then -i else i, false⟩
    else
      let f1 := if neg then 2 ^ j - f else f
      let i1 := if neg then -i - 1 else i
      ⟨false, exp2Frac f1 (2 ^ (txBits + 1)) (2 ^ txBits) j, i1 - txBits, true⟩

/-- log2 a for a = m × 2^e, not 1. -/
def log2Real (m : Nat) (e : Int) : Real1 :=
  let k := m.log2
  let i : Int := e + k
  if m = 2 ^ k then ⟨i < 0, i.natAbs, 0, false⟩
  else
    let f := log2Frac (m * 2 ^ txBits / 2 ^ k) 0 200
    if 0 ≤ i then ⟨false, i.toNat * 2 ^ 200 + f, -200, true⟩
    else ⟨true, i.natAbs * 2 ^ 200 - f - 1, -200, true⟩

/-- The candidate lies within `k` × 2^a of the exact result: both ends of the result's unit are that near. -/
def nearEnough (r : Real1) (k : Nat) (a : Int) (c : FV) : Bool :=
  match c with
  | .fin n m e =>
    let d1 := addUnits n m e (!r.neg) r.m r.e
    let d2 := if r.sticky then addUnits n m e (!r.neg) (r.m + 1) r.e else d1
    !dyLt k a d1.1.natAbs d1.2 && !dyLt k a d2.1.natAbs d2.2
  | _ => false

/-- The spacing of the f32 grid at a result (05 R133). -/
def ulpExp (r : Real1) : Int := (if (r.m.log2 : Int) + r.e < -126 then -126 else (r.m.log2 : Int) + r.e) - 23

/-- The f32 result: the free value where it keeps the bound, else the nearest value; exact results exactly. -/
def f32Result (r : Real1) (exact ok : Bool) (free : Nat) : Nat × Flags :=
  let n := Fmt.f32.round 0 r.neg r.m r.e r.sticky
  if exact then n
  else if n.2 &&& flOverflow ≠ 0 then n
  else (if ok then free else n.1, n.2 ||| flInexact)

/-- The result in a format: correctly rounded, or by R133 for f32. -/
def realResult (f : Fmt) (mode : Nat) (r : Real1) (exact ok : Bool) (free : Nat) : Nat × Flags :=
  if f = .f32 then f32Result r exact ok free else f.round mode r.neg r.m r.e r.sticky

/-- An infinite result of R134: a finite binary8 format clamps and sets saturation. -/
def infResult (f : Fmt) (neg : Bool) (fl : Flags) : Nat × Flags :=
  let r := f.infinity neg flSat
  (r.1, r.2 ||| fl)

/-- A power of two, of which the reciprocal is a normal f32 value. -/
def rcpExact (m : Nat) (e : Int) : Bool := m == 2 ^ m.log2 && (-126 ≤ -(m.log2 + e)) && (-(m.log2 + e) ≤ 127)

def frcpOp (f : Fmt) (mode : Nat) (x : Nat) : Nat × Flags :=
  match f.decode x with
  | .nan s => (f.nan, flIf s flInvalid)
  | .inf n => (f.zero n, 0)
  | .fin n 0 _ => infResult f n flDivZero
  | .fin n (m + 1) e =>
    let r := rcpReal n (m + 1) e
    let c := (Config.frcp32 (BitVec.ofNat 32 x)).toNat
    realResult f mode r (rcpExact (m + 1) e) (f = .f32 && nearEnough r 1 (ulpExp r) (Fmt.f32.decode c)) c

def frsqOp (f : Fmt) (mode : Nat) (x : Nat) : Nat × Flags :=
  match f.decode x with
  | .nan s => (f.nan, flIf s flInvalid)
  | .inf true => (f.nan, flInvalid)
  | .inf false => (f.zero false, 0)
  | .fin n 0 _ => infResult f n flDivZero
  | .fin true (_ + 1) _ => (f.nan, flInvalid)
  | .fin false (m + 1) e =>
    let r := rsqReal (m + 1) e
    let c := (Config.frsq32 (BitVec.ofNat 32 x)).toNat
    realResult f mode r (!r.sticky && r.m == 2 ^ r.m.log2)
      (f = .f32 && nearEnough r 1 (ulpExp r) (Fmt.f32.decode c)) c

/-- 2^k for an integer k is an f32 value (05 R133). -/
def exp2Exact (r : Real1) : Bool := !r.sticky && -149 ≤ r.e && r.e ≤ 127

def fexp2Op (f : Fmt) (mode : Nat) (x : Nat) : Nat × Flags :=
  match f.decode x with
  | .nan s => (f.nan, flIf s flInvalid)
  | .inf true => (f.zero false, 0)
  | .inf false => infResult f false 0
  | .fin _ 0 _ => f.round mode false 1 0 false
  | .fin n (m + 1) e =>
    let r := exp2Real n (m + 1) e
    let c := (Config.fexp232 (BitVec.ofNat 32 x)).toNat
    realResult f mode r (exp2Exact r) (f = .f32 && nearEnough r 2 (ulpExp r) (Fmt.f32.decode c)) c

/-- a lies in [0.75, 1.5) (05 R133). -/
def nearOne (m : Nat) (e : Int) : Bool := !dyLt m e 3 (-2) && dyLt m e 3 (-1)

def flog2Op (f : Fmt) (mode : Nat) (x : Nat) : Nat × Flags :=
  match f.decode x with
  | .nan s => (f.nan, flIf s flInvalid)
  | .inf true => (f.nan, flInvalid)
  | .inf false => infResult f false 0
  | .fin _ 0 _ => infResult f true flDivZero
  | .fin true (_ + 1) _ => (f.nan, flInvalid)
  | .fin false (m + 1) e =>
    let r := log2Real (m + 1) e
    if r.m = 0 && !r.sticky then (f.zero false, 0)
    else
      let c := (Config.flog232 (BitVec.ofNat 32 x)).toNat
      realResult f mode r (!r.sticky)
        (f = .f32 && (if nearOne (m + 1) e then nearEnough r 1 (-23) (Fmt.f32.decode c)
          else nearEnough r 2 (ulpExp r) (Fmt.f32.decode c))) c

end Sys2Proof.Machine
end

