-- ==== Sys2Proof/Machine/Float.lean ====
section
/-! DEFINITION. The typed float groups 0x60 to 0x8F and FLOG2 (05 R130 to R134). -/

namespace Sys2Proof.Machine

/-- The format of a float type in a cell (03 R75, 05 R122). -/
def FTy.fmt (c : Cell) : FTy → Fmt
  | .b8 => .b8 (c.cfmt.setWidth 8)
  | .bf16 => .bf16
  | .f16 => .f16
  | .f32 => .f32
/-- The rounding mode (01 R21). -/
def Cell.mode (c : Cell) : Nat := bf c.cfmt 8 2

/-- Element-wise firings of float operations. -/
def State.fireF1 (s : State) (e : FTy) (o : OpU) (f : Fmt → Nat → Nat → Nat × Flags) : Out :=
  s.fireOp (ofU o) fun c a _ =>
    let k := FTy.fmt c e
    gatherN k.width ((eltsN k.width a).map (f k c.mode))
def State.fireF2 (s : State) (e : FTy) (o : OpB) (f : Fmt → Nat → Nat → Nat → Nat × Flags) : Out :=
  s.fireOp (ofB o) fun c a b =>
    let k := FTy.fmt c e
    gatherN k.width (List.zipWith (f k c.mode) (eltsN k.width a) (eltsN k.width b))

/-- A value rounded into a format, with the operation's own flags. -/
def putOr (f : Fmt) (mode : Nat) (r : FV × Flags) : Nat × Flags :=
  let p := f.put mode r.1
  (p.1, p.2 ||| r.2)

def faddOp (f : Fmt) (mode x y : Nat) : Nat × Flags := putOr f mode (fvAdd mode (f.decode x) (f.decode y))
def fsubOp (f : Fmt) (mode x y : Nat) : Nat × Flags := putOr f mode (fvAdd mode (f.decode x) (f.decode y).neg)
def fmulOp (f : Fmt) (mode x y : Nat) : Nat × Flags := putOr f mode (fvMul (f.decode x) (f.decode y))
def ffmaOp (f : Fmt) (mode x y w : Nat) : Nat × Flags :=
  let p := fvMul (f.decode x) (f.decode y)
  let r := fvAdd mode p.1 (f.decode w)
  putOr f mode (r.1, p.2 ||| r.2)

/-- The flag of a signalling input. -/
def snans (x y : FV) : Flags := flIf (x.isSnan || y.isSnan) flInvalid

/-- x is ordered below y, with −0 below +0 (05 R132). -/
def fvBelow (x y : FV) : Bool :=
  match x, y with
  | .fin n1 0 _, .fin n2 0 _ => n1 && !n2
  | _, _ => fvLt x y

def fminOp (f : Fmt) (_mode x y : Nat) : Nat × Flags :=
  let a := f.decode x
  let b := f.decode y
  if a.isNan || b.isNan then (f.nan, snans a b) else (if fvBelow b a then y else x, 0)
def fmaxOp (f : Fmt) (_mode x y : Nat) : Nat × Flags :=
  let a := f.decode x
  let b := f.decode y
  if a.isNan || b.isNan then (f.nan, snans a b) else (if fvBelow a b then y else x, 0)

def allOnesN (f : Fmt) (b : Bool) : Nat := if b then 2 ^ f.width - 1 else 0

def fcmpeqOp (f : Fmt) (_mode x y : Nat) : Nat × Flags :=
  let a := f.decode x
  let b := f.decode y
  (allOnesN f (!a.isNan && !b.isNan && fvEq a b), snans a b)
def fcmpltOp (f : Fmt) (_mode x y : Nat) : Nat × Flags :=
  let a := f.decode x
  let b := f.decode y
  (allOnesN f (!a.isNan && !b.isNan && fvLt a b), flIf (a.isNan || b.isNan) flInvalid)
def fcmpleOp (f : Fmt) (_mode x y : Nat) : Nat × Flags :=
  let a := f.decode x
  let b := f.decode y
  (allOnesN f (!a.isNan && !b.isNan && (fvLt a b || fvEq a b)), flIf (a.isNan || b.isNan) flInvalid)

def execFadd (e : FTy) (o : OpB) (s : State) : Out := s.fireF2 e o faddOp
def execFsub (e : FTy) (o : OpB) (s : State) : Out := s.fireF2 e o fsubOp
def execFmul (e : FTy) (o : OpB) (s : State) : Out := s.fireF2 e o fmulOp
def execFfma (e : FTy) (o : OpBW) (s : State) : Out :=
  s.fireOp (ofBW o) fun c a b =>
    let k := FTy.fmt c e
    gatherN k.width (List.zipWith (fun g w => g w) (List.zipWith (ffmaOp k c.mode) (eltsN k.width a) (eltsN k.width b))
      (eltsN k.width c.w[o.x]))
def execFmin (e : FTy) (o : OpB) (s : State) : Out := s.fireF2 e o fminOp
def execFmax (e : FTy) (o : OpB) (s : State) : Out := s.fireF2 e o fmaxOp
def execFcmpeq (e : FTy) (o : OpB) (s : State) : Out := s.fireF2 e o fcmpeqOp
def execFcmplt (e : FTy) (o : OpB) (s : State) : Out := s.fireF2 e o fcmpltOp
def execFcmple (e : FTy) (o : OpB) (s : State) : Out := s.fireF2 e o fcmpleOp
def execFrcp (e : FTy) (o : OpU) (s : State) : Out := s.fireF1 e o frcpOp
def execFrsq (e : FTy) (o : OpU) (s : State) : Out := s.fireF1 e o frsqOp
def execFexp2 (e : FTy) (o : OpU) (s : State) : Out := s.fireF1 e o fexp2Op

/-- The format of a float format code (03 R78). -/
def fmtOfCode (c : Cell) : Nat → Fmt
  | 0 => .b8 (c.cfmt.setWidth 8)
  | 1 => .bf16
  | 2 => .f16
  | _ => .f32

/-- FLOG2 (05 R130): the format comes from y. -/
def execFlog2 (o : OpUF) (s : State) : Out :=
  s.fireOp (ofUF o) fun c a _ =>
    let k := fmtOfCode c o.y.val
    gatherN k.width ((eltsN k.width a).map (flog2Op k c.mode))

end Sys2Proof.Machine
end

