-- ==== Sys2Proof/Machine/Convert.lean ====
section
/-! DEFINITION. Conversions, scaling and lane reductions (05 R135 to R137). -/

namespace Sys2Proof.Machine

/-- Width and signedness of an integer format code (03 R78). -/
def intBits (k : Nat) : Nat := 8 * 2 ^ (k % 4)
def intSigned (k : Nat) : Bool := k < 12
/-- Width of a number format code. -/
def codeBits (c : Cell) (k : Nat) : Nat := if k < 8 then (fmtOfCode c k).width else intBits k

/-- The integer an element holds. -/
def intVal (k x : Nat) : Int := if intSigned k && 2 ^ (intBits k - 1) ≤ x then (x : Int) - (2 ^ intBits k : Nat) else x

/-- An integer as an element. -/
def intCode (n : Nat) (v : Int) : Nat := (v % (2 ^ n : Nat)).toNat

/-- Convert of 05 R135, 04 R105: format codes i to j. -/
def convert (c : Cell) (i j x : Nat) : Nat × Flags :=
  if i < 8 then
    let v := (fmtOfCode c i).decode x
    if j < 8 then (fmtOfCode c j).put c.mode v
    else
      let r := toInt (intBits j) (intSigned j) c.mode v
      (intCode (intBits j) r.1, r.2)
  else if j < 8 then (fmtOfCode c j).put c.mode (ofUnits (intVal i x) 0)
  else
    let r := sat (intBits j) (intSigned j) (intVal i x)
    (r.1.toNat, r.2)

/-- The elements of a conversion (05 R135). -/
def convertAll (c : Cell) (i j : Nat) (a : Wide) : Wide × Flags :=
  let ns := codeBits c i
  let nd := codeBits c j
  gatherN nd ((List.range (256 / max ns nd)).map fun k => convert c i j (eltN ns a k))

def execFcvt (o : OpUIF) (s : State) : Out := s.fireOp (ofUIF o) fun c a _ => convertAll c o.b.val o.y.val a
def execIcvt (o : OpUIF) (s : State) : Out := s.fireOp (ofUIF o) fun c a _ => convertAll c o.b.val o.y.val a

/-- FSCL (05 R136): an element times 2^k. A quiet NaN passes as it is (log 17). -/
def fsclOp (f : Fmt) (mode : Nat) (k : Int) (x : Nat) : Nat × Flags :=
  match f.decode x with
  | .nan s => if s then (f.nan, flInvalid) else (x, 0)
  | .inf _ => (x, 0)
  | .fin _ 0 _ => (x, 0)
  | .fin n (m + 1) e => f.round mode n (m + 1) (e + k) false
def execFscl (o : OpBF) (s : State) : Out :=
  s.fireOp (ofBF o) fun c a b =>
    let f := fmtOfCode c o.y.val
    gatherN f.width ((eltsN f.width a).map (fsclOp f c.mode ((lane b 0).setWidth 16).toInt))

/-- One level of the pairwise tree (05 R137). -/
def pairUp (f : Nat → Nat → Nat × Flags) : List Nat → List (Nat × Flags)
  | x :: y :: r => f x y :: pairUp f r
  | _ => []

/-- The pairwise tree, and the flags of its nodes. -/
def tree (f : Nat → Nat → Nat × Flags) (fl : Flags) : Nat → List Nat → Nat × Flags
  | 0, xs => (xs.headD 0, fl)
  | n + 1, xs =>
    let r := pairUp f xs
    tree f (fl ||| flOr (r.map (·.2))) n (r.map (·.1))

/-- A reduction of all elements of a float format into element 0. -/
def reduceF (f : Fmt) (comb : Nat → Nat → Nat × Flags) (a : Wide) : Wide × Flags :=
  let r := tree comb 0 ((256 / f.width).log2) (eltsN f.width a)
  (BitVec.ofNat 256 r.1, r.2)

def execFsumr (o : OpUF) (s : State) : Out :=
  s.fireOp (ofUF o) fun c a _ =>
    let f := fmtOfCode c o.y.val
    reduceF f (faddOp f c.mode) a
def execFmaxr (o : OpUF) (s : State) : Out :=
  s.fireOp (ofUF o) fun c a _ =>
    let f := fmtOfCode c o.y.val
    reduceF f (fmaxOp f c.mode) a

/-- ISUMR (05 R137): the exact sum, saturated to 64 bits. -/
def isumr (k : Nat) (a : Wide) : Wide × Flags :=
  let r := sat 64 (intSigned k) (((eltsN (intBits k) a).map (intVal k)).foldl (· + ·) 0)
  (r.1.setWidth 256, r.2)
def execIsumr (o : OpUF) (s : State) : Out := s.fireOp (ofUF o) fun _ a _ => isumr o.y.val a

/-- IMAXR (05 R137). -/
def imaxr (k : Nat) (a : Wide) : Wide :=
  let xs := (eltsN (intBits k) a).map (intVal k)
  BitVec.ofNat 256 (intCode (intBits k) (xs.foldl (fun m v => if m < v then v else m) (xs.headD 0)))
def execImaxr (o : OpUF) (s : State) : Out := s.firePure (ofUF o) fun _ a _ => imaxr o.y.val a

end Sys2Proof.Machine
end

