-- ==== Sys2Proof/Machine/EvBeacon.lean ====
section
/-! DEFINITION. The beacon's messages at the root and at the strips (06 R165 to R168, 14 R329 to R331). -/

namespace Sys2Proof.Machine

/-- The partition a beacon channel is assigned to (01 R36). -/
def State.bcnOwner (s : State) (ch : Nat) : Option Nat := (s.parts.find? fun p => bit p.2.channels ch).map (·.1)

/-- A generation is released: it reaches every strip of the partition 36 clk later (14 R330). -/
def State.release (s : State) (ch : Nat) (va vo vm : Word) : State :=
  let g := (s.beacon ch).gen + 1
  let s1 := s.modBeacon ch fun b => { b with gen := g }
  match s.bcnOwner ch with
  | some p => (s.stripsOf p).foldl (fun s t => s.at Config.beaconClk clsBeacon t (.releaseAtStrip t ⟨ch, g, va, vo, vm⟩)) s1
  | none => s1

/-- A generation's arrivals and partial results cleared. -/
def Beacon.fresh (b : Beacon) : Beacon := { b with arrivals := 0, pAnd := 0xFFFFFFFF, pOr := 0, pMax := 0 }

/-- The release at the end of a clk in which the arrivals reach P. -/
def State.releaseFull (s : State) (ch : Nat) : State :=
  let b := s.beacon ch
  if b.arrivals ≠ 0 ∧ b.P.toNat ≤ b.arrivals then (s.release ch b.pAnd b.pOr b.pMax).modBeacon ch Beacon.fresh else s

/-- BEACON_ARRIVAL_AT_ROOT. With P = 0 each arrival is released on its own. -/
def execBeaconArrivalAtRoot (m : BcnMsg) (s : State) : Out :=
  let b := s.beacon m.ch
  .next (if b.P = 0 then s.release m.ch m.vand m.vor m.vmax
         else s.modBeacon m.ch fun b =>
           { b with arrivals := b.arrivals + m.count, pAnd := b.pAnd &&& m.vand, pOr := b.pOr ||| m.vor,
                    pMax := if b.pMax.toNat ≤ m.vmax.toNat then m.vmax else b.pMax })

/-- The result of a release under an operator (06 R167). -/
def redResult (r : BcnRel) (op : Nat) : Word := if op = 0 then r.vand else if op = 1 then r.vor else r.vmax

/-- A cell at a release: its arrival bit clears, and its deferred results have their values; they are written at the end of the
clk, or in the first clk that a halted or stopped cell runs again (06 R167, R169). -/
def Cell.released (c : Cell) (r : BcnRel) : Cell :=
  { c with
    arrBits := setBit c.arrBits r.ch false
    bcred := c.bcred.map fun b => if b.ch = r.ch ∧ b.val = none then { b with val := some (inLane0 (redResult r b.op)) } else b }
def State.releaseCell (s : State) (c : Nat) (r : BcnRel) : State := s.modCell c fun k => k.released r
/-- A saved cell at a release at the strip it was saved from (06 R169). -/
def Save.mapStrip (v : Save) (strip : Nat) (f : Cell → Cell) : Save :=
  if v.live then { v with cells := (v.places.zip v.cells).map fun x => if cellStrip x.1 = strip then f x.2 else x.2 } else v

/-- A WFE of a pilot ends (09 R236). -/
def Pilot.wake (p : Pilot) : Pilot := { p with woke := true }

/-- A pilot at a release: a REDUCE latches its result, an ARRIVE zero (09 R245). -/
def Pilot.released (p : Pilot) (r : BcnRel) : Pilot :=
  let v : Word := match tblGet? p.redOp r.ch with
    | some op => redResult r op.val
    | none => 0
  { p.wake with
    arr := setBit p.arr r.ch false
    latched := if bit p.arr r.ch then tblPut p.latched r.ch v else p.latched }

/-- RELEASE_AT_STRIP. -/
def execReleaseAtStrip (strip : Nat) (r : BcnRel) (s : State) : Out :=
  let s1 := (s.cells.filter fun c => cellStrip c.1 == strip).foldl (fun (s : State) c => s.releaseCell c.1 r) s
  let s2 := { s1 with saves := s1.saves.map fun (v : Save) => v.mapStrip strip fun k => k.released r }.modBeacon r.ch fun b =>
    { b with copy := tblPut b.copy strip r.gen }
  .next (s2.modPilot strip fun p => p.released r)

/-- BROADCAST_AT_STRIP. -/
def execBroadcastAtStrip (ch strip : Nat) (v : DWord) (s : State) : Out :=
  .next ((s.modBeacon ch fun b =>
    { b with bval := tblPut b.bval strip v, bcnt := tblPut b.bcnt strip (tblGet 0 b.bcnt strip + 1) }).modPilot strip Pilot.wake)

end Sys2Proof.Machine
end

