-- ==== Sys2Proof/Machine/EvChannel.lean ====
section
/-! DEFINITION. What a home quay does with its channels (08 R211, R212; 11 R272 to R276). -/

namespace Sys2Proof.Machine

/-- CHANNEL_ALLOCATION. -/
def execChannelAllocation (ch : Nat) (s : State) : Out := .next (s.chanGrant ch)

/-- FREE_FRAME_PUSH: the allocation of a released frame, whose element follows it (08 R216). -/
def execFreeFramePush (ch : Nat) (s : State) : Out := .next (s.chanGrant ch)

/-- The pilot registered as a channel's reader (09 R243). -/
def State.readerPilot (s : State) (ch : Nat) : Option Nat :=
  let v := (s.chan ch).reader
  if bf v 30 2 = 1 then some (bf v 0 6 + (s.part (s.chanPart ch)).first) else none

/-- CHANNEL_WRITE_TOKEN. An element that becomes complete ends a WFE of its reader (09 R236); one lost with a channel that breaks does not
become complete. -/
def execChannelWriteToken (ch : Nat) (s : State) : Out :=
  let s1 := s.chanWrite ch
  .next (if (s.chan ch).cur.isSome && (s1.chan ch).cur.isNone && (s1.chan ch).broken == (s.chan ch).broken then
      match s1.readerPilot ch with
      | some p => s1.modPilot p Pilot.wake
      | none => s1
    else s1)

/-- CHANNEL_READ_SERVE. -/
def execChannelReadServe (ch : Nat) (s : State) : Out := .next (s.chanRead ch)

/-- BASIN_MOVE_START and BASIN_MOVE_LAND. -/
def execBasinMoveStart (ch : Nat) (s : State) : Out := .next (s.moveStart ch)
def execBasinMoveLand (ch : Nat) (s : State) : Out := .next (s.moveLand ch)

/-- SPLICE_COMPLETE. -/
def execSpliceComplete (ch : Nat) (s : State) : Out := .next (s.modChan ch fun c => { c with splice := false })

end Sys2Proof.Machine
end

