-- ==== Sys2Proof/Machine/MatrixOps.lean ====
section
/-! DEFINITION. Matrix mode (07 R170 to R185; 04 R106 to R114). -/

namespace Sys2Proof.Machine

/-- Width class of an element format: 8 or 16 bits, 0 for a code outside 04 R106. -/
def efmtClass (e : Nat) : Nat := if e = 0 || e = 8 || e = 12 then 8 else if e = 1 || e = 2 then 16 else 0

/-- A binary8 code that is reserved (04 R90). -/
def b8Reserved (c : Nat) : Bool := c % 8 == 0 || 32 ≤ c

/-- Bad by the checks of 04 R107 that look at the header alone. -/
def hdrBadAlone (h : Word) : Bool :=
  bf h 4 4 != 0 || bf h 24 8 != 0 || efmtClass (bf h 0 4) == 0 ||
    (if bf h 0 4 = 0 then b8Reserved (bf h 8 8) else bf h 8 8 != 0)

/-- The side after a header is applied (07 R176); `cls` is the other side's class, if it counts. -/
def Decoder.apply (d : Decoder) (h : Word) (cls : Option Nat) : Decoder × Flags :=
  if hdrBadAlone h || (match cls with | some k => k != efmtClass (bf h 0 4) | none => false) then
    ({ d with bad := true }, flInvalid)
  else (⟨h.setWidth 4, h.extractLsb' 8 8, h.extractLsb' 16 8, false⟩, 0)

def Decoder.cls (d : Decoder) : Nat := efmtClass d.efmt.toNat

/-- Dec of 07 R180: an element's exact value. -/
def Decoder.dec (d : Decoder) (x : Nat) : FV :=
  match d.efmt.toNat with
  | 0 => (Fmt.b8 d.b8).decode x
  | 1 => Fmt.bf16.decode x
  | 2 => Fmt.f16.decode x
  | 8 => ofUnits (intVal 8 x) 0
  | _ => ofUnits x 0

/-- The exact sum of terms with the special values of 04 R111 (log 19). -/
def sumFV (ts : List FV) : FV × Flags :=
  let p := ts.any fun t => t == .inf false
  let n := ts.any fun t => t == .inf true
  let fl := flIf (p && n) flInvalid
  if ts.any FV.isNan || (p && n) then (.nan false, fl)
  else if p then (.inf false, 0)
  else if n then (.inf true, 0)
  else
    let u := ts.foldl (fun a t => match t with | .fin g m e => addUnits (a.1 < 0) a.1.natAbs a.2 g m e | _ => a) ((0 : Int), (0 : Int))
    (ofUnits u.1 u.2, 0)

/-- RoundFlush into a format; ±∞ and NaN pass (04 R101, R105). -/
def Fmt.flushPut (f : Fmt) (mode : Nat) : FV → Nat × Flags
  | .fin neg (m + 1) e => f.roundFlush mode neg (m + 1) e
  | v => f.put mode v

/-- The products of a row of activations with a weight column; no flag while a side is bad. -/
def products (mx : Matrix) (a w : Wide) : List FV × Flags :=
  let n := mx.act.cls
  let ps := List.zipWith (fun x y => fvMul (mx.act.dec x) (mx.wgt.dec y)) (eltsN n a) (eltsN n w)
  (ps.map (·.1), flOr (ps.map (·.2)))

def Matrix.bad (mx : Matrix) : Bool := mx.act.bad || mx.wgt.bad

/-- One column's sum with further terms, rounded once to A36 (04 R110). -/
def columnSum (mx : Matrix) (a : Wide) (c : Fin 4) (more : List FV) : Nat × Flags :=
  if mx.bad then (Fmt.a36.nan, 0)
  else
    let p := products mx a mx.blk[c]
    let s := sumFV (p.1 ++ more)
    let r := Fmt.a36.flushPut 0 s.1
    (r.1, r.2 ||| s.2 ||| p.2)

/-- Column c of a partial-sum token (07 R171). -/
def psum (v : Wide) (c : Fin 4) : FV := Fmt.a36.decode (eltN 64 v c.val % 2 ^ 36)

/-- Row of a cell in its region: the top row, the bottom row. -/
def State.topRow (s : State) (c : Nat) : Bool := cellRow c == (s.cellRegion c).row
def State.bottomRow (s : State) (c : Nat) : Bool := cellRow c + 1 == (s.cellRegion c).row + hdrRows (s.cellHdr c)

/-- The tile is complete (07 R173). -/
def Matrix.complete (mx : Matrix) : Bool := mx.acnt == mx.T * mx.P

/-- MXHDR (07 R176). -/
def execMxhdr (o : OpKU) (s : State) : Out :=
  let c := s.cell s.curCell
  if c.ready (ofKU o) then
    let r := c.mx.wgt.apply (lane (c.src o.a).pay 0) (some c.mx.act.cls)
    .next ((s.modCell s.curCell fun c => { c with mx := { c.mx with wgt := r.1 } }).finish (ofKU o) (ofKU o).popped 0 .zero r.2)
  else .next s

/-- MXLD (07 R178). -/
def execMxld (o : OpKI) (s : State) : Out :=
  s.fireTag (ofKI o) true 0 .zero fun c =>
    { c with mx := { c.mx with blk := vset c.mx.blk (Fin.ofNat 4 o.b.val) (c.src o.a).pay } }

/-- Accumulate of 07 R181. -/
def Matrix.accumulate (mx : Matrix) (a : Wide) (ps : Fin 4 → FV) : Matrix × Flags :=
  let m1 := if mx.latched then mx else { mx with sa := mx.act.scale, sb := mx.wgt.scale, latched := true }
  let rs := four.map fun c =>
    if m1.act.scale = m1.sa ∧ m1.wgt.scale = m1.sb then
      columnSum m1 a c [ps c, Fmt.a36.decode (tblGet 0 m1.acc (4 * m1.arow + c.val)).toNat]
    else (Fmt.a36.nan, flInvalid)
  let acc := (List.zip four rs).foldl (fun t r => tblPut t (4 * m1.arow + r.1.val) (BitVec.ofNat 36 r.2.1)) m1.acc
  ({ m1 with acc := acc, arow := (m1.arow + 1) % m1.T, acnt := m1.acnt + 1 }, flOr (rs.map (·.2)))

/-- A header firing of MXROW (07 R180). -/
def mxrowHeader (o : OpU) (s : State) : Out :=
  let f := ofU o
  let c := s.cell s.curCell
  let t := c.src o.a
  let r := c.mx.act.apply (lane t.pay 0) (some c.mx.wgt.cls)
  let s1 := s.modCell s.curCell fun c => { c with mx := { c.mx with act := r.1 } }
  .next ((s1.writeDst s.curCell f.y t).finish f.noDst f.popped 0 .zero r.2)

/-- The data firing's conditions (07 R179, R185). -/
def mxrowOk (c : Cell) (top bottom : Bool) : Bool :=
  (top || c.dataAt 1) && c.mx.drain.isNone && (!bottom || c.mx.acnt < c.mx.T * c.mx.P)

/-- A data firing of MXROW (07 R180). -/
def mxrowData (o : OpU) (s : State) : Out :=
  let f := ofU o
  let c := s.cell s.curCell
  let top := s.topRow s.curCell
  if mxrowOk c top (s.bottomRow s.curCell) then
    let a := (c.src o.a).pay
    let ps (k : Fin 4) : FV := if top then .fin false 0 0 else psum (c.src (.inp 1)).pay k
    let tag := c.outTag f
    let pops := (if top then [] else [1]) ++ f.popped
    if s.bottomRow s.curCell then
      let r := c.mx.accumulate a ps
      let s1 := s.modCell s.curCell fun c => { c with mx := r.1 }
      .next ((s1.writeDst s.curCell f.y ⟨a, tag⟩).finish f.noDst pops 0 tag r.2)
    else
      let rs := four.map fun k => columnSum c.mx a k [ps k]
      let s1 := s.writeDst s.curCell f.y ⟨a, tag⟩
      .next (s1.finish { f with y := .nul } pops (BitVec.ofNat 256 (packN 64 (rs.map (·.1)))) tag (flOr (rs.map (·.2))))
  else .next s

/-- MXROW (07 R179, R180). -/
def execMxrow (o : OpU) (s : State) : Out :=
  let c := s.cell s.curCell
  if c.ready (ofU o) && (c.src o.a).tag.lvl == 0 then
    if (c.src o.a).tag.hdr then mxrowHeader o s else mxrowData o s
  else .next s

/-- The tile cleared (07 R182). -/
def Matrix.clear (mx : Matrix) : Matrix := { mx with acc := [], arow := 0, acnt := 0, latched := false }

/-- MXCLR (07 R182). -/
def execMxclr (s : State) : Out :=
  s.fireTag ofZ ((s.cell s.curCell).mx.drain.isNone) 0 .zero fun c => { c with mx := c.mx.clear }

/-- MXCFG (07 R177): the cell after item y is written, and the flags. -/
def mxcfgApply (y : Nat) (a : Wide) (c : Cell) : Cell × Flags :=
  let l := lane a 0
  match y with
  | 0 => if b8Reserved (bf l 0 8) then (c, flInvalid) else ({ c with cfmt := (c.cfmt &&& 0x300) ||| (l.setWidth 10 &&& 0xFF) }, 0)
  | 1 => ({ c with cfmt := (c.cfmt &&& 0xFF) ||| ((l.setWidth 10 &&& 3) <<< 8) }, 0)
  | 2 => if b8Reserved (bf l 0 8) then (c, flInvalid) else ({ c with cfmt := l.setWidth 10 }, 0)
  | 3 => ({ c with mx := { c.mx with T := bf l 0 8 + 1, P := bf l 8 8 + 1, arow := 0, acnt := 0 } }, 0)
  | _ =>
    let w := lane a 1
    let ca := efmtClass (bf l 0 4)
    let cw := efmtClass (bf w 0 4)
    let ra := c.mx.act.apply l (if cw = 0 then none else some cw)
    let rw := c.mx.wgt.apply w (if ca = 0 then none else some ca)
    ({ c with mx := { c.mx with act := ra.1, wgt := rw.1 } }, ra.2 ||| rw.2)
def execMxcfg (o : OpKF) (s : State) : Out :=
  let c := s.cell s.curCell
  if c.ready (ofKF o) && !(o.y.val == 3 && c.mx.drain.isSome) then
    let r := mxcfgApply o.y.val (c.src o.a).pay c
    .next ((s.setCell s.curCell r.1).finish (ofKF o) (ofKF o).popped 0 .zero r.2)
  else .next s

/-- Entry size of a drain in bytes (07 R183). -/
def drainSize (l : Word) : Nat := if bit l 2 then 8 else match bf l 3 2 with | 0 => 1 | 3 => 4 | _ => 2
/-- Tokens of a drain. -/
def drainTokens (l : Word) (T : Nat) : Nat := (T * drainSize l + 7) / 8

/-- A drained entry (07 R184, 04 R114). -/
def drainEntry (c : Cell) (l : Word) (v : BitVec 36) : Nat × Flags :=
  if bit l 2 then (v.toNat, 0)
  else
    match Fmt.a36.decode v.toNat with
    | .fin n m e => (fmtOfCode c (bf l 3 2)).flushPut c.mode (.fin n m (e + c.mx.sa.toInt + c.mx.sb.toInt))
    | x => (fmtOfCode c (bf l 3 2)).put c.mode x

/-- The tokens and flags of a drain. -/
def drainAll (c : Cell) (l : Word) : List Wide × Flags :=
  let rs := (List.range (4 * c.mx.T)).map fun i => drainEntry c l (tblGet 0 c.mx.acc i)
  let n := packN (8 * drainSize l) (rs.map (·.1))
  ((List.range (drainTokens l c.mx.T)).map fun i => BitVec.ofNat 256 (n / 2 ^ (256 * i)), flOr (rs.map (·.2)))

/-- The handle after n writes. -/
def Handle.wroteN (h : Handle) : Nat → Handle
  | 0 => h
  | n + 1 => (h.wroteN n).wrote

/-- The head of A is a data token without the header flag, where A is an in-port (07 R184). -/
def drainHead (c : Cell) (a : Sel) : Bool := (c.src a).tag.lvl == 0 && !(c.src a).tag.hdr

/-- MXDRN (07 R184). -/
def execMxdrn (o : OpKU) (s : State) : Out :=
  let c := s.cell s.curCell
  let t := c.src o.a
  let l := lane t.pay 0
  let n : Fin 4 := Fin.ofNat 4 (bf l 0 2)
  let h := c.ctx.hands[n]
  if !(c.ready (ofKU o) && c.mx.complete && c.mx.drain.isNone && drainHead c o.a) then .next s
  else if !rtV c.ctx.routes[n] then .next (s.stopHere 6 (BitVec.ofNat 8 n.val) 0 0 0)
  else if h.v && drainTokens l c.mx.T ≤ h.len + 1 - h.wr then
    let r := drainAll c l
    let rt := c.ctx.routes[n]
    let d := s.routeCell s.curCell c.actx n
    let dr : Drain := ⟨n.val, .out d (rtCtx rt).val (rtPort rt).val (h.base + h.wr) (routeLat s.curCell d), t.tag.seq, bit l 5, r.1⟩
    let s1 := s.modCell s.curCell fun c =>
      { c.modCtx c.actx (fun x => x.modHand n fun h => h.wroteN (drainTokens l c.mx.T)) with
        mx := { c.mx with drain := some dr } }
    .next (s1.finish (ofKU o) (ofKU o).popped 0 .zero r.2)
  else .next s

end Sys2Proof.Machine
end

