-- ==== Sys2Proof/Machine/EvToken.lean ====
section
/-! DEFINITION. What happens to tokens without an instruction: arrivals, marker joins and their forwarding, switches, berth
requests and grants, and deferred writes (01 R12, R17 to R26; 06 R156 to R158; 07 R184, R185; 10 R255 to R264). -/

namespace Sys2Proof.Machine

/-- A token in a held slot; nothing arrives in a slot that no berth holds (01 R12). A slot that a pop of this clk freed takes the
token first and is free then: its bits stay empty (01 R26). -/
def Cell.takeToken (c : Cell) (x p : Fin 4) (i : Nat) (t : Token) : Cell :=
  if (c.slot i).rdr = 0 then
    if c.freed.contains i then (c.setSlot i { c.slot i with pay := t.pay, tag := t.tag }).countArrival x p t else c
  else (c.setSlot i { c.slot i with pay := t.pay, tag := t.tag, fe := 0xFF }).countArrival x p t

/-- TOKEN_ARRIVAL. -/
def execTokenArrival (c ctx port slot : Nat) (t : Token) (s : State) : Out :=
  .next (if (s.cell c).region.isNone then s
         else s.modCell c fun k => k.takeToken (Fin.ofNat 4 ctx) (Fin.ofNat 4 port) slot t)

/-! Markers (01 R17, R18). -/

/-- The token that a forwarded marker copies: the head of the lowest port of the marker set. -/
def Cell.joinTok (c : Cell) (l : BitVec 3) : Token :=
  match four.find? fun n => ctlMset c.ctx.ctl n with
  | some p =>
    let t := (c.headTok c.actx p).getD ⟨0, .zero⟩
    ⟨t.pay, ⟨l, false, t.tag.seq⟩⟩
  | none => ⟨0, ⟨l, false, 0⟩⟩

/-- MARKER_JOIN: the hardware takes a join that the context does not claim. -/
def Cell.takeJoin (c : Cell) : Cell :=
  match c.join with
  | some l =>
    if c.claims || c.ctx.fan.isSome then c
    else c.modCtx c.actx fun x => { x with fan := some ⟨l, c.joinTok l, x.ctl.extractLsb' 5 4⟩ }
  | none => c
def execMarkerJoin (c : Nat) (s : State) : Out := .next (if s.frozen c then s else s.modCell c Cell.takeJoin)

/-- One fan port: the marker is written, or a berth of one slot is requested. -/
def State.fanPort (s : State) (c : Nat) (f : Fan) (n : Fin 4) : State :=
  let h := (s.cell c).ctx.hands[n]
  if !bit f.left n.val then s
  else if h.v && h.spent then s
  else if h.v then
    (s.writeOut c n f.tok).modCell c fun k => k.modCtx k.actx fun x =>
      { x with fan := x.fan.map fun g => { g with left := setBit g.left n.val false } }
  else if h.out then s
  else s.request c n 1 true

/-- The join completes: the markers of its level are popped (01 R17, R18, R20). -/
def Cell.endJoin (c : Cell) (final : Fin 4) (l : BitVec 3) : Cell :=
  let ps := four.filter fun p => ctlMset c.ctx.ctl p && (match c.headTok c.actx p with | some t => t.tag.lvl == l | none => false)
  let c1 := ps.foldl (fun (c : Cell) p => c.pop c.actx p true) c
  { c1.modCtx c1.actx (fun x => { x with fan := none, join7 := x.join7 || l == 7 }) with
    joined := c1.joined || (l == 7 && c1.actx == final) }

/-- HARDWARE_MARKER_FORWARD: the fan writes that can be made, in port order, and the end of the join once all are; a join that is
forwarding when MXDRN fires goes on during the drain (DESIGN CHOICE, log 102). -/
def execHardwareMarkerForward (c : Nat) (s : State) : Out :=
  match (s.cell c).ctx.fan with
  | none => .next s
  | some f =>
    if s.frozen c then .next s
    else
      let s1 := four.foldl (fun s n => s.fanPort c f n) s
      match (s1.cell c).ctx.fan with
      | some g => .next (if g.left = 0 then s1.modCell c fun k => k.endJoin (hdrFinal (s1.cellHdr c)) g.lvl else s1)
      | none => .next s1

/-! Switches (01 R23, R24; 06 R155, R156). -/

/-- The count trigger is reached. -/
def Cell.triggers (c : Cell) : Bool := ctlCtv c.ctx.ctl != 0 && ctlCtv c.ctx.ctl ≤ c.swcnt.toNat

/-- COUNT_TRIGGER: a switch to nctx is pending, unless one is pending already. -/
def execCountTrigger (c : Nat) (s : State) : Out :=
  .next (if (s.cell c).triggers then s.modCell c fun k =>
    { k with swcnt := 0, swPend := true, swTgt := if k.swPend then k.swTgt else ctlNctx k.ctx.ctl } else s)

/-- No held slot of the ring of a port holds a token. -/
def Cell.noToken (c : Cell) (p : Fin 4) : Bool :=
  (List.range (bdCap c.ctx.binds[p])).all fun i =>
    let sl := c.slot (bdBase c.ctx.binds[p] + i)
    sl.rdr == 0 || sl.fe == 0

/-- The conditions of 06 R156 and 07 R185. -/
def Cell.switches (c : Cell) : Bool :=
  c.swPend && (bf c.ctx.ctl 1 4 == 0 || c.ctx.join7) && (four.all fun p => !bdEn c.ctx.binds[p] || c.noToken p) &&
    c.dly.isEmpty && c.bcred.isEmpty && c.mx.drain.isNone

/-- The context entered becomes active: it has joined nothing since (06 R156, 01 R23). -/
def Cell.switched (c : Cell) : Cell :=
  let t := c.swTgt
  { c.modCtx t (fun x => { x with join7 := false }) with
    actx := t, swPend := false, swcnt := 0, p := ctlPinit c.ctxs[t].ctl }

/-- SWITCH_COMPLETION. -/
def execSwitchCompletion (c : Nat) (s : State) : Out :=
  .next (if (s.cell c).switches && !s.frozen c then s.modCell c Cell.switched else s)

/-! Berths (10 R257 to R260). -/

/-- The link by which a request reaches a store, as its rank (10 R259). -/
def reqLink (st : StoreId) (r : BReq) : Nat :=
  match st with
  | .cell c => entryLink r.src c
  | .quay q =>
    if r.kind = 1 ∨ (r.kind = 4 ∧ r.fctx ≠ 1) then 64 + r.src
    else if r.kind = 2 then 128
    else if r.kind = 3 then 129 + r.src
    else State.quayRank q r.src

/-- A request takes a place of the roadstead, or waits on its link (10 R260): it finds the roadstead full also while others wait, which
take the entries that free before it. -/
def enter (st : StoreId) (room : Nat) (road outside : List BReq) (r : BReq) : List BReq × List BReq :=
  if road.length < room ∧ outside.isEmpty then (road ++ [r], outside)
  else (road, outside ++ [r])

/-- BERTH_REQUEST_ARRIVAL. A request finds no allocator where no region holds the cell. -/
def execBerthRequestArrival (st : StoreId) (r : BReq) (s : State) : Out :=
  match st with
  | .cell c =>
    if (s.cell c).region.isNone then .next s
    else .next (s.modCell c fun k =>
      let e := enter st Config.cellRoad k.road k.outside r
      { k with road := e.1, outside := e.2 })
  | .quay q =>
    .next (s.modQuay q fun k =>
      let e := enter st Config.quayRoad k.road k.outside r
      { k with road := e.1, outside := e.2 })

/-- The requests that stand first on their links, and those behind them. -/
def heads (st : StoreId) : List Nat → List BReq → List BReq × List BReq
  | _, [] => ([], [])
  | seen, r :: t =>
    if seen.contains (reqLink st r) then
      let e := heads st seen t
      (e.1, r :: e.2)
    else
      let e := heads st (reqLink st r :: seen) t
      (r :: e.1, e.2)

/-- Requests that are first on their links from one clk on, in the order of 10 R259. -/
def insertReq (st : StoreId) (r : BReq) : List BReq → List BReq
  | [] => [r]
  | x :: t => if reqLink st r < reqLink st x then r :: x :: t else x :: insertReq st r t
def sortReqs (st : StoreId) (l : List BReq) : List BReq := l.foldl (fun t r => insertReq st r t) []

/-- The roadstead after entries free: the waiting heads enter in the order in which they found it full, and the requests behind
those that entered find it full next (10 R260). -/
def enterWaiting (st : StoreId) (room : Nat) (road outside : List BReq) : List BReq × List BReq :=
  let h := heads st [] outside
  let n := room - road.length
  let stay := h.1.drop n
  let g := heads st (stay.map (reqLink st)) h.2
  (road ++ h.1.take n, stay ++ sortReqs st g.1 ++ g.2)

/-- ROADSTEAD_ENTRY. -/
def execRoadsteadEntry (st : StoreId) (s : State) : Out :=
  match st with
  | .cell c =>
    .next (s.modCell c fun k =>
      let e := enterWaiting st Config.cellRoad k.road k.outside
      { k with road := e.1, outside := e.2 })
  | .quay q =>
    .next (s.modQuay q fun k =>
      let e := enterWaiting st Config.quayRoad k.road k.outside
      { k with road := e.1, outside := e.2 })

/-- The oldest request for a ring. -/
def Cell.ringReq (c : Cell) (x p : Fin 4) : Option BReq := c.road.find? fun r => r.dctx == x.val && r.dport == p.val

/-- The request that a ring's allocator grants, with its run and pad (10 R257, R258). -/
def Cell.grants (c : Cell) (x p : Fin 4) : Option (BReq × Nat × Bool) :=
  match c.ringReq x p with
  | some r => (grantable c.ctxs[x].rings[p] (bdCap c.ctxs[x].binds[p]) r.cnt).map fun g => (r, g)
  | none => none

/-- The cell after a grant. -/
def Cell.granted (c : Cell) (x p : Fin 4) (r : BReq) (start : Nat) (pad : Bool) : Cell :=
  let b := c.ctxs[x].binds[p]
  let c1 := (c.modCtx x fun k => k.modRing p fun g => ringGrant g (bdCap b) r.cnt start pad).readySlots (bdBase b + start) (bdRdc b) r.cnt
  { c1 with road := c1.road.erase r }

/-- ALLOCATOR_GRANT: the grant goes back along the route. -/
def execAllocatorGrant (c ctx port : Nat) (s : State) : Out :=
  let x := Fin.ofNat 4 ctx
  let p := Fin.ofNat 4 port
  let k := s.cell c
  match k.grants x p with
  | none => .next s
  | some (r, start, pad) =>
    let b := k.ctxs[x].binds[p]
    let g : Grant :=
      { dst := r.src, ctx := r.fctx, hnd := r.hnd, rd := bdRdc b - 1, len := r.cnt - 1, base := bdBase b + start, tgt := c,
        tctx := ctx, tport := port, owner := r.owner }
    .next (((s.setCell c (k.granted x p r start pad)).modQuay (2 * cellStrip c) fun q =>
      { q with granted := s.cellVd c :: q.granted }).at r.lat clsGrant 0 (.grantArrival g))

/-- The handle that a grant writes. -/
def Handle.ofGrant (g : Grant) : Handle := ⟨true, g.rd, 0, g.len, g.base, false⟩

/-- GRANT_ARRIVAL: to the handle; held while the requester's region is SAVED (16 R366); the slots are abandoned when it is
gone, in the save that holds them where their region was saved (10 R263). -/
def execGrantArrival (g : Grant) (s : State) : Out :=
  let st := (s.region g.owner).st
  if st = .saved ∨ st = .restoring then .next (s.at 1 clsGrant 0 (.grantArrival g))
  else if st = .free ∨ st = .killing ∨ (s.cell g.dst).region ≠ some g.owner then
    .next (s.abandonAt g.tgt (Fin.ofNat 4 g.tctx) (Fin.ofNat 4 g.tport) (.ofGrant g))
  else .next (s.modCell g.dst fun c => c.modCtx (Fin.ofNat 4 g.ctx) fun x => x.modHand (Fin.ofNat 4 g.hnd) fun _ => (.ofGrant g))

/-! Deferred writes (06 R158, R167, R169; 07 R184; 08 R195). -/

/-- What of a cell's deferred results lands at the end of this clk: answers of its requests, a HAND's while its region is not halted
(08 R218, R219), and, where it is not frozen, what it delayed. -/
def Cell.landings (c : Cell) (frozen halted : Bool) (clk : Nat) : List Landing :=
  (c.lands.filter fun l => !(l.hold && halted)) ++
    if frozen then []
    else ((c.dly.filter fun d => d.due ≤ clk).map fun d => ⟨d.w, d.pay, true⟩) ++
      c.bcred.filterMap fun b => b.val.map fun v => ⟨b.w, v, true⟩
/-- The cell without them. -/
def Cell.landed (c : Cell) (frozen halted : Bool) (clk : Nat) : Cell :=
  { c with
    lands := c.lands.filter fun l => l.hold && halted
    dly := if frozen then c.dly else c.dly.filter fun d => clk < d.due
    bcred := if frozen then c.bcred else c.bcred.filter fun b => b.val.isNone }

/-- In the order of the firings. -/
def insertLanding (l : Landing) : List Landing → List Landing
  | [] => [l]
  | x :: t => if l.w.seq < x.w.seq then l :: x :: t else x :: insertLanding l t
def sortLandings (l : List Landing) : List Landing := l.foldl (fun t x => insertLanding x t) []

/-- DLY_DEFERRED_WRITE: the deferred writes of a clk, in firing order. -/
def execDlyDeferredWrite (c : Nat) (s : State) : Out :=
  let k := s.cell c
  .next ((sortLandings (k.landings (s.frozen c) (s.halted c) s.clk)).foldl (fun s l => s.land c l.w l.pay)
    (s.modCell c fun k => k.landed (s.frozen c) (s.halted c) s.clk))

/-- Where the next token of a drain goes. -/
def WDst.succ : WDst → WDst
  | .out c x p i l => .out c x p (i + 1) l
  | d => d

/-- The matrix state after a drain's last token. -/
def Matrix.drained (m : Matrix) (clr : Bool) : Matrix := { (if clr then m.clear else m) with drain := none }

/-- DRAIN_TOKEN_WRITE. -/
def execDrainTokenWrite (c : Nat) (s : State) : Out :=
  match (s.cell c).mx.drain with
  | none => .next s
  | some d =>
    if s.frozen c then .next s
    else
      match d.toks with
      | [] => .next (s.modCell c fun k => { k with mx := k.mx.drained d.clr })
      | t :: rest =>
        let s1 := s.landOne c d.dst ⟨t, ⟨0, false, d.seq⟩⟩
        .next (s1.modCell c fun k =>
          { k with mx := if rest.isEmpty then k.mx.drained d.clr else { k.mx with drain := some { d with toks := rest, dst := d.dst.succ } } })

end Sys2Proof.Machine
end

