-- ==== Sys2Proof/Machine/EvDredger.lean ====
section
/-! DEFINITION. The dredger: rounds, samples, growth, and the artificial-deadlock trap (11 R276, R280 to R285; 10 R261). -/

namespace Sys2Proof.Machine

/-- Sources of records after the strips: the I/O die's, the dredger's and the management controller's, and notify records
(13 R303). -/
def srcDie : Nat := 48
def srcNotify : Nat := 49

/-! Samples (11 R280). -/

/-- Cells of a virtual device on a strip. -/
def State.cellsOn (s : State) (strip vd : Nat) : List Nat :=
  (s.cells.filter fun c => cellStrip c.1 == strip && c.2.region.isSome && s.cellVd c.1 == vd).map (·.1)
def State.runsOn (s : State) (strip vd : Nat) : List Nat :=
  (s.cellsOn strip vd).filter fun c => (s.cellRegion c).st == .running

/-- A request of a cell that waits in a roadstead or for an entry. -/
def State.waitsForBerth (s : State) (c x n : Nat) : Bool :=
  s.cells.any fun t => (t.2.road ++ t.2.outside).any fun r => r.kind == 0 && r.src == c && r.fctx == x && r.hnd == n

/-- A quiet cell. That a slot of it is eligible shows in `acted` (log 27). -/
def State.quiet (s : State) (c : Nat) : Bool :=
  let k := s.cell c
  k.dly.isEmpty && k.bcred.isEmpty && k.mx.drain.isNone && !k.evtBusy && !k.stop.stopped && k.arrBits == 0 &&
    four.all fun x => four.all fun n => !k.ctxs[x].hands[n].out || s.waitsForBerth c x.val n.val

/-- A counted request that only waits in its home roadstead, or for an entry: an allocation, or the push of a release (19 R393). -/
def Req.queues (s : State) (r : Req) : Bool :=
  let waits (p : BReq → Bool) : Bool := s.quays.any fun q => q.2.road.any p || q.2.outside.any p
  r.arrived && !r.served && (match r.kind with
    | .chw ch _ al => al && waits fun b => b.kind == 0 && b.chan == ch && b.src == r.cell
    | .blkop _ _ _ => waits fun b => b.kind == 4 && b.rank == r.id && b.fctx == 1
    | _ => false)
/-- Nothing of a quay cell is outstanding, and no reply is still to be written (19 R393). -/
def State.settled (s : State) (c : Nat) : Bool :=
  (s.cell c).coal.isEmpty && (s.cell c).lands.isEmpty && (s.ofCell c).all fun r => !r.kind.counted || r.queues s

/-- The virtual device that something in flight belongs to. -/
def State.flightVd (s : State) (e : Instr) : Option Nat :=
  match e with
  | .tokenArrival c _ _ _ _ => some (s.cellVd c)
  | .berthRequestArrival (.cell c) _ => some (s.cellVd c)
  | .berthRequestArrival (.quay _) r => some (s.chanVd r.chan)
  | .grantArrival g => some (s.cellVd g.tgt)
  | _ => none
/-- A grant that is held at the allocator while its requester's region is saved is on no link (16 R366). -/
def State.heldGrant (s : State) (e : Instr) : Bool :=
  match e with
  | .grantArrival g => (s.region g.owner).st == .saved || (s.region g.owner).st == .restoring
  | _ => false
/-- Something of a virtual device is in flight. It counts for every strip: only the AND over the strips is used. -/
def State.inFlight (s : State) (vd : Nat) : Bool :=
  (s.pend.any fun p => s.flightVd p.ev == some vd && !s.heldGrant p.ev) || s.passes.any fun p => p.ev.any fun e => s.flightVd e == some vd

/-- Channels of a strip's quays, as physical numbers. -/
def State.chansOn (s : State) (strip : Nat) : List (Nat × Chan) :=
  [2 * strip, 2 * strip + 1].flatMap fun q => (s.quay q).chans.map fun c => (64 * q + c.1, c.2)
/-- A channel that keeps a virtual device from being stalled: basin work, or a writer outside the package's regions. -/
def Chan.stirs (c : Chan) : Bool :=
  !c.moves.isEmpty || c.splice || c.paused || (c.opened && 2 ≤ bf c.writer 30 2)

def State.active (s : State) (strip vd : Nat) : Bool := !(s.runsOn strip vd).isEmpty
def State.stalled (s : State) (strip vd : Nat) : Bool :=
  (s.cellsOn strip vd).isEmpty ||
    ((s.runsOn strip vd).all s.quiet && (s.cellsOn strip vd).all (fun c => !isQuayCell c || s.settled c) &&
      (s.chansOn strip).all (fun c => s.chanVd c.1 != vd || !c.2.stirs) && !s.inFlight vd &&
      (s.cellsOn strip vd).all (fun c => !(s.cell c).acted) && !(s.quay (2 * strip)).granted.contains vd)

/-- Virtual devices of a partition that exist. -/
def State.vdsOf (s : State) (part : Nat) : List Nat := (s.vds.filter fun v => v.1 / 8 == part).map (·.1)

/-- DREDGER_ROUND: the sample and its result come 36 and 72 clk later (11 R281). -/
def execDredgerRound (part : Nat) (s : State) : Out :=
  .next ((s.at Config.beaconClk clsOther part (.dredgerSample part)).at (2 * Config.beaconClk) clsOther part (.dredgerResult part))

/-- DREDGER_SAMPLE: the bits are taken, and what they watch begins afresh. -/
def execDredgerSample (part : Nat) (s : State) : Out :=
  let ts := s.stripsOf part
  let vs := s.vdsOf part
  let s1 := s.modPart part fun p =>
    { p with sActive := vs.filter fun v => ts.any fun t => s.active t v, sStalled := vs.filter fun v => ts.all fun t => s.stalled t v }
  let s2 := { s1 with cells := s1.cells.map fun (c : Nat × Cell) =>
    (c.1, if ts.contains (cellStrip c.1) then { c.2 with acted := false } else c.2) }
  .next (ts.foldl (fun s t => s.modQuay (2 * t) fun q => { q with granted := [] }) s2)

/-! Growth (11 R276). -/

/-- Basin slots x up of extent X copied to extent k, with their tags. A poisoned sector of them breaks the channel (16 R373). -/
def State.spliceCopy (s : State) (ch X k x : Nat) : State :=
  let c := s.chan ch
  match s.extFrame ch X (c.elemOff x), s.extFrame ch k (c.elemOff x) with
  | (some f, _), (some g, _) =>
    let vd := s.chanVd ch
    let n := 32 * c.e * (c.pe - x)
    let m := 2 * c.e * (c.pe - x)
    let at_ (b : Frame) (off : Nat) : Nat := b.base.toNat + off
    if s.poisonedAt (at_ f (c.elemOff x)) n || s.poisonedAt (at_ f (c.tagOff x)) m then s.breakChan ch
    else
      let a := s.qread (ch / 64) vd f.key f.pol (at_ f (c.elemOff x)) n
      let b := a.2.qread (ch / 64) vd f.key f.pol (at_ f (c.tagOff x)) m
      (b.2.qwrite (ch / 64) vd g.key g.pol (at_ g (c.elemOff x)) a.1).qwrite (ch / 64) vd g.key g.pol (at_ g (c.tagOff x)) b.1
  | _, _ => s

/-- The accesses of a growth, by extent and offset, can be made. -/
def State.growOk (s : State) (ch : Nat) (xs : List (Nat × Nat)) : Bool × State :=
  xs.foldl (fun (r : Bool × State) x =>
    if r.1 then
      match r.2.extFrame ch x.1 x.2 with
      | (some _, t) => (true, t)
      | (none, t) => (false, t)
    else r) (true, s)

/-- The channel takes its next extent. A growth whose accesses fault is held with the channel's other basin accesses, and made
again with them (11 R277; log 28). -/
def State.grow (s : State) (ch : Nat) : State :=
  let c := s.chan ch
  let k := c.eg
  let o := c.elemOff c.bWr.2
  let xs := if k = 0 then [(0, 65504)] else if c.bWr.2 = 0 then [(c.lastW, 65504), (k, 65504)] else [(c.bWr.1, o), (k, o)]
  match s.growOk ch xs with
  | (false, s1) => s1.modChan ch fun d => { d with growHeld := d.paused }
  | (true, s1) =>
    let s2 := (s1.modVd (s1.chanVd ch) fun v => { v with quota := v.quota - 1 }).modChan ch fun c => { c with eg := k + 1 }
    if k = 0 then (s2.setLink ch 0 0).modChan ch fun c => { c with bRd := (0, 0), bWr := (0, 0) }
    else
      match s2.linkOf ch (if c.bWr.2 = 0 then c.lastW else c.bWr.1) with
      | (none, s3) => s3
      | (some n, s3) =>
        if c.bWr.2 = 0 then ((s3.setLink ch k n).setLink ch c.lastW k).modChan ch fun c => { c with bWr := (k, 0) }
        else
          let s4 := s3.spliceCopy ch c.bWr.1 k c.bWr.2
          if (s4.chan ch).broken then s4
          else
            (((s4.setLink ch k n).setLink ch c.bWr.1 k).modChan ch fun d =>
              { d with bRd := (k, c.bWr.2), splice := true }).at Config.workClk clsOther ch (.spliceComplete ch)

/-- BASIN_ACCESS_REISSUE: what waited on a held access goes on, a growth among it (11 R277). -/
def execBasinAccessReissue (ch : Nat) (s : State) : Out :=
  let s1 := s.modChan ch fun c => { c with paused := false, growHeld := false }
  .next (if (s.chan ch).growHeld && (s.vd (s.chanVd ch)).quota != 0 then s1.grow ch else s1)

/-! The trap (11 R283). -/

/-- Channels of a virtual device, by physical number. -/
def State.chansOf (s : State) (vd : Nat) : List (Nat × Chan) :=
  ((s.stripsOf (vd / 8)).flatMap s.chansOn).filter fun c => c.2.opened && c.2.vd == vd % 8
/-- A full channel on which a writer waits (kinds 0, 1 and 4). -/
def State.writerWaits (s : State) (c : Nat × Chan) : Bool :=
  c.2.full && s.chanWaits c.1 fun r => r.kind == 0 || r.kind == 1 || r.kind == 4

/-- A roadstead entry as 10 R261 lays it out. -/
def State.roadWord (s : State) (part rank : Nat) (r : BReq) : DWord :=
  let n := if r.kind = 0 ∧ r.chan = 0 then 0 else r.chan - 128 * (s.part part).first
  BitVec.ofNat 64 (r.who.toNat + r.hnd % 4 * 2 ^ 16 + (r.cnt - 1) % 512 * 2 ^ 18 + r.dctx % 4 * 2 ^ 27 + r.dport % 4 * 2 ^ 29 +
    (if r.mrk && r.kind == 0 then 2 ^ 31 else 0) + r.kind % 8 * 2 ^ 32 + n % 8192 * 2 ^ 35 + rank % 64 * 2 ^ 48)
/-- A snapshot entry. -/
def snapEntry (place quay ty : Nat) (w : DWord) : BitVec 128 :=
  BitVec.ofNat 128 (place + quay * 2 ^ 16 + ty * 2 ^ 24 + w.toNat * 2 ^ 64)
/-- Entries of one store that satisfy a test, each with its rank among all the entries: those outside the roadstead follow those in it,
in the order in which they found it full (10 R260, R261). -/
def State.snapRoad (s : State) (part place quay : Nat) (mine : BReq → Bool) (road outside : List BReq) : List (BitVec 128) :=
  (((List.range (road.length + outside.length)).zip (road ++ outside)).filter fun x => mine x.2).map fun x =>
    snapEntry place quay (if x.1 < road.length then 0 else 1) (s.roadWord part x.1 x.2)
/-- All the entries of a virtual device's snapshot. -/
def State.snapEntries (s : State) (vd : Nat) : List (BitVec 128) :=
  let part := vd / 8
  let first := (s.part part).first
  (s.cells.filter fun c => c.2.region.isSome && s.cellVd c.1 == vd).flatMap (fun c =>
    s.snapRoad part (s.place c.1).toNat 0 (fun _ => true) c.2.road c.2.outside) ++
  (s.quaysOf part).flatMap (fun q =>
    s.snapRoad part 0xFFFF (q - 2 * first) (fun r => s.chanVd r.chan == vd) (s.quay q).road (s.quay q).outside) ++
  (s.chansOf vd).filterMap fun c =>
    if c.2.chrWait.isSome then some (snapEntry 0xFFFF (c.1 / 64 - 2 * first) 2 (BitVec.ofNat 64 (c.1 - 128 * first))) else none

/-- The trap's snapshot and record, once every region has halted. -/
def State.trapEnd (s : State) (vd : Nat) : State :=
  match (s.vd vd).trap with
  | none => s
  | some why =>
    if (s.runningOf vd).any fun r => (s.region r).halt.isSome then s
    else
      let es := s.snapEntries vd
      let n := min 4095 es.length
      let v := s.vd vd
      let room := 65536 ≤ v.saveSize.toNat
      let a := v.saveBase.toNat + v.saveSize.toNat - 65536
      let hd : BitVec 128 := BitVec.ofNat 128 (n + if n < es.length then 2 ^ 32 else 0)
      let s1 := if room && s.hasKey vd then s.qwrite (2 * (s.part (vd / 8)).first) vd (s.rootKey vd) 0 a ((hd :: es.take n).flatMap fun (x : BitVec 128) => toBytes x 16) else s
      (s1.modVd vd fun v => { v with trap := none }).post (vd / 8) srcDie none
        (recBody 7 vd 0xFFFF [(8, 1, why), (9, 1, vd % 8), (12, 4, if room then n else 0), (16, 8, if room then a else 0)])

/-- The trap begins: every RUNNING region halts. -/
def State.deadlock (s : State) (vd why : Nat) : State :=
  ((s.runningOf vd).foldl (fun s r => s.haltRegion r .dredger) s).modVd vd fun v => { v with trap := some why }

/-- The action of 11 R282. -/
def State.dredge (s : State) (vd : Nat) : State :=
  let ws := (s.chansOf vd).filter s.writerWaits
  let cs := ws.filter fun c => c.2.eg < c.2.limit
  let best := cs.foldl (fun (o : Option (Nat × Chan)) c => match o with
    | some b => if c.2.cap < b.2.cap then some c else some b
    | none => some c) none
  match best with
  | some c => if (s.vd vd).quota = 0 then s.deadlock vd 1 else s.grow c.1
  | none => s.deadlock vd (if ws.isEmpty then 0 else 2)

/-- DREDGER_RESULT: the counts, and the action on the lowest virtual device that has reached two. -/
def execDredgerResult (part : Nat) (s : State) : Out :=
  let p := s.part part
  let all (v : Nat) : Bool := p.sActive.contains v && p.sStalled.contains v
  let s1 := (s.vdsOf part).foldl (fun s v => s.modVd v fun d => { d with dredge := if all v then d.dredge + 1 else 0 }) s
  .next (match (s1.vdsOf part).find? fun v => 2 ≤ (s1.vd v).dredge with
    | some v => (s1.dredge v).modVd v fun d => { d with dredge := 0 }
    | none => s1)

end Sys2Proof.Machine
end

