-- ==== Sys2Proof/Machine/EvRegion.lean ====
section
/-! DEFINITION. What happens to regions without an instruction (01 R20; 09 R241, R242; 13 R304 to R312; 16 R364 to R368). -/

namespace Sys2Proof.Machine

/-- REGION_COMPLETION_EVENT. -/
def execRegionCompletionEvent (r : Nat) (s : State) : Out :=
  .next (if (s.region r).st = .running ∧ s.isDrained r then s.drainRegion r else s)

/-- QUANTUM_EXPIRY: the halt it begins, unless one is under way (13 R310). -/
def execQuantumExpiry (r : Nat) (s : State) : Out :=
  .next (if (s.region r).expiresNow s.clk then
      (s.modRegion r fun g => { g with counter := 0, expired := true }).haltRegion r .quantum
    else s)

/-- PREEMPT_SIGNAL: the gating that follows it. -/
def execPreemptSignal (r : Nat) (s : State) : Out := .next (if s.halting r Config.haltGate then s.gateRegion r else s)
/-- READ_PHASE_END. -/
def execReadPhaseEnd (r : Nat) (s : State) : Out := .next (if s.halting r Config.haltReads then s.readsEnd r else s)
/-- HALT_COMPLETE. -/
def execHaltComplete (r : Nat) (s : State) : Out := .next (if s.halting r Config.haltDone then s.stopRegion r else s)

/-- The region gives up its cells and leaves the table. -/
def State.dropRegion (s : State) (r : Nat) : State :=
  let s1 := s.vacate r
  { s1 with regions := tblDel s1.regions r }

/-- LOADING_END: the images are checked; the region is LOADED, or FREE with a load-fault record (13 R305, R309). -/
def execLoadingEnd (r : Nat) (s : State) : Out :=
  let g := s.region r
  if g.st ≠ .loading then .next s
  else if g.kill then .next (s.killStart r)
  else
    match s.readImages r with
    | (.error f, s1) => .next (((s1.loadFault g.part (s.regStrip r) g.vd g.rid 0 g.hdrVa f).dropRegion r).asyncEnd r)
    | (.ok cs, s1) =>
      .next ((((s1.configure r cs).modRegion r fun g => { g with st := .loaded }).doneRecord r 0).asyncEnd r)

/-- SAVE_COMPLETE: the image is written, or the berths abandoned, and the cells freed (09 R242, 16 R365, R368). -/
def execSaveComplete (r : Nat) (s : State) : Out :=
  let g := s.region r
  if g.st ≠ .saving then .next s
  else
    let s1 := if hdrDiscard g.hdr then s.saveDiscard r else s.saveSettle r
    .next ((((s1.vacate r).modRegion r fun g => { g with st := .saved }).doneRecord r 3).asyncEnd r)

/-- RESTORE_COMPLETE. -/
def execRestoreComplete (r : Nat) (s : State) : Out :=
  .next (if (s.region r).st = .restoring then s.restoreRegion r else s)

/-- A token that was sent before the region's cells stopped, and that still crosses the die boundaries. -/
def Pass.oldToken (p : Pass) (vd clk : Nat) : Bool :=
  p.vd == vd && decide (p.since + Config.killClk ≤ clk) && p.isToken

/-- KILL_COMPLETE, once every token in flight has landed. -/
def execKillComplete (r : Nat) (s : State) : Out :=
  let g := s.region r
  .next (if g.st ≠ .killing then s
    else if s.passes.any fun p => p.oldToken (8 * g.part + g.vd) s.clk then s.at 1 clsOther r (.killComplete r)
    else s.killEnd r)

end Sys2Proof.Machine
end

