-- ==== Sys2Proof/Machine/EvPilot.lean ====
section
/-! DEFINITION. What happens to pilots without an instruction of their own (03 R87; 09 R226, R232, R236, R248, R249). -/

namespace Sys2Proof.Machine

/-- ILLEGAL_INSTRUCTION: a pilot fetched a word that is no instruction (03 R87). -/
def execIllegalInstruction (p : Nat) (w : Word) (s : State) : Out :=
  .next (s.modPilot p fun q => q.trap 1 q.pc (w.setWidth 64))

/-! The event interrupt (09 R226). -/

/-- An instruction that an interrupt ends while it waits for a release, or for what comes before its request. ARRIVE and REDUCE wait
for an earlier release while the pilot's arrival bit of the channel is set. -/
def State.abandons (s : State) (p : Nat) (i : Instr) : Bool :=
  let earlier (a : Fin 32) : Bool := bit (s.pilot p).arr (bf ((s.pilot p).reg a) 0 5)
  match i with
  | .bcnWait _ | .chnChput _ | .chnChtake _ => true
  | .bcnArrive o => earlier o.a
  | .bcnReduceAnd o | .bcnReduceOr o | .bcnReduceMax o => earlier o.a
  | _ => false

/-- A request of a pilot's CHPUT. -/
def ofPilot (p : Nat) (r : BReq) : Bool := r.kind == 1 && r.src == p

/-- The request of a pilot's CHPUT still waits or is on its way. -/
def State.ungranted (s : State) (p ch : Nat) : Bool :=
  ((s.quay (ch / 64)).road ++ (s.quay (ch / 64)).outside).any (ofPilot p) ||
    s.pend.any fun e => match e.ev with
      | .berthRequestArrival (.quay _) r => ofPilot p r
      | _ => false

/-- The instruction a pilot is in can be abandoned, or it is in none. -/
def State.canInterrupt (s : State) (p : Nat) : Bool :=
  let q := s.pilot p
  match q.wait with
  | .no | .fetch | .fetching | .fetched _ | .wfe _ | .idle | .late => true
  | .again => match decodePilot q.held.toNat with
    | .ok i => s.abandons p i
    | .error _ => false
  | .chput ch => q.ans.isNone && s.ungranted p ch
  | .chtake _ => q.ans.isNone
  | _ => false

/-- What an abandoned instruction asked for is withdrawn. -/
def State.withdraw (s : State) (p : Nat) : State :=
  match (s.pilot p).wait with
  | .chput ch =>
    let s1 := s.modQuay (ch / 64) fun q =>
      { q with road := q.road.filter fun r => !ofPilot p r, outside := q.outside.filter fun r => !ofPilot p r }
    { s1 with pend := s1.pend.filter fun e => match e.ev with
        | .berthRequestArrival (.quay _) r => !ofPilot p r
        | _ => true }
  | .chtake ch => s.modChan ch fun c => { c with chrWait := none }
  | _ => s

/-- EVENT_INTERRUPT: the trap is taken before the next instruction; epc is the instruction it abandons (09 R224, R226). -/
def execEventInterrupt (p : Nat) (s : State) : Out :=
  if (s.pilot p).evTaken && s.canInterrupt p then
    .next ((s.withdraw p).modPilot p fun q => q.trap 0x101 q.pc 0)
  else .next s

/-- WFE_TIMEOUT. -/
def execWfeTimeout (p : Nat) (s : State) : Out :=
  .next (match (s.pilot p).wait with
    | .wfe d => if d ≤ s.clk then s.modPilot p Pilot.wake else s
    | _ => s)

/-- The access of a load that the pilot has gone on past. -/
def Pilot.lateAcc (m : Pilot) (id : Nat) : Option PAcc := (m.late.find? fun x => x.acc.id == id && x.val.isNone).map (·.acc)

/-- A store or an access of a pilot comes to its home slice. It waits for earlier stores of the pilot there (09 R234). -/
def State.pilotServe (s : State) (p id : Nat) : State :=
  let later : State := s.at 1 clsOther p (.pilotAccessComplete (p, id))
  match (s.pilot p).stores.find? fun x => x.id == id with
  | some x =>
    if s.storesBefore p id x.pa then later
    else (s.modPilot p fun q => { q with stores := q.stores.filter fun y => y.id != id }).perform x
  | none =>
    match (s.pilot p).lateAcc id with
    | some a => if s.storesBefore p id a.pa then later else s.serveLate p a
    | none =>
    match (s.pilot p).acc with
    | some a => if a.id ≠ id then s else if s.storesBefore p id a.pa then later
      else if s.gathers p a then (s.gather p a).at 1 clsOther p (.pilotAccessComplete (p, id))
      else s.serveAcc p a
    | none => s

/-- PILOT_ACCESS_COMPLETE: the home slice serves a store or an access of a pilot, and the acknowledgement or the answer returns
(09 R232, R233). -/
def execPilotAccessComplete (p : Nat × Nat) (s : State) : Out := .next (s.pilotServe p.1 p.2)

/-! Records (09 R248, R249; 13 R299, R303). -/

/-- A record's region and virtual device, and whether it is a cell's. -/
def Rec.regionTag (r : Rec) : Nat := bf r.body 8 24
def Rec.ofCell (r : Rec) : Bool := bf r.body 0 8 == 4 || bf r.body 0 8 == 6
/-- A completion record that still follows a record of a cell of its region. -/
def Rec.behind (r : Rec) (rs : List Rec) : Bool :=
  bf r.body 0 8 == 1 && rs.any fun x => x.part == r.part && x.ofCell && x.regionTag == r.regionTag

/-- The record of a failing pilot, which that pilot does not receive itself (16 R374). -/
def Rec.about (r : Rec) (sup : Nat) : Bool := bf r.body 0 8 == 0xD && bf r.body 64 8 == 2 && bf r.body 90 6 == sup

/-- The records of a partition that may go: the oldest of each source, unless it is behind an earlier one. -/
def oldestRecs (part : Nat) (before : List Rec) : List Rec → List Rec
  | [] => []
  | r :: t =>
    if r.part == part && !(before.any fun x => x.part == part && x.src == r.src) && !r.behind before then
      r :: oldestRecs part (before ++ [r]) t
    else oldestRecs part (before ++ [r]) t
/-- The record of a partition that goes first: of the lowest source. -/
def firstRec (rs : List Rec) (part : Nat) : Option Rec :=
  (oldestRecs part [] rs).foldl (fun o r => match o with
    | some x => if r.src < x.src then some r else some x
    | none => some r) none

/-- The supervisor pilot's queue takes a record. -/
def Pilot.takesRec (p : Pilot) : Bool := p.online && evqAddr p.evqbase != 0 && p.evqCount < evqEntries p.evqbase

/-- A record is written at evqtail with the cycles of the posting, wherever the physical address lies (log 113); its cell may send another
(06 R161), also one that has come to another region meanwhile (log 95). -/
def State.postRec (s : State) (r : Rec) : State :=
  let p := (s.part r.part).sup
  let q := s.pilot p
  let body : Wide := r.body ||| BitVec.ofNat 256 ((q.cycles.setWidth 32).toNat * 2 ^ 32)
  let s1 := ({ s with records := s.records.erase r }.qwrite (2 * p) (8 * r.part) 0 0 (recAddr q.evqbase q.evqtail) (toBytes body 32)).modPilot p
    fun m => { m with evqtail := m.evqtail + 1 }
  match r.cell with
  | some c => s1.modCell c fun k => { k with evtBusy := false }
  | none => s1

/-- The waiting records of a partition, while the queue has room. -/
def State.postAll (s : State) (part : Nat) : Nat → State
  | 0 => s
  | n + 1 =>
    if (s.pilot (s.part part).sup).takesRec then
      match firstRec (s.records.filter fun r => !r.about (s.part part).sup) part with
      | some r => (s.postRec r).postAll part n
      | none => s
    else s

/-- EVENT_RECORD_POST. -/
def execEventRecordPost (part : Nat) (s : State) : Out := .next (s.postAll part s.records.length)

end Sys2Proof.Machine
end

