-- ==== Sys2Proof/Machine/EvHost.lean ====
section
/-! DEFINITION. The host link: registers, doorbells, the memory window, the channel aperture, the shadow engine, and power (13
R302; 17 R376 to R384, R392). -/

namespace Sys2Proof.Machine

/-- A count that stops at 2^32 − 1 (17 R378, R379). -/
def satInc (n : Word) : Word := if n = 0xFFFFFFFF then n else n + 1

/-! Functions and the virtual devices they reach (17 R379 to R382). -/

/-- The virtual device of a virtual function. -/
def State.vfVd (s : State) (n : Nat) : Option Nat := (s.vds.find? fun v => v.2.vf == some n).map (·.1)
/-- A virtual function that the host can use: its virtual device exists and its TDI runs, and the boot did not fail (17 R376,
R391). -/
def State.vfUp (s : State) (n : Nat) : Option Nat :=
  match s.vfVd n with
  | some v => if (s.vd v).tdi = .run && !s.host.bootFailed then some v else none
  | none => none
/-- The virtual device that pfvd names, if the physical function reaches it. -/
def State.pfTarget (s : State) : Option Nat :=
  let n := bf s.host.pfvd 0 7
  if bit s.host.pfvd 7 then
    match tblGet? s.vds n with
    | some v => if v.vf.isNone then some n else none
    | none => none
  else none
/-- The virtual device that BAR2 and BAR4 of a function reach. -/
def State.target (s : State) (fn : HostFn) : Option Nat :=
  match fn with
  | .pf => s.pfTarget
  | .vf n => s.vfUp n

/-- An access of a function that is dropped is counted. -/
def State.dropped (s : State) (fn : HostFn) : State :=
  s.modHost fun h => match fn with
    | .pf => { h with pfdrops := satInc h.pfdrops }
    | .vf n => { h with drops := tblPut h.drops n (satInc (tblGet 0 h.drops n)) }

def State.say (s : State) (r : Reply) : State := s.modHost fun h => { h with reply := r }

/-- A host access: without a link nothing reaches the module; with one, every power state ends (17 R376, R384; log 96). -/
def State.hosted (s : State) (k : State → State) : Out := .next (if s.host.link then k s.wakeAll else s)
/-- What the management controller, or a Seaway port, does: nothing of the module is usable until the link has come up, and a request
of it ends every power state (17 R376, R384; log 96). -/
def State.managed (s : State) (k : State → State) : Out := .next (if s.host.up then k s.wakeAll else s)

/-! Doorbells (13 R302, 17 R378). -/

/-- A notify record of a virtual device. -/
def notifyRec (vd : Nat) (v : Word) : Rec := ⟨vd / 8, srcNotify, recBody 5 vd 0xFFFF [(8, 4, v.toNat)], none⟩
def Rec.notifies (r : Rec) (vd : Nat) : Bool := bf r.body 0 8 == 5 && r.part == vd / 8 && bf r.body 8 3 == vd % 8
/-- The last record that satisfies a test is replaced. -/
def replaceLast (p : Rec → Bool) (x : Rec) : List Rec → List Rec
  | [] => []
  | r :: t => if p r && !t.any p then x :: t else r :: replaceLast p x t
/-- The register takes the value (01 R35), and the record waits; or, while the queue has no room, its value replaces that of the one that
waits already. -/
def State.notify (s0 : State) (vd : Nat) (v : Word) : State :=
  let s := s0.modVd vd fun d => { d with notify := v }
  if (s.records.any fun r => r.notifies vd) && !(s.pilot (s.part (vd / 8)).sup).takesRec then
    { s with records := replaceLast (fun r => r.notifies vd) (notifyRec vd v) s.records }
  else { s with records := s.records ++ [notifyRec vd v] }

/-! The memory window (17 R380). -/

/-- Virtual address of a window offset. -/
def windowVa (off : Nat) : DWord :=
  if off < 2 ^ 40 - 65536 then BitVec.ofNat 64 off else 0x003FFFFFFFFF0000 + BitVec.ofNat 64 (off - (2 ^ 40 - 65536))

/-- The quay whose translation buffer serves the I/O die's translations for a virtual device. -/
def State.hostQuay (s : State) (vd : Nat) : Nat := 2 * (s.part (vd / 8)).first

/-- What is read of a poisoned sector (log 15). -/
def freeBytes (n i : Nat) : List Byte := (List.range n).map fun k => (Config.poisoned (i + k)).setWidth 8

/-- HOST_MEMORY_READ. -/
def execHostMemoryRead (fn : HostFn) (off : Nat) (size : Nat) (s : State) : Out :=
  s.hosted fun s => match s.target fn with
    | none => s.say .unsupported
    | some vd =>
      match s.vbytes (s.hostQuay vd) vd true (windowVa off) (size / 65536 + 2) size 0 with
      | (.ok bs, s1) => s1.say (.data bs)
      | (.error (_, true), s1) => { s1 with fresh := s1.fresh + size }.say (.data (freeBytes size s1.fresh))
      | (.error (_, false), s1) => (s1.dropped fn).say .unsupported

/-- Every granule of n bytes can be written; else the failure, and the address of the first that cannot. -/
def State.vjudge (s : State) (q vd : Nat) (va : DWord) : Nat → Nat → Except (Fail × DWord) Unit × State
  | 0, _ => (.ok (), s)
  | fuel + 1, n =>
    if n = 0 then (.ok (), s)
    else
      let m := min n (65536 - va.toNat % 65536)
      match s.translate q vd true va .w with
      | (.error f, s1) => (.error (f, va), s1)
      | (.ok _, s1) => s1.vjudge q vd (va + BitVec.ofNat 64 m) fuel (n - m)
/-- Bytes written at a virtual address, granule by granule. -/
def State.vput (s : State) (q vd : Nat) (va : DWord) : Nat → List Byte → State
  | 0, _ => s
  | fuel + 1, bs =>
    if bs.isEmpty then s
    else
      let m := 65536 - va.toNat % 65536
      match s.translate q vd true va .w with
      | (.error _, s1) => s1
      | (.ok f, s1) => (s1.qwrite q vd f.key f.pol (f.pa va) (bs.take m)).vput q vd (va + BitVec.ofNat 64 m) fuel (bs.drop m)
/-- Bytes written at a virtual address: all of them, or none where a granule cannot be written. -/
def State.vwrite (s : State) (q vd : Nat) (va : DWord) (fuel : Nat) (bs : List Byte) : Except (Fail × DWord) Unit × State :=
  match s.vjudge q vd va fuel bs.length with
  | (.error e, s1) => (.error e, s1)
  | (.ok _, s1) => (.ok (), s1.vput q vd va fuel bs)

/-- A write of a function into the memory window, first in its order. -/
def State.memPut (s : State) (fn : HostFn) (vd off : Nat) (bytes : List Byte) : State :=
  match s.vwrite (s.hostQuay vd) vd (windowVa off) (bytes.length / 65536 + 2) bytes with
  | (.ok _, s1) => s1
  | (.error _, s1) => s1.dropped fn

/-! The channel aperture (17 R381). -/

/-- A function's number among the requesters of a quay. -/
def fnNo : HostFn → Nat
  | .pf => 16
  | .vf n => n

/-- Tokens of 32-byte pieces, tag zero. -/
def pieces : Nat → List Byte → List Token
  | 0, _ => []
  | n + 1, bs => ⟨ofBytes 256 (bs.take 32), .zero⟩ :: pieces n (bs.drop 32)

/-- A request of the host or of a Seaway port for an element of a channel. -/
def outerReq (kind src ch e : Nat) (who : BitVec 16) (rank : Nat) (toks : List Token) : BReq :=
  { kind := kind, who := who, src := src, fctx := 0, hnd := 0, cnt := e, dctx := 0, dport := 0, mrk := false, chan := ch,
    rank := rank, lat := 0, owner := 0, toks := toks }

/-- Some request that satisfies a test waits at a quay or is on its way to one. -/
def State.queued (s : State) (p : BReq → Bool) : Bool :=
  (s.quays.any fun q => (q.2.road ++ q.2.outside).any p) || s.pend.any fun e => match e.ev with
    | .berthRequestArrival (.quay _) r => p r
    | _ => false

/-- A write of a function for a virtual device, first in its order. -/
def State.hostPut (s : State) (fn : HostFn) (vd off : Nat) (bytes : List Byte) : State :=
  let ch := s.chanAt (vd / 8) (off / 128)
  let c := s.chan ch
  if off % 128 ≠ 0 ∨ bytes.length ≠ 32 * c.e ∨ s.partOf (ch / 128) ≠ some (vd / 8) ∨ !c.opened ∨ c.vd ≠ vd % 8 ∨
      bf c.writer 30 2 ≠ 2 ∨ c.closed then s.dropped fn
  else
    s.at 1 clsRequest 128 (.berthRequestArrival (.quay (ch / 64)) (outerReq 2 (fnNo fn) ch c.e 0 0 (pieces c.e bytes)))

/-- An element of a function waits for its allocation. -/
def State.hostWaits (s : State) (f : Nat) : Bool := s.queued fun r => r.kind == 2 && r.src == f

/-- A posted write of a function made. -/
def State.putNow (s : State) (fn : HostFn) (w : HostPut) : State :=
  match w.goes with
  | .mem => s.memPut fn w.vd w.off w.bytes
  | .chan => s.hostPut fn w.vd w.off w.bytes
  | .bell v => s.notify w.vd v
/-- The posted writes of a function are made in the order in which they arrive: one waits behind one that waits (12 R292, 17 R380). -/
def State.inTurn (s : State) (fn : HostFn) (w : HostPut) : State :=
  let q := tblGet [] s.host.swait (fnNo fn)
  if q.isEmpty && !s.hostWaits (fnNo fn) then s.putNow fn w
  else s.modHost fun h => { h with swait := tblPut h.swait (fnNo fn) (q ++ [w]) }
/-- A posted write of a function to the virtual device that its windows reach. -/
def State.posted (s : State) (fn : HostFn) (goes : PutTo) (off : Nat) (bytes : List Byte) : Out :=
  s.hosted fun s => match s.target fn with
    | none => s.dropped fn
    | some vd => s.inTurn fn ⟨vd, goes, off, bytes⟩

/-- HOST_MEMORY_WRITE. -/
def execHostMemoryWrite (fn : HostFn) (off : Nat) (bytes : List Byte) (s : State) : Out := s.posted fn .mem off bytes
/-- HOST_CHANNEL_WRITE. -/
def execHostChannelWrite (fn : HostFn) (off : Nat) (bytes : List Byte) (s : State) : Out := s.posted fn .chan off bytes

/-- NOTIFY_WRITE. A write to a function that cannot be used has no effect; only the accesses of R380 and R381 are counted (17 R379). -/
def execNotifyWrite (vf : Nat) (v : Word) (s : State) : Out :=
  s.hosted fun s => match s.vfUp vf with
    | some n => s.inTurn (.vf vf) ⟨n, .bell v, 0, []⟩
    | none => s

/-- PFNOTIFY_WRITE. -/
def execPfnotifyWrite (n : Nat) (v : Word) (s : State) : Out :=
  s.hosted fun s => match tblGet? s.vds n with
    | some d => if d.vf.isNone then s.inTurn .pf ⟨n, .bell v, 0, []⟩ else s.dropped .pf
    | none => s.dropped .pf

/-- The next waiting write of each function goes on. -/
def State.hostNext (s : State) : State :=
  s.host.swait.foldl (fun (s : State) (x : Nat × List HostPut) =>
    match x.2 with
    | w :: rest =>
      if s.hostWaits x.1 then s
      else (s.modHost fun h => { h with swait := tblPut h.swait x.1 rest }).putNow (if x.1 = 16 then .pf else .vf x.1) w
    | [] => s) s

/-! Registers (17 R378, R379). -/

/-- One of the 16 virtual functions, enabled unless the boot failed (17 R377, R391). -/
def State.hasVf (s : State) (vf : Nat) : Bool := vf < 16 && !s.host.bootFailed

/-- PFVD_WRITE. -/
def execPfvdWrite (v : DWord) (s : State) : Out := s.hosted fun s => s.modHost fun h => { h with pfvd := v &&& 0xFF }

/-- HBLOSS_CLEAR. -/
def execHblossClear (v : DWord) (s : State) : Out :=
  s.hosted fun s => s.modHost fun h => { h with hbloss := h.hbloss &&& ~~~(v.setWidth 8) }

/-- ISOERR_READ, PFDROPS_READ and DROPS_READ: the value is returned and cleared. -/
def execIsoerrRead (s : State) : Out := s.hosted fun s => s.modHost fun h => { h with reply := .value h.isoerr, isoerr := 0 }
def execPfdropsRead (s : State) : Out :=
  s.hosted fun s => s.modHost fun h => { h with reply := .value (h.pfdrops.setWidth 64), pfdrops := 0 }
def execDropsRead (vf : Nat) (s : State) : Out :=
  s.hosted fun s =>
    if s.hasVf vf then
      (s.say (.value ((tblGet 0 s.host.drops vf).setWidth 64))).modHost fun h => { h with drops := tblDel h.drops vf }
    else s.say .unsupported

/-- REGISTER_WRITE: a register that only holds what is written; others ignore it. -/
def execRegisterWrite (off : Nat) (v : DWord) (s : State) : Out :=
  s.hosted fun s => s.modHost fun h =>
    if off = 0x008 then { h with ltol := v &&& 0x9FFF }
    else if off = 0x020 then { h with shsrc := v }
    else if off = 0x028 then { h with shdst := v }
    else if off = 0x030 then { h with shlen := v }
    else h

/-- The package's power state: the shallowest of its strips'. -/
def Power.code : Power → Nat
  | .p0 => 0 | .p1 => 1 | .p2 => 2 | .p3 => 3
def State.package (s : State) : Nat := (List.range Config.strips).foldl (fun n t => min n (s.powerOf t).code) 3

/-- The status register, shstat and vfstat (17 R378, R379). -/
def State.pfStatus (s : State) : DWord :=
  let b (x : Bool) (n : Nat) : Nat := if x then 2 ^ n else 0
  BitVec.ofNat 64 (b s.host.ready 0 + b s.host.replace 1 + b s.host.bootFailed 2 + s.package * 16 +
    (List.range 8).foldl (fun n p => n + b (s.port p).trained (8 + p)) 0)
def State.shstat (s : State) : DWord :=
  BitVec.ofNat 64 ((if s.host.shBusy then 1 else 0) + (if s.host.shErr then 2 else 0) + s.host.shDone.toNat % 2 ^ 32 * 2 ^ 32)
def Tdi.code : Tdi → Nat
  | .unlocked => 0 | .locked => 1 | .run => 2 | .error => 3
def State.vfstat (s : State) (vf : Nat) : Word :=
  let t := match s.vfVd vf with
    | some v => (s.vd v).tdi
    | none => .unlocked
  BitVec.ofNat 32 ((if (s.vfUp vf).isSome then 1 else 0) + (if s.host.replace then 2 else 0) + t.code * 4)

/-- What a host read of a register answers (17 R378, R379): notify and pfnotify read as 0 (13 R302). -/
def State.hostReg (s : State) (r : HostReg) : Reply :=
  match r with
  | .status => .value s.pfStatus
  | .ltol => .value s.host.ltol
  | .hbloss => .value (s.host.hbloss.setWidth 64)
  | .shsrc => .value s.host.shsrc
  | .shdst => .value s.host.shdst
  | .shlen => .value s.host.shlen
  | .shstat => .value s.shstat
  | .pfvd => .value s.host.pfvd
  | .pfnotify _ => .value 0
  | .notify vf => if s.hasVf vf then .value 0 else .unsupported
  | .vfstat vf => if s.hasVf vf then .value ((s.vfstat vf).setWidth 64) else .unsupported

/-! The shadow engine (17 R392). -/

/-- The runs cover the bytes from p up to e; the number bounds the runs that are used. -/
def covered (rs : List (Nat × Nat)) (e : Nat) : Nat → Nat → Bool
  | 0, p => e ≤ p
  | k + 1, p => e ≤ p || match rs.find? fun r => r.1 * 65536 ≤ p && p < (r.1 + r.2) * 65536 with
    | some r => covered rs e k ((r.1 + r.2) * 65536)
    | none => false
/-- A physical range lies in the ranges of a partition, over runs that meet. -/
def State.spanOk (s : State) (part pa n : Nat) : Bool :=
  covered (s.part part).ranges (pa + n) (s.part part).ranges.length pa || n == 0

/-- What the copy of a page of 4 KiB is charged: each line, at the stacks of its source and of its destination (15 R339). -/
def State.pageTodo (s : State) (src dst : Nat) : List (Nat × Nat × Nat) :=
  (List.range 32).flatMap fun i => [(2, stackOf (s.home (src + 128 * i)), 128), (2, stackOf (s.home (dst + 128 * i)), 128)]
/-- The next page of a shadow copy goes to the arbiters; after the last the engine is idle. -/
def State.shadowGo (s : State) : State :=
  let j := s.host.shJob
  if j.2.2 = 0 then s.modHost fun h => { h with shBusy := false }
  else s.send s.host.shVd 0 0 Config.workClk (s.pageTodo j.1 j.2.1) clsOther 0 (some .shadowCopyDone)

/-- SHADOW_COPY_START. A misaligned address or length is an error, as a range outside the partition is (log 29). -/
def execShadowCopyStart (v : DWord) (s : State) : Out :=
  s.hosted fun s =>
    let h := s.host
    if h.shBusy || !bit v 0 then s
    else
      let vd := bf v 2 7
      let src := h.shsrc.toNat
      let dst := h.shdst.toNat
      let n := h.shlen.toNat
      if (tblGet? s.vds vd).isNone ∨ src % 4096 ≠ 0 ∨ dst % 4096 ≠ 0 ∨ n % 4096 ≠ 0 ∨ !s.spanOk (vd / 8) src n ∨
          !s.spanOk (vd / 8) dst n ∨ !s.hasKey vd then s.modHost fun h => { h with shErr := true, shDone := 0 }
      else (s.modHost fun h => { h with shBusy := true, shErr := false, shDone := 0, shVd := vd, shJob := (src, dst, n / 4096) }).shadowGo

/-- SHADOW_COPY_DONE: a page is copied at the home slices, with its poison. A virtual device that has lost its keys since ends the copy
with an error (log 29). -/
def execShadowCopyDone (s : State) : Out :=
  let vd := s.host.shVd
  let j := s.host.shJob
  .next (if !s.host.shBusy then s
    else if !s.hasKey vd then s.modHost fun h => { h with shBusy := false, shErr := true }
    else
      let k := s.rootKey vd
      (((List.range 256).foldl (fun s i => s.moveSector vd k 0 (j.1 + 16 * i) k 0 (j.2.1 + 16 * i)) s).modHost fun h =>
        { h with shDone := h.shDone + 1, shJob := (j.1 + 4096, j.2.1 + 4096, j.2.2 - 1) }).shadowGo)

/-! Coming up (17 R376, R391). -/

/-- A firmware image that a verifying stage accepts. -/
def fwGood (minVer : Nat) (i : FwImage) : Bool := i.sigOk && minVer ≤ i.ver

/-- POWER_GOOD: the firmware is verified, and a failure sets boot failed; the LLC, the cell stores and the berth ways are initialised,
and the link is still to train. -/
def execPowerGood (imagesOk : Bool) (s : State) : Out :=
  .next ({ s with
      llc := []
      cells := s.cells.map fun (c : Nat × Cell) => (c.1, { c.2 with store := [] })
      quays := s.quays.map fun (q : Nat × Quay) => (q.1, { q.2 with slots := [] }) }.modHost fun h =>
    { h with powered := true, link := false, up := false, ready := false,
             bootFailed := !(imagesOk && h.running.all fun i => fwGood h.minVer i.2) })

/-- LINK_ACTIVE: the link is in DL_Active. -/
def execLinkActive (s : State) : Out :=
  .next (if s.host.powered then s.modHost fun h => { h with link := true, up := true, ready := !h.bootFailed } else s)
/-- LINK_LEAVES_DL_ACTIVE. -/
def execLinkLeavesDlActive (s : State) : Out := .next (s.modHost fun h => { h with link := false })

/-! Power states (17 R383, R384). -/

/-- The latency tolerance in ns; none with valid clear. -/
def Platform.tolerance (h : Platform) : Option Nat :=
  if bit h.ltol 15 then some (bf h.ltol 0 10 * 2 ^ (5 * bf h.ltol 10 3)) else none
/-- A strip may leave P0. -/
def State.idleStrip (s : State) (strip : Nat) : Bool :=
  let p := s.pilot strip
  (!p.online || p.wait == .idle) &&
    s.cells.all fun c => cellStrip c.1 != strip || (s.cellRegion c.1).st != .running
/-- The package may enter P3. -/
def State.idlePackage (s : State) : Bool :=
  (List.range Config.strips).all s.idleStrip && s.regions.all (fun r => r.2.st != .running) &&
    (s.quays.all fun q => q.2.chans.all fun c => c.2.moves.isEmpty) &&
    s.ports.all (fun p => p.2.wire.isEmpty && p.2.parked.isEmpty && p.2.held.isEmpty && p.2.tx.all fun t => t.2.waiting.isEmpty && t.2.kept.isEmpty) &&
    (s.host.swait.all fun x => x.2.isEmpty) && !s.queued fun r => r.kind == 2 || r.kind == 3

/-- The deepest state that a strip may enter. -/
def State.deepest (s : State) (strip : Nat) : Power :=
  match s.host.tolerance with
  | none => .p0
  | some t =>
    if !s.idleStrip strip then .p0
    else if 2000000 ≤ t ∧ s.idlePackage then .p3
    else if 60000 ≤ t then .p2
    else if 2000 ≤ t then .p1
    else .p0

/-- POWER_STATE_ENTRY. P3 is a state of the whole package. -/
def execPowerStateEntry (strip : Nat) (s : State) : Out :=
  .next (match s.deepest strip with
    | .p3 => (List.range Config.strips).foldl (fun s t => s.setPower t .p3) s
    | p => s.setPower strip p)

/-- POWER_STATE_WAKE. -/
def execPowerStateWake (strip : Nat) (s : State) : Out :=
  .next (s.wake strip)

/-- A strip wakes that no longer qualifies for its state, by what it does or by the tolerance, or whose pilot gets a record (17 R383,
R384). -/
def State.wakeStrips (s : State) : State :=
  s.host.power.foldl (fun (s : State) (x : Nat × Power) =>
    if x.2.code ≤ (s.deepest x.1).code && !(s.records.any fun r => (s.part r.part).sup == x.1 && (s.pilot x.1).takesRec) then s
    else s.wake x.1) s

end Sys2Proof.Machine
end

