-- ==== Sys2Proof/Machine/EvSeaway.lean ====
section
/-! DEFINITION. The Seaway: ports, rows received and sent, acknowledgements, send queues (16 R369; 17 R385 to R390). -/

namespace Sys2Proof.Machine

def State.tx (s : State) (port ch : Nat) : SwTx := tblGet .reset (s.port port).tx ch

/-! A row on the wire (17 R386; log 92). -/

/-- Bytes 0 to 15, in clear. -/
def rowHead (r : SwRow) : List Byte :=
  toBytes (BitVec.ofNat 128 (r.pkg % 2 ^ 14 + r.port % 8 * 2 ^ 16 + r.part % 16 * 2 ^ 20 + r.kind % 4 * 2 ^ 24 +
    (if r.last then 2 ^ 26 else 0) + r.chan % 2 ^ 13 * 2 ^ 32 + r.toks.length % 2 ^ 16 * 2 ^ 48 + r.num % 2 ^ 32 * 2 ^ 64 +
    r.off % 2 ^ 32 * 2 ^ 96)) 16
/-- What is encrypted: the payloads, then the tags, padded to 16 bytes. -/
def rowPlain (r : SwRow) : List Byte :=
  r.toks.flatMap (fun t => toBytes t.pay 32) ++ r.toks.flatMap (fun t => toBytes (tagWord t.tag) 2) ++
    List.replicate ((16 - 2 * r.toks.length % 16) % 16) 0
/-- The IV: the sending package and port, the channel id, the row number, 1 for an acknowledgement, and 33 zero bits. -/
def rowIv (r : SwRow) (port : Nat) : BitVec 96 :=
  Config.package ++ BitVec.ofNat 3 port ++ BitVec.ofNat 13 r.chan ++ BitVec.ofNat 32 r.num ++ BitVec.ofBool (r.kind == 3) ++ 0#33
/-- The bytes of a row sealed under a key: the header, the sealed bytes, and the authentication tag. -/
def rowSealed (r : SwRow) (port : Nat) (key : Wide) : List Byte :=
  rowHead r ++ (List.range ((rowPlain r).length + 16)).map (Config.gcm key (rowIv r port) (rowHead r) (rowPlain r))

/-- Bytes of a row of n tokens on the wire (17 R386). -/
def rowLen (n : Nat) : Nat := 32 + 32 * n + (2 * n + 15) / 16 * 16

/-- A row put on the wire, under the key of its channel id at the port. -/
def State.wire (s : State) (port : Nat) (r : SwRow) : State :=
  s.modPort port fun p => if p.trained then { p with wire := p.wire ++ [rowSealed r port (tblGet .reset p.tx r.chan).key] } else p
/-- A row that is no virtual device's next row: an acknowledgement, a heartbeat, or a row sent again. It goes at once, and what it takes
of the port passes the arbiter all the same (15 R339; log 9). The number of its request is no channel id. -/
def State.wireNow (s : State) (port vd : Nat) (r : SwRow) : State :=
  if (s.port port).trained then (s.wire port r).enqueue 4 port ⟨vd, 0, rowLen r.toks.length, 8192, s.clk, 0⟩ else s
def State.wireAll (s : State) (port : Nat) (l : List SwRow) : State := l.foldl (fun s r => s.wireNow port (8 * r.part) r) s

def State.modTx (s : State) (port ch : Nat) (f : SwTx → SwTx) : State :=
  s.modPort port fun p => { p with tx := tblPut p.tx ch (f (tblGet .reset p.tx ch)) }

/-! Training and heartbeats (17 R385, R387). -/

/-- Rows a sender sends again after training: those at or above the highest acknowledgement (17 R389). -/
def SwTx.again (t : SwTx) : List SwRow := t.kept.filter fun r => t.ackHi ≤ r.num

/-- SEAWAY_PORT_TRAINING: the physical layer is up, the two management controllers have a session, and the partner is one that the
host permits. -/
def execSeawayPortTraining (port : Nat) (phyUp : Bool) (session : Option Nat) (s : State) : Out :=
  let ok := phyUp && session.any fun p => s.host.partners.contains p
  s.managed fun s =>
    if 8 ≤ port then s
    else
      let s1 := s.modPort port fun p => { p with trained := ok, lastRx := s.clk }
      if ok then s1.wireAll port ((s1.port port).tx.flatMap fun t => t.2.again) else s1

def SwRow.blank : SwRow := ⟨0, 0, 0, 0, false, 0, 0, 0, [], true⟩

/-- HEARTBEAT_SEND: a row with one token of zeros, since a row has at least one (log 92). -/
def execHeartbeatSend (port : Nat) (s : State) : Out := .next (s.wireNow port 0 { SwRow.blank with kind := 2, toks := [⟨0, .zero⟩] })

/-- HEARTBEAT_LOSS: hbloss is set and the trained bit cleared. -/
def execHeartbeatLoss (port : Nat) (s : State) : Out :=
  .next ((s.modPort port fun p => { p with trained := false }).modHost fun h =>
    { h with hbloss := h.hbloss ||| (BitVec.ofNat 8 (2 ^ port)) })

/-! Acknowledgements (17 R389). -/

/-- The partition of a receive-table entry. -/
def targetPart : RxTarget → Nat
  | .channel p _ => p
  | .window p _ _ _ _ => p
/-- The virtual device that an acknowledgement is charged to: a window's, or the first of a channel's partition (log 9). -/
def targetVd : RxTarget → Nat
  | .channel p _ => 8 * p
  | .window p vd _ _ _ => 8 * p + vd
/-- The row that acknowledges a channel id: its bound, and the credits returned. -/
def ackRow (port ch : Nat) (x : SwRx) : SwRow :=
  let d := Config.sender (port * 8192 + ch)
  { SwRow.blank with pkg := bf d 0 14, port := bf d 14 3, part := targetPart x.target, kind := 3, chan := ch, num := x.ackSeq, off := x.low,
                     toks := [⟨inLane0 (BitVec.ofNat 32 x.freed), .zero⟩] }

/-- ACK_TIMEOUT, and the acknowledgement after 16 rows. A port that is not trained sends none, and its credits wait. -/
def State.sendAck (s : State) (port ch : Nat) : State :=
  if !(s.port port).trained then s
  else match tblGet? (s.port port).rx ch with
  | some x => (s.wireNow port (targetVd x.target) (ackRow port ch x)).modRx port ch fun x => { x with unacked := 0, freed := 0, ackSeq := x.ackSeq + 1 }
  | none => s
def execAckTimeout (port ch : Nat) (s : State) : Out := .next (s.sendAck port ch)

/-- The number of a Seaway port among the units. -/
def portUnit (n : Nat) : Nat := 0x60000 + n
/-- An isolation error is counted, for its unit too (15 R346). -/
def State.isolated (s : State) (unit : Nat) : State :=
  s.modHost fun h => { h with isoerr := h.isoerr + 1, isoUnits := tblPut h.isoUnits unit (tblGet 0 h.isoUnits unit + 1) }
/-- A row is discarded and counted at its port (17 R388). No program and no hardware of the package need be at fault, so the port does
not become failing. -/
def State.badRow (s : State) (port : Nat) : State := s.isolated (portUnit port)

/-- A row that comes in at a trained port. One that is not of the layout, or not for this package and port, is discarded and counted; a
heartbeat goes to whatever the port is joined to (17 R385, R386; log 92). -/
def State.rowIn (s : State) (port : Nat) (row : SwRow) (k : State → State) : Out :=
  s.managed fun s =>
    if 8 ≤ port || !(s.port port).trained then s
    else
      let s0 := s.modPort port fun p => { p with lastRx := s.clk }
      if row.kind != 2 && (row.toks.isEmpty || 29 < row.toks.length || row.pkg != Config.package.toNat || row.port != port) then s0.badRow port else k s0

/-- An acknowledgement: credits return, and the rows below the bound are released. -/
def State.ackIn (s0 : State) (port : Nat) (row : SwRow) : State :=
  let t := s0.tx port row.chan
  if row.tagOk && t.hasKey && t.ackNext ≤ row.num then
    s0.modTx port row.chan fun t =>
      { t with credits := t.credits + (match row.toks with
                 | k :: _ => (lane k.pay 0).toNat
                 | [] => 0)
               ackNext := row.num + 1
               ackHi := max t.ackHi row.off
               kept := t.kept.filter fun r => max t.ackHi row.off ≤ r.num }
  else s0.badRow port
/-- ACKNOWLEDGEMENT_RECEIVE. -/
def execAcknowledgementReceive (port : Nat) (row : SwRow) (s : State) : Out := s.rowIn port row fun s => s.ackIn port row

/-! Rows received (17 R388, 16 R369). -/

/-- A row's number is new, and not too far above the highest accepted. -/
def SwRx.admits (x : SwRx) (num : Nat) : Bool :=
  x.low ≤ num && !x.got.contains num && num < (match x.high with
    | some h => h + 1024
    | none => 1024)
/-- A row is accepted. -/
def SwRx.accept (x : SwRx) (r : SwRow) (clk : Nat) : SwRx :=
  let a := addRow x.low x.got r.num
  { x with low := a.1, got := a.2, high := some (max r.num (x.high.getD 0)), unacked := x.unacked + 1,
           firstAt := if x.unacked = 0 then clk else x.firstAt, lasts := if r.last && r.kind == 1 then r.num :: x.lasts else x.lasts }

/-- The elements of a channel row: each ends at its e-th token or at a marker. -/
def elements (e : Nat) : List Token → List Token → List (List Token)
  | cur, [] => if cur.isEmpty then [] else [cur]
  | cur, t :: ts =>
    if cur.length + 1 = e ∨ t.tag.lvl ≠ 0 then (cur ++ [t]) :: elements e [] ts else elements e (cur ++ [t]) ts

/-- The record of a parked row. -/
def parkRec (port part vd : Nat) (cause : Nat) (row : SwRow) (va : DWord) : Rec :=
  ⟨part, srcDie, recBody 0xC vd 0xFFFF [(8, 1, port), (9, 1, cause), (10, 2, row.chan), (12, 4, row.num), (16, 8, va.toNat)], none⟩

/-- The bytes of a remote write. -/
def rowBytes (r : SwRow) : List Byte := r.toks.flatMap fun t => toBytes t.pay 32

/-- A remote-write row made: served, or its cause and address (17 R388). -/
def State.remoteWrite (s : State) (vd : Nat) (base : DWord) (row : SwRow) : Except (Nat × DWord) Unit × State :=
  let va := base + BitVec.ofNat 64 (32 * row.off)
  match s.vwrite (s.hostQuay vd) vd va 3 (rowBytes row) with
  | (.ok _, s1) => (.ok (), s1)
  | (.error f, s1) => (.error (f.1.1, f.2), s1)

/-- The acknowledgement that 16 rows call for. -/
def State.ack16 (s : State) (port ch : Nat) : State :=
  match tblGet? (s.port port).rx ch with
  | some x => if 16 ≤ x.unacked then s.sendAck port ch else s
  | none => s

/-- A channel row: the allocations of its elements; a channel that takes none drops them (log 32). -/
def State.rowChannel (s : State) (port part ch : Nat) (row : SwRow) : State :=
  let k := s.chanAt part ch
  let c := s.chan k
  if s.partOf (k / 128) ≠ some part ∨ !c.opened ∨ c.closed ∨ bf c.writer 30 2 ≠ 3 ∨ bf c.writer 0 3 ≠ port then
    s.modRx port row.chan fun x => x.serve row.num true
  else
    let es := elements c.e [] row.toks
    (List.range es.length).foldl (fun (s : State) i =>
      s.at 1 clsRequest (129 + port) (.berthRequestArrival (.quay (k / 64))
        { outerReq 3 port k c.e (BitVec.ofNat 16 port) row.num (es.getD i []) with fctx := row.chan, mrk := i + 1 == es.length })) s

/-- The virtual device of a row at a port, if its entry names a window. -/
def State.rowVd (s : State) (port : Nat) (row : SwRow) : Option Nat :=
  match tblGet? (s.port port).rx row.chan with
  | some x => (match x.target with
    | .window part vd _ _ _ => some (8 * part + vd)
    | .channel _ _ => none)
  | none => none
/-- A parked row takes its place among those of its channel id, in row order (16 R369). -/
def parkIn (r : SwRow) : List SwRow → List SwRow
  | [] => [r]
  | x :: t => if x.chan = r.chan ∧ r.num < x.num then r :: x :: t else x :: parkIn r t

/-- A row waits at its sending port: it is not accepted, and comes again, in its order, once the fault buffer has room (16 R369; log 32). -/
def State.holdRow (s : State) (port : Nat) (row : SwRow) : State :=
  s.modPort port fun p => { p with held := if p.held.any fun x => x.chan == row.chan && x.num == row.num then p.held else p.held ++ [row] }
/-- A row of the virtual device is parked at the port, or waits for it. -/
def State.rowBehind (s : State) (port vd : Nat) : Bool :=
  ((s.port port).parked ++ (s.port port).held).any fun r => s.rowVd port r == some vd

/-- A remote-write row whose checks hold. While the fault buffer is full, one that would be parked, or that is behind a row of its virtual
device, waits at its sender (16 R369). -/
def State.rowWindow (s : State) (port part vd : Nat) (base : DWord) (row : SwRow) : State :=
  let ok (s : State) : State := s.modRx port row.chan fun x => x.accept row s.clk
  let full := 32 ≤ (s.port port).parked.length
  let r := s.remoteWrite (8 * part + vd) base row
  if full && s.rowBehind port (8 * part + vd) then s.holdRow port row
  else
    match r.1 with
    | .ok _ => (((ok r.2).modRx port row.chan fun x => x.serve row.num true)).ack16 port row.chan
    | .error (cause, va) =>
      if full then r.2.holdRow port row
      else
        ({ (((ok r.2).modPort port fun p => { p with parked := parkIn row p.parked }).modRx port row.chan fun x =>
            { x with freed := x.freed + 1 }) with records := r.2.records ++ [parkRec port part vd cause row va] }).ack16 port row.chan

/-- A row whose checks hold. -/
def State.rowTake (s : State) (port : Nat) (row : SwRow) (x : SwRx) : State :=
  match x.target with
  | .channel part ch =>
    if row.kind = 0 then ((s.modRx port row.chan fun x => x.accept row s.clk).rowChannel port part ch row).ack16 port row.chan
    else s.badRow port
  | .window part vd base len _ =>
    if row.kind ≠ 1 ∨ len < 32 * (row.off + row.toks.length) then s.badRow port else s.rowWindow port part vd base row

/-- A row of the layout for this package and port. -/
def State.rowServe (s : State) (port : Nat) (row : SwRow) : State :=
  if row.kind = 3 then s.ackIn port row
  else if row.kind = 2 then s
  else
    match tblGet? (s.port port).rx row.chan with
    | none => s.badRow port
    | some x => if row.part = targetPart x.target ∧ row.tagOk ∧ x.admits row.num then s.rowTake port row x else s.badRow port
/-- SEAWAY_ROW_RECEIVE. -/
def execSeawayRowReceive (port : Nat) (row : SwRow) (s : State) : Out := s.rowIn port row fun s => s.rowServe port row

/-- The parked rows of a port tried again, in row order; one that faults again posts a new record (16 R369). -/
def State.retryRows (s : State) (port : Nat) : List SwRow → State
  | [] => s
  | row :: rest =>
    match tblGet? (s.port port).rx row.chan with
    | some x =>
      (match x.target with
      | .window part vd base _ _ =>
        let r := s.remoteWrite (8 * part + vd) base row
        match r.1 with
        | .ok _ =>
          (r.2.modPort port fun p => { p with parked := p.parked.erase row }).modRx port row.chan fun x => x.serve row.num false
        | .error (cause, va) => { r.2 with records := r.2.records ++ [parkRec port part vd cause row va] }
      | .channel _ _ => s).retryRows port rest
    | none => (s.modPort port fun p => { p with parked := p.parked.erase row }).retryRows port rest

/-- The rows that wait at the sending port come again. A link that is not trained brings none: the sender sends them again after
training, as rows not acknowledged (17 R387). -/
def State.heldAgain (s : State) (port : Nat) : State :=
  let s1 := s.modPort port fun p => { p with held := [] }
  if (s.port port).trained then (s.port port).held.foldl (fun s r => s.rowServe port r) s1 else s1

/-- PARKED_ROW_RETRY: the rows of a virtual device, and, where that gives the fault buffer room, the rows that wait for it. -/
def execParkedRowRetry (port : Nat × Nat) (s : State) : Out :=
  let s1 := s.retryRows port.1 ((s.port port.1).parked.filter fun r => s.rowVd port.1 r == some port.2)
  .next (if (s1.port port.1).parked.length < (s.port port.1).parked.length then s1.heldAgain port.1 else s1)

/-- A last row with every earlier row served. -/
def SwRx.complete (x : SwRx) : Option Nat := x.lasts.find? fun n => n < x.slow

/-- REMOTE_WRITE_COMPLETION: an atomic adds 1 to the completion word (12 R294, 17 R388). -/
def execRemoteWriteCompletion (port ch : Nat) (s : State) : Out :=
  match tblGet? (s.port port).rx ch with
  | none => .next s
  | some x =>
    match x.target, x.complete with
    | .window part vd _ _ cword, some n =>
      let v := 8 * part + vd
      match s.translate (s.hostQuay v) v true cword .w with
      | (.error _, s1) => .next s1
      | (.ok f, s1) =>
        .next ((((s1.charge (s.hostQuay v) v f.key f.pol (f.pa cword) 8).atomic v f.key f.pol (f.pa cword) .add false 1 0).2).modRx port ch fun x => { x with lasts := x.lasts.erase n })
    | _, _ => .next s

/-! The send queue (17 R390). -/

/-- Reads n bytes of a virtual device's memory with ordered reads. -/
def State.sqRead (s : State) (vd : Nat) (va : DWord) (n : Nat) : Option (List Byte) × State :=
  match s.vbytes (s.hostQuay vd) vd true va (n / 65536 + 2) n 0 with
  | (.ok bs, s1) => (some bs, s1)
  | (.error _, s1) => (none, s1)

/-- The control block of a send queue. -/
structure SendCtl where
  base : DWord
  entries : Nat
  head : Word
  tail : Word
  deriving DecidableEq, Repr
def State.sqCtl (s : State) (vd : Nat) : Option SendCtl :=
  match (s.vd vd).sendq with
  | none => none
  | some va =>
    match (s.sqRead vd va 20).1 with
    | some bs =>
      let w : BitVec 160 := ofBytes 160 bs
      some ⟨w.setWidth 64, bf w 64 32, w.extractLsb' 96 32, w.extractLsb' 128 32⟩
    | none => none

/-- What the read of the control block leaves: it touches the line, and crosses the sluices (12 R289; 15 R341). No port and no virtual
device changes by it. -/
def State.sqSeen (s : State) (vd : Nat) : State :=
  match (s.vd vd).sendq with
  | some va => { (s.sqRead vd va 20).2 with ports := s.ports, vds := s.vds }
  | none => s
@[simp] theorem State.sqSeen_ports (s : State) (vd : Nat) : (s.sqSeen vd).ports = s.ports := by unfold State.sqSeen; split <;> rfl
@[simp] theorem State.sqSeen_vds (s : State) (vd : Nat) : (s.sqSeen vd).vds = s.vds := by unfold State.sqSeen; split <;> rfl

/-- SEND_QUEUE_TAIL_STORE: the port has work. -/
def execSendQueueTailStore (vd : Nat) (s : State) : Out := .next (s.modVd vd fun v => { v with tail := true })

/-- The descriptor at the head is done: the port advances head. -/
def State.sqNextDesc (s : State) (vd : Nat) (c : SendCtl) : State :=
  match (s.vd vd).sendq with
  | none => s
  | some va => ((s.vwrite (s.hostQuay vd) vd (va + 12) 2 (toBytes (c.head + 1) 4)).2).modVd vd fun v => { v with sqNext := 0 }

/-- Tokens of a row: whole elements of any size for a channel, else as many as a row holds (log 33). -/
def rowTokens (kind : Nat) : Nat := if kind = 0 then 24 else 29

/-- The next row of a descriptor, from token `at_` on. -/
def rowOf (d : BitVec 512) (part at_ num : Nat) (bs : List Byte) : SwRow :=
  let n := bs.length / 32
  { pkg := bf d 16 14, port := bf d 32 3, part := part, kind := bf d 0 2, last := bf d 128 32 ≤ at_ + n, chan := bf d 48 13, num := num,
    off := if bf d 0 8 = 1 then bf d 160 32 + at_ else 0, toks := pieces n bs, tagOk := true }

/-- SEAWAY_ROW_SEND: the port cuts the next row of the descriptor at the head, if it has a credit and a row number, without which nothing
is read; the row goes to the port's arbiter (15 R339). -/
def execSeawayRowSend (vd : Nat) (s : State) : Out :=
  match s.sqCtl vd with
  | none => .next s
  | some c =>
    if c.head = c.tail then .next ((s.modVd vd fun v => { v with tail := false }).sqSeen vd)
    else
      match s.sqRead vd (c.base + BitVec.ofNat 64 (64 * (c.head.toNat % max 1 c.entries))) 64 with
      | (none, s1) => .next s1
      | (some db, s1) =>
        let d : BitVec 512 := ofBytes 512 db
        let at_ := (s.vd vd).sqNext
        let n := min (rowTokens (bf d 0 8)) (bf d 128 32 - at_)
        let port := bf d 8 3
        let ch := bf d 48 13
        let t := s.tx port ch
        if n = 0 then .next ((s1.sqNextDesc vd c).sqSeen vd)
        else if !(s.port port).trained || !t.hasKey || t.credits = 0 || 2 ^ 32 - 1 ≤ t.next then .next s
        else
          match s1.sqRead vd (d.extractLsb' 64 64 + BitVec.ofNat 64 (32 * at_)) (32 * n) with
          | (none, s2) => .next s2
          | (some bs, s2) =>
            let row := rowOf d (vd / 8) at_ t.next bs
            let s3 := ((s2.modTx port ch fun t => { t with next := t.next + 1, credits := t.credits - 1, waiting := t.waiting ++ [row] }).modVd vd
              fun v => { v with sqNext := at_ + n }).enqueue 4 port ⟨vd, 0, rowLen n, ch, s.clk, 0⟩
            .next ((if row.last then s3.sqNextDesc vd c else s3).sqSeen vd)

/-- The port's arbiter lets the oldest row of a channel id pass: it goes on the wire, and the sender keeps it (17 R389). -/
def State.rowGranted (s : State) (port ch : Nat) : State :=
  match (s.tx port ch).waiting with
  | [] => s
  | r :: rest => (s.wire port r).modTx port ch fun t => { t with waiting := rest, kept := t.kept ++ [r] }

/-! What the management controller writes (17 R386, R388, R390). -/

/-- SEAWAY_KEY_LOAD: a new key, and row numbers from 0 on both sides (log 34). -/
def execSeawayKeyLoad (port ch : Nat) (key : Wide) (s : State) : Out :=
  s.managed fun s =>
    if 8 ≤ port then s
    else
      (s.modTx port ch fun t => { t with key := key, hasKey := true, next := 0, ackHi := 0, ackNext := 0 }).modPort port fun p =>
        { p with rx := p.rx.map fun x =>
            (x.1, if x.1 = ch then { x.2 with low := 0, got := [], high := none, slow := 0, served := [], ackSeq := 0 } else x.2) }

/-- RECEIVE_TABLE_WRITE: 256 entries per port. -/
def execReceiveTableWrite (port ch : Nat) (e : RxTarget) (s : State) : Out :=
  s.managed fun s =>
    if 8 ≤ port then s
    else
      s.modPort port fun p =>
        if (tblGet? p.rx ch).isSome ∨ p.rx.length < 256 then { p with rx := tblPut p.rx ch ⟨e, 0, [], none, 0, 0, 0, 0, [], 0, []⟩ } else p

/-- SEND_QUEUE_PLACE. -/
def execSendQueuePlace (vd : Nat) (va : DWord) (s : State) : Out :=
  s.managed fun s =>
    if (tblGet? s.vds vd).isSome then s.modVd vd fun v => { v with sendq := some va, sqNext := 0, tail := false } else s

end Sys2Proof.Machine
end

