-- ==== Sys2Proof/Machine/EvSpdm.lean ====
section
/-! DEFINITION. The SPDM responders, IDE and TDISP (15 R349 to R351). -/

namespace Sys2Proof.Machine

/-- The I/O die's index among the nine dies (log 30). -/
def ioDie : Nat := 8

/-- A request of the host to a die's responder (15 R351). -/
def State.spdm (s : State) (die : Nat) (ok : Spdm → Bool) (kind : Nat) (sig : BitVec 768) (vals : List (List DWord)) (f : Spdm → Spdm) :
    Out :=
  s.hosted fun s =>
    if h : die < 9 then
      let x := s.host.spdm[die]
      if ok x then (s.modHost fun k => { k with spdm := vset k.spdm ⟨die, h⟩ (f x) }).say (.spdmOk die kind sig vals)
      else s.say (.spdmError die)
    else s.say (.spdmError die)

/-- GET_VERSION begins a connection afresh. -/
def execGetVersion (die : Nat) (s : State) : Out :=
  s.spdm die (fun _ => true) 1 0 [] fun x => { Spdm.reset with version := true, sess := x.sess }
/-- GET_CAPABILITIES. -/
def execGetCapabilities (die : Nat) (s : State) : Out :=
  s.spdm die (fun x => x.version) 2 0 [] fun x => { x with caps := true }
/-- NEGOTIATE_ALGORITHMS. -/
def execNegotiateAlgorithms (die : Nat) (s : State) : Out :=
  s.spdm die (fun x => x.caps) 3 0 [] fun x => { x with algs := true }
/-- GET_DIGESTS. -/
def execGetDigests (die : Nat) (s : State) : Out := s.spdm die (fun x => x.algs) 4 0 [Config.digest die] id
/-- GET_CERTIFICATE. -/
def execGetCertificate (die : Nat) (s : State) : Out := s.spdm die (fun x => x.algs) 5 0 [Config.certificate die] id

/-- A signature of a die over a transcript, under its own identity key: a free value (log 14). -/
def State.sign (s : State) (die : Nat) (nonce : Wide) : BitVec 768 := Config.signature die s.fresh (nonce ^^^ Config.randomOf s.fresh)

/-- A fresh free value is drawn. -/
def Out.drawn (o : Out) : Out :=
  match o with
  | .next s => .next { s with fresh := s.fresh + 1 }
  | x => x

/-- CHALLENGE. -/
def execChallenge (die : Nat) (nonce : Wide) (s : State) : Out :=
  Out.drawn (s.spdm die (fun x => x.algs) 6 (s.sign die nonce) [] id)

/-! Measurements (15 R349, R351; 17 R391). -/

def words384 (h : BitVec 384) : List DWord := (List.range 6).map fun i => h.extractLsb' (64 * i) 64
/-- The items that a locked TDI fixes, of its virtual device and its partition. -/
def State.lockedItems (s : State) (vd : Nat) : List DWord :=
  let p := s.part (vd / 8)
  let w (n : Nat) : DWord := BitVec.ofNat 64 n
  [w p.first, w p.count, w p.colour.toNat, w p.mask.toNat, w (if p.closed then 1 else 0), (s.vd vd).keys, p.channels.setWidth 64] ++
    p.rows.flatMap (fun (r : Nat × BitVec 98) => [w r.1, r.2.setWidth 64, (r.2 >>> 64).setWidth 64]) ++ p.ranges.flatMap (fun (r : Nat × Nat) => [w r.1, w r.2]) ++
    p.allot.map w ++ (s.quaysOf (vd / 8)).map fun q => w (s.quay q).bw
/-- Units of a die, of those that are numbered: the strips of a compute die and their rows, pilots and Causeway ports; the slices and the
stacks of a base die (12 R286); the Seaway ports of the I/O die. Dies 0 to 3 hold 12 strips each, dies 4 to 7 lie under them (log 30). -/
def onDie (die n : Nat) : Bool :=
  if n < 0x10000 then n / 128 / 12 == die
  else if n < 0x30000 then n % 0x10000 / 12 == die
  else if n < 0x40000 then (n - 0x30000) / 24 + 4 == die
  else if n < 0x50000 then (n - 0x40000) / 3 + 4 == die
  else if n < 0x60000 then (n - 0x50000) / 12 == die
  else ioDie == die
/-- The spare rows used on a die's strips: the row maps that the partitions hold for them. -/
def State.rowsOf (s : State) (die : Nat) : List DWord :=
  s.parts.flatMap fun (p : Nat × Part) => (p.2.rows.filter fun (r : Nat × BitVec 98) => r.1 / 12 == die).flatMap fun (r : Nat × BitVec 98) =>
    [BitVec.ofNat 64 r.1, r.2.setWidth 64, (r.2 >>> 64).setWidth 64]
/-- Firmware, fuses and defects of a die; for the I/O die also one measurement for each TDI. -/
def State.measurements (s : State) (die : Nat) : List (List DWord) :=
  let i := tblGet ⟨0, 0, false⟩ s.host.running die
  [[BitVec.ofNat 64 i.ver] ++ words384 i.hash,
    (((s.host.fused.map (0x30000 + ·)) ++ s.host.failing).filter (onDie die)).map (BitVec.ofNat 64) ++ s.rowsOf die] ++
    if die = ioDie then (s.vds.filter fun v => v.2.vf.isSome).map fun v => s.lockedItems v.1 else []

/-- GET_MEASUREMENTS. -/
def execGetMeasurements (die : Nat) (nonce : Wide) (s : State) : Out :=
  Out.drawn (s.spdm die (fun x => x.algs) 7 (s.sign die nonce) (s.measurements die) id)

/-! Secure sessions, of the I/O die alone. -/

/-- KEY_EXCHANGE. -/
def execKeyExchange (die : Nat) (share : Wide) (s : State) : Out :=
  Out.drawn (s.spdm die (fun x => die == ioDie && x.algs) 8 (s.sign die share) [] fun x => { x with sess := 1 })
/-- FINISH. -/
def execFinish (die : Nat) (verifies : Bool) (s : State) : Out :=
  s.spdm die (fun x => die == ioDie && x.sess == 1 && verifies) 9 0 [] fun x => { x with sess := 2 }
/-- END_SESSION. -/
def execEndSession (die : Nat) (s : State) : Out :=
  s.spdm die (fun x => die == ioDie && x.sess == 2) 10 0 [] fun x => { x with sess := 0 }

/-- A secure session with the I/O die is open. -/
def State.inSession (s : State) : Bool := (s.host.spdm[ioDie]'(by decide)).sess == 2

/-- IDE_KM_EXCHANGE: keys of the physical function's stream, or of a TDI's (15 R350). -/
def execIdeKmExchange (fn : HostFn) (s : State) : Out :=
  s.hosted fun s =>
    let named := match fn with
      | .pf => true
      | .vf n => s.hasVf n && (s.vfVd n).isSome
    if s.inSession && named then
      (s.modHost fun h => match fn with
        | .pf => { h with idePf := true }
        | .vf n => { h with ide := n :: h.ide.filter (· != n) }).say (.spdmOk ioDie 11 0 [])
    else s.say (.spdmError ioDie)

/-! TDISP (15 R349). -/

/-- The TDI of a virtual device in a state; its stream goes when it is unlocked or in ERROR (15 R350). -/
def State.setTdi (s : State) (v : Nat) (t : Tdi) : State :=
  let s1 := s.modVd v fun d => { d with tdi := t }
  match (s.vd v).vf with
  | some f => if t = .unlocked ∨ t = .error then s1.modHost fun h => { h with ide := h.ide.filter (· != f) } else s1
  | none => s1
/-- A change of a virtual function's TDI from the states that a test admits; others answer with an error. -/
def State.tdi (s : State) (vf : Nat) (ok : Tdi → Bool) (t : Tdi) : State :=
  match s.vfVd vf with
  | some v =>
    if ok (s.vd v).tdi && !s.host.bootFailed then (s.setTdi v t).say (.spdmOk ioDie 12 0 []) else s.say (.spdmError ioDie)
  | none => s.say (.spdmError ioDie)

/-- TDI_LOCK. -/
def execTdiLock (vf : Nat) (s : State) : Out := s.hosted fun s => s.tdi vf (· == .unlocked) .locked
/-- START_INTERFACE_REQUEST: only within a secure session, and with a stream for the TDI (DEDUCED from 15 R350; log 98). -/
def execStartInterfaceRequest (vf : Nat) (s : State) : Out :=
  s.hosted fun s => if s.inSession && s.host.ide.contains vf then s.tdi vf (· == .locked) .run else s.say (.spdmError ioDie)
/-- TDI_UNLOCK: from any state. -/
def execTdiUnlock (vf : Nat) (s : State) : Out := s.hosted fun s => s.tdi vf (fun _ => true) .unlocked

/-- IDE_INTEGRITY_FAILURE: the TLP is dropped, and the TDI is in ERROR (15 R350). -/
def execIdeIntegrityFailure (vf : Nat) (s : State) : Out :=
  .next (match s.vfVd vf with
    | some v => if (s.vd v).tdi = .run && s.host.ide.contains vf then s.setTdi v .error else s
    | none => s)

end Sys2Proof.Machine
end

