-- ==== Sys2Proof/Machine/EvError.lean ====
section
/-! DEFINITION. Hardware errors: counts, failing units, stops, poison, and replays (14 R325; 15 R346; 16 R370 to R375). -/

namespace Sys2Proof.Machine

/-! Units (16 R370, R371, R374). -/

/-- The physical row of a logical row of a strip (15 R336). -/
def State.physRow (s : State) (strip row : Nat) : Nat :=
  let m := ((s.part ((s.partOf strip).getD 0)).rows.find? fun x => x.1 == strip).map (·.2)
  match m with
  | some mask => (((List.range 98).filter fun i => bit mask i).getD row row)
  | none => row

/-- A line of an address is in its home slice. -/
def State.cachedAt (s : State) (pa : Nat) : Bool :=
  s.llc.any fun x => x.1 / 16384 == s.home pa && x.2.any fun l => l.line == pa / 128

/-- The unit whose errors are counted: a cell's is its row, or for a quay cell its strip; a sector's is the slice that holds it, or
its HBM stack (log 37). -/
def State.unitOf (s : State) (u : HwUnit) : HwUnit :=
  let ofCell (c : Nat) : HwUnit := if isQuayCell c then .strip (cellStrip c) else .row (cellStrip c) (s.physRow (cellStrip c) (cellRow c))
  match u with
  | .store c _ => ofCell c
  | .regs c => ofCell c
  | .sector pa => if s.cachedAt pa then .slice (s.home pa) else .hbm (s.home pa / 8)
  | x => x

/-- A unit's number among the counts and the failing units. -/
def unitCode (u : HwUnit) : Nat :=
  match u with
  | .row t r => t * 128 + r
  | .strip t => stripUnit t
  | .pilot t => 0x20000 + t
  | .slice q => 0x30000 + q
  | .hbm k => 0x40000 + k
  | .causeway t => 0x50000 + t
  | .port n => portUnit n
  | .store c _ => c
  | .regs c => c
  | .sector _ => 0

/-- Kind, unit and action of a unit's record. -/
def unitFields (u : HwUnit) : Nat × Nat × Nat :=
  match u with
  | .row t r => (0, t * 1024 + r, 0)
  | .strip t => (1, t * 1024, 1)
  | .pilot t => (2, t * 1024, 1)
  | .slice q => (3, q, 2)
  | .hbm k => (4, k, Config.hbmAction.toNat)
  | _ => (0, 0, 0)

/-- The partitions that a failing unit affects: its strip's, or for a slice or a stack every one. A Causeway port and a Seaway port have
no record (16 R374). -/
def State.affected (s : State) (u : HwUnit) : List Nat :=
  match u with
  | .row t _ => (s.partOf t).toList
  | .strip t => (s.partOf t).toList
  | .pilot t => (s.partOf t).toList
  | .causeway _ => []
  | .port _ => []
  | _ => s.parts.map (·.1)

/-- The record of a failing unit (16 R374). -/
def failRec (part kind reason no action : Nat) : Rec :=
  ⟨part, srcDie, recBody 0xD 0 0xFFFF [(8, 1, kind), (9, 1, reason), (10, 2, no), (12, 1, action)], none⟩

/-- A unit becomes failing, once; a record of it is posted unless `quiet`. -/
def State.failOne (s : State) (u : HwUnit) (reason : Nat) (quiet : Bool) : State :=
  if s.host.failing.contains (unitCode u) then s
  else
    let s1 := s.modHost fun h => { h with failing := h.failing ++ [unitCode u], replace := true }
    let f := unitFields u
    if quiet then s1 else { s1 with records := s1.records ++ (s.affected u).map fun p => failRec p f.1 reason f.2.1 f.2.2 }

/-- Failing rows of a strip. -/
def State.badRows (s : State) (t : Nat) : Nat := s.host.failing.countP fun n => n / 128 == t && n < 0x10000

/-- A unit becomes failing, and its strip with it for a pilot or a third row (16 R371). -/
def State.failUnit (s : State) (u : HwUnit) (reason : Nat) (quiet : Bool) : State :=
  let s1 := s.failOne u reason quiet
  match u with
  | .row t _ => if 3 ≤ s1.badRows t then s1.failOne (.strip t) 2 quiet else s1
  | .pilot t => s1.failOne (.strip t) reason quiet
  | _ => s1

/-! The events. -/

/-- CORRECTABLE_ERROR: counted; at 4,096 the unit is failing. -/
def execCorrectableError (u : HwUnit) (s : State) : Out :=
  let w := s.unitOf u
  let n := tblGet 0 s.host.errs (unitCode w) + 1
  let s1 := s.modHost fun h => { h with errs := tblPut h.errs (unitCode w) n }
  .next (if 4096 ≤ n then s1.failUnit w 0 false else s1)

/-- A cell's data error (16 R360, R373). -/
def State.dataError (s : State) (c : Nat) (detail : Byte) : State := s.stopCell c 0x20 detail 0 0 0 0

/-- UNCORRECTABLE_ERROR. -/
def execUncorrectableError (u : HwUnit) (s : State) : Out :=
  let s1 := match u with
    | .store c n =>
      ({ s with fresh := s.fresh + 1 }.modCell c fun k => k.setSlot n { k.slot n with pay := Config.lost s.fresh }).dataError c 1
    | .regs c => s.dataError c 2
    | .sector pa => if s.poison.contains (pa / 16) then s else { s with poison := s.poison ++ [pa / 16] }
    | _ => s
  .next (s1.failUnit (s.unitOf u) 1 false)

/-- BEACON_UNCORRECTABLE_ERROR (16 R375). -/
def execBeaconUncorrectableError (ch : Nat) (s : State) : Out :=
  match s.bcnOwner ch with
  | none => .next s
  | some p =>
    let rs := (s.regions.filter fun r => r.2.part == p && r.2.st == .running).map (·.1)
    let s1 := rs.foldl (fun s r => s.haltRegion r .beaconError) s
    let s2 := (s1.modBeacon ch Beacon.fresh).clearArrivals p ch
    .next { s2 with records := s2.records ++ [failRec p 1 1 (0x3F * 1024) 1] }

/-- Where something in flight goes: a store's or a handle's cell, or a quay. -/
def flightTo (e : Instr) : Option (Sum Nat Nat) :=
  match e with
  | .tokenArrival c _ _ _ _ => some (.inl c)
  | .berthRequestArrival (.cell c) _ => some (.inl c)
  | .berthRequestArrival (.quay q) _ => some (.inr q)
  | .grantArrival g => some (.inl g.dst)
  | _ => none

/-- The flit, or the request, in flight that has a number is discarded. -/
def State.discard (s : State) (k : Nat) : State :=
  let s1 := s.dropPasses fun p => p.id == k && p.isToken
  { s1 with pend := s1.pend.filter fun p => !(p.owner == k && (flightTo p.ev).isSome) }
/-- ISOLATION_ERROR: what carries another partition id is discarded, and counted for its unit, which is treated as having an
uncorrectable error, with no record (15 R346, 16 R374). -/
def execIsolationError (u : HwUnit × Nat) (s : State) : Out :=
  let n := unitCode (s.unitOf u.1)
  .next (((s.discard u.2).isolated n).failUnit (s.unitOf u.1) 1 true)

/-- What arrives at the same place as another in flight, no earlier than it, is delayed by one clk. -/
def Pend.delayed (e p : Pend) : Pend :=
  if (flightTo p.ev == flightTo e.ev && decide (e.due ≤ p.due)) = true then { p with due := p.due + 1 } else p

/-- LINK_CRC_REPLAY: what is in flight arrives one clk later, and so does what goes to the same place after it (14 R325). -/
def execLinkCrcReplay (k : Nat) (s : State) : Out :=
  .next (match s.pend.find? fun p => p.owner == k && (flightTo p.ev).isSome with
    | none => s
    | some e => { s with pend := s.pend.map (Pend.delayed e) })

end Sys2Proof.Machine
end

