-- ==== Sys2Proof/Machine/EvManage.lean ====
section
/-! DEFINITION. What the management controller does: partitions, strips, place maps, virtual devices, keys, pilots, berth ways,
firmware and reset; and the arbiters (01 R33, R35, R36; 04 R104; 10 R252; 13 R299; 15 R332 to R349; 16 R371, R372; 17 R391). -/

namespace Sys2Proof.Machine

/-! Strips (15 R332, R335). -/

/-- A strip that nothing uses: step 1 of 15 R335. -/
def State.stripFree (s : State) (t : Nat) : Bool :=
  (s.cells.all fun c => cellStrip c.1 != t || c.2.region.isNone) &&
    [2 * t, 2 * t + 1].all (fun q => (s.quay q).areas.isEmpty && (s.quay q).chans.all fun c => !c.2.opened) && !(s.pilot t).online

/-- A set of a slice lies in a partition's colour (12 R288). -/
def ofColour (p : Part) (set_ : Nat) : Bool := (BitVec.ofNat 4 (set_ / 1024) &&& p.mask) == (p.colour &&& p.mask)

/-- The scrub of a strip of a partition: its lines in the sets of the partition's colour are written back and invalidated. -/
def State.scrub (s0 : State) (p : Part) (t : Nat) : State :=
  let s := s0.flushLines fun k _ => k / 16384 / 2 == t && ofColour p (k % 16384)
  { s with
    cells := s.cells.filter fun c => cellStrip c.1 != t
    quays := s.quays.map fun q => if q.1 / 2 = t then (q.1, { Quay.reset with bw := q.2.bw }) else q }

/-- STRIP_RELEASE: of a strip at an end of its partition; refused while step 1 does not hold. -/
def execStripRelease (strip : Nat) (s : State) : Out :=
  s.managed fun s => match s.partOf strip with
    | some n =>
      let p := s.part n
      if (strip = p.first ∨ strip + 1 = p.first + p.count) ∧ s.stripFree strip ∧ !s.host.released.contains strip then
        (s.scrub p strip).modHost fun h => { h with released := strip :: h.released }
      else s
    | none => s

/-- A pilot comes online at an entry (01 R33). -/
def State.bringUp (s : State) (strip : Nat) (pc : DWord) (vdid : BitVec 3) : State :=
  s.setPilot strip { Pilot.reset with online := true, pc := pc, vdid := vdid.setWidth 8 }

/-- The berth ways of a quay, none at a fused slice (16 R372). Lines that no longer have a way are written back (10 R252). -/
def State.setWays (s0 : State) (q n : Nat) : State :=
  let s := (s0.llc.filter fun x => x.1 / 16384 == q).foldl (fun s x => s.writeBack q (x.2.drop (16 - n))) s0
  { s.modQuay q (fun u => { u with bw := if s.host.fused.contains q then 0 else n, slots := [] }) with
    llc := s.llc.map fun x => if x.1 / 16384 = q then (x.1, x.2.take (16 - n)) else x }

/-! A partition's first strip moves while its regions run: what names logical strips goes on naming the physical ones (log 97). -/

/-- A place field under a first strip b that it had under a; the strip 63, which no partition has, where there is none. -/
def rebase (a b pl : Nat) : Nat := if pl + 1024 * a < 1024 * b then 63 * 1024 + pl % 1024 else (pl + 1024 * a - 1024 * b) % 65536
def rebaseRoute (a b : Nat) (d : DWord) : DWord :=
  if rtV d then (d &&& ~~~0x1FFFE0#64) ||| BitVec.ofNat 64 (rebase a b (rtDest d) * 32) else d
/-- The place or the logical strip that a registration names (11 R269). -/
def rebaseReg (a b : Nat) (v : Word) : Word :=
  if bf v 30 2 = 0 then (v &&& 0xFFFF0000) ||| BitVec.ofNat 32 (rebase a b (bf v 0 16))
  else if bf v 30 2 = 1 then (v &&& ~~~0x3F#32) ||| BitVec.ofNat 32 (rebase a b (1024 * bf v 0 6) / 1024)
  else v
/-- A request names its requester by place or logical strip. -/
def renamed (b : Nat) (r : BReq) : BReq :=
  if r.kind = 0 ∨ (r.kind = 4 ∧ r.fctx = 1) then { r with who := BitVec.ofNat 16 (r.src - 1024 * b) }
  else if r.kind = 1 ∨ (r.kind = 4 ∧ r.fctx = 2) then { r with who := BitVec.ofNat 16 (r.src - b) }
  else r
def Cell.rebased (a b : Nat) (c : Cell) : Cell :=
  { c with
    ctxs := c.ctxs.map fun x => { x with routes := x.routes.map (rebaseRoute a b) }
    road := c.road.map (renamed b), outside := c.outside.map (renamed b) }
def Quay.rebased (a b : Nat) (q : Quay) : Quay :=
  { q with
    road := q.road.map (renamed b), outside := q.outside.map (renamed b)
    chans := q.chans.map fun c => (c.1, { c.2 with writer := rebaseReg a b c.2.writer, reader := rebaseReg a b c.2.reader }) }
def Region.rebased (a b : Nat) (g : Region) : Region :=
  { g with
    strip := if g.st = .free ∨ g.st = .saved then g.strip else g.strip + a - b
    requeue := g.requeue.map fun x => (x.1, renamed b x.2), rewait := g.rewait.map (renamed b) }
/-- The first strip of a partition becomes b. -/
def State.setFirst (s : State) (n b : Nat) : State :=
  let a := (s.part n).first
  let mine (t : Nat) : Bool := s.partOf t == some n
  { s with
      cells := s.cells.map fun (c : Nat × Cell) => (c.1, if mine (cellStrip c.1) then c.2.rebased a b else c.2)
      quays := s.quays.map fun (q : Nat × Quay) => (q.1, if mine (q.1 / 2) then q.2.rebased a b else q.2)
      regions := s.regions.map fun (r : Nat × Region) => (r.1, if r.2.part = n then r.2.rebased a b else r.2) }.modPart n fun p =>
    { p with first := b }

/-- A partition loses, or gains, a strip at one of its ends. -/
def State.lose (s : State) (n t : Nat) : State :=
  (if t = (s.part n).first then s.setFirst n (t + 1) else s).modPart n fun p =>
    { p with count := p.count - 1, rows := p.rows.filter fun r => r.1 != t }
def State.gain (s : State) (n t : Nat) : State :=
  (if t + 1 = (s.part n).first then s.setFirst n t else s).modPart n fun p => { p with count := p.count + 1 }
/-- A strip next to a partition, and one at an end of it. -/
def Part.next (p : Part) (t : Nat) : Bool := t + 1 == p.first || t == p.first + p.count
def Part.atEnd (p : Part) (t : Nat) : Bool := t == p.first || t + 1 == p.first + p.count

/-- A strip that is failing (16 R371). -/
def State.badStrip (s : State) (t : Nat) : Bool := s.host.failing.contains (stripUnit t)

/-- A strip can come online: one released at an end of its partition, or unassigned, and not failing, in a partition next to it; or it
becomes unassigned. -/
def State.onlineOk (s : State) (strip : Nat) (d : OnlineDesc) : Bool :=
  let old := s.partOf strip
  strip < Config.strips && s.stripFree strip && d.bwN ≤ 8 && d.bwS ≤ 8 &&
    (match old with
      | some o => s.host.released.contains strip && (s.part o).atEnd strip
      | none => true) &&
    (match d.part with
      | some n => (tblGet? s.parts n).isSome && (s.part n).next strip && old != some n && !s.badStrip strip
      | none => true)

/-- A strip comes online. -/
def State.stripOn (s : State) (strip : Nat) (d : OnlineDesc) : State :=
  let s1 := match s.partOf strip with
    | some n => (s.scrub (s.part n) strip).lose n strip
    | none => s
  let s2 := s1.modHost fun h => { h with released := h.released.filter (· != strip) }
  match d.part with
  | some n =>
    (((s2.gain n strip).setWays (2 * strip) d.bwN).setWays (2 * strip + 1) d.bwS).bringUp strip d.pc d.vdid
  | none => s2

/-! Partitions (15 R332). -/

/-- A run of frames of the HBM (00 R6, 15 R332); one of length 0 is not used. -/
def rangeOk (r : Nat × Nat) : Bool := r.1 < 2 ^ 36 && r.2 < 2 ^ 24 && (r.2 == 0 || r.1 + r.2 ≤ Config.frames)
/-- Two set colours with their masks have no set in common (12 R288). -/
def coloursApart (c1 m1 c2 m2 : BitVec 4) : Bool := (c1 ^^^ c2) &&& m1 &&& m2 != 0
/-- Items that a partition can have beside the other partitions: at most 16 memory ranges, sets and beacon channels of no other
partition, and allotments within the arbiters' capacities (12 R288; 15 R332, R344). -/
def State.itemsOk (s : State) (id : Nat) (d : PartDesc) : Bool :=
  let others := s.parts.filter fun p => p.1 != id
  d.ranges.length ≤ 16 && d.ranges.all rangeOk &&
    others.all (fun p => p.2.channels &&& d.channels == 0 && coloursApart d.colour d.mask p.2.colour p.2.mask) &&
    (List.range 5).all fun c => others.foldl (fun n p => n + p.2.allot.getD c 0) (d.allot.getD c 0) ≤ Config.classCap c
/-- The ways in which a partition can be formed: a free id, unassigned strips of which none is failing, a supervisor pilot of its own,
and items that it can have. -/
def State.canForm (s : State) (id : Nat) (d : PartDesc) : Bool :=
  id < 16 && (tblGet? s.parts id).isNone && 0 < d.count && d.first + d.count ≤ Config.strips &&
    (List.range d.count).all (fun i => (s.partOf (d.first + i)).isNone && !s.badStrip (d.first + i)) && d.first ≤ d.sup &&
    d.sup < d.first + d.count && s.itemsOk id d

/-- PARTITION_FORM. -/
def execPartitionForm (id : Nat) (d : PartDesc) (s : State) : Out :=
  s.managed fun s =>
    if s.canForm id d then
      s.setPart id { Part.none with first := d.first, count := d.count, colour := d.colour, mask := d.mask, channels := d.channels,
                                    ranges := d.ranges, allot := d.allot, closed := d.closed, sup := d.sup }
    else s

/-- The end of a removal: the strips are scrubbed and belong to no partition; their pilots are offline. -/
def State.partEnd (s : State) (id : Nat) : State :=
  if (s.part id).leaving && (s.vds.all fun v => v.1 / 8 != id) then
    let p := s.part id
    let s1 := (List.range p.count).foldl (fun s i => (s.scrub p (p.first + i)).offline (p.first + i)) s
    { s1 with parts := tblDel s1.parts id }
  else s

/-- A row map keeps none of a strip's failing rows, where the strip itself is not failing (16 R371). -/
def State.rowsSound (s : State) (t : Nat) (m : BitVec 98) : Bool :=
  s.badStrip t || (List.range 98).all fun i => !bit m i || !s.host.failing.contains (t * 128 + i)
/-- Place maps that can be written: every region of the partition is SAVED or FREE, the strip map keeps to the partition's
strips, and each row map sets 96 bits, of rows that are not failing (15 R336, R337; 16 R371). -/
def State.mapsOk (s : State) (part : Nat) (m : PlaceMaps) : Bool :=
  let p := s.part part
  (tblGet? s.parts part).isSome && (s.regions.all fun r => r.2.part != part || r.2.st == .saved || r.2.st == .free) &&
    m.first == p.first &&
    m.rows.all fun r => p.first ≤ r.1 && r.1 < p.first + p.count && ((List.range 98).countP fun i => bit r.2 i) == 96 &&
      s.rowsSound r.1 r.2

/-! Changes of locked items (15 R349; log 40). -/

/-- A virtual device whose TDI is not unlocked: it fixes the items. -/
def State.locked (s : State) (vd : Nat) : Bool := (s.vd vd).vf.isSome && (s.vd vd).tdi != .unlocked
/-- Those of a partition. -/
def State.lockedVds (s : State) (part : Nat) : List Nat := (s.vdList.filter fun v => v / 8 == part).filter s.locked

/-- The virtual devices that fix what a change is of: those of the partitions that it is of, or the one whose key ids change. -/
def Held.locks (c : Held) (s : State) : List Nat :=
  match c with
  | .strip t d => (((s.partOf t).toList ++ d.part.toList).flatMap s.lockedVds)
  | .remove id => s.lockedVds id
  | .maps part _ => s.lockedVds part
  | .ways q _ => (s.partOf (q / 2)).toList.flatMap s.lockedVds
  | .items part _ => s.lockedVds part
  | .keys vd _ => if s.locked vd then [vd] else []

/-- The change is not refused. Berth ways change only while nothing occupies them (10 R252). -/
def Held.ok (c : Held) (s : State) : Bool :=
  match c with
  | .strip t d => s.onlineOk t d
  | .remove id => (tblGet? s.parts id).isSome
  | .maps part m => s.mapsOk part m
  | .ways q n => (s.partOf (q / 2)).isSome && n ≤ 8 && (s.quay q).areas.isEmpty
  | .items part d => (tblGet? s.parts part).isSome && s.itemsOk part d
  | .keys vd _ => (tblGet? s.vds vd).isSome

/-- The items of a partition change; a change of colour or mask writes back and invalidates the partition's lines. -/
def State.setItems (s : State) (n : Nat) (d : PartDesc) : State :=
  let p := s.part n
  (if p.colour = d.colour ∧ p.mask = d.mask then s else s.flushLines fun _ l => l.vd / 8 == n).modPart n fun p =>
    { p with colour := d.colour, mask := d.mask, channels := d.channels, ranges := d.ranges, allot := d.allot, closed := d.closed }

/-- The change made. A partition's virtual devices are destroyed before it goes. -/
def Held.make (c : Held) (s : State) : State :=
  match c with
  | .strip t d => s.stripOn t d
  | .remove id =>
    { s.modPart id (fun p => { p with leaving := true }) with
      vds := s.vds.map fun (v : Nat × Vd) => (v.1, if v.1 / 8 = id then { v.2 with dying := true } else v.2) }
  | .maps part m => s.modPart part fun p => { p with rows := m.rows.foldl (fun t r => tblPut t r.1 r.2) p.rows }
  | .ways q n => s.setWays q n
  | .items part d => s.setItems part d
  | .keys vd m => s.modVd vd fun v => { v with keys := m &&& ~~~1#64 }

/-- No TDI fixes what a change is of. -/
def Held.free (c : Held) (s : State) : Bool := (c.locks s).isEmpty

/-- A change: refused, made, or held, with each TDI that fixes its items in ERROR. -/
def State.change (s : State) (c : Held) : State :=
  if !c.ok s then s
  else if c.free s then c.make s
  else ((c.locks s).foldl (fun s v => s.setTdi v .error) s).modHost fun h => { h with held := h.held ++ [c] }

/-- Held changes that no TDI fixes any more are made, unless they are refused now. -/
def State.heldGo (s : State) : State :=
  (s.host.held.filter fun c => c.free s).foldl (fun s c => if c.ok s then c.make s else s)
    (s.modHost fun x => { x with held := x.held.filter fun c => !c.free s })

/-- STRIP_ONLINE. -/
def execStripOnline (strip : Nat) (d : OnlineDesc) (s : State) : Out := s.managed fun s => s.change (.strip strip d)

/-- PARTITION_REMOVE. -/
def execPartitionRemove (id : Nat) (s : State) : Out := s.managed fun s => s.change (.remove id)

/-- PLACE_MAP_WRITE. -/
def execPlaceMapWrite (part : Nat) (m : PlaceMaps) (s : State) : Out := s.managed fun s => s.change (.maps part m)

/-- BERTH_WAY_SET. -/
def execBerthWaySet (q n : Nat) (s : State) : Out := s.managed fun s => s.change (.ways q n)

/-- SUPERVISOR_PILOT_NAMED. -/
def execSupervisorPilotNamed (part strip : Nat) (s : State) : Out :=
  s.managed fun s => if s.partOf strip = some part then s.modPart part fun p => { p with sup := strip } else s

/-- PILOT_ONLINE. -/
def execPilotOnline (strip : Nat) (pc : DWord) (vdid : BitVec 3) (s : State) : Out :=
  s.managed fun s =>
    if (s.partOf strip).isSome && !(s.pilot strip).online && !s.host.released.contains strip then s.bringUp strip pc vdid else s

/-! Virtual devices and keys (15 R338, R344, R347, R348). -/

/-- A save area: its base lies in the partition's memory ranges, if it has a size (16 R365). -/
def State.saveOk (s : State) (vd : Nat) (base : DWord) (size : Word) : Bool := size == 0 || s.inRanges (vd / 8) base.toNat
/-- A virtual device can be created: with a function that is free, and enabled, or with none (15 R338, 17 R391). -/
def State.canCreate (s : State) (n : Nat) (d : VdDesc) : Bool :=
  (tblGet? s.parts (n / 8)).isSome && (tblGet? s.vds n).isNone && s.saveOk n d.saveBase d.saveSize &&
    match d.vf with
    | some f => s.hasVf f && (s.vfVd f).isNone
    | none => true

/-- The buckets of a virtual device that is created hold nothing (15 R340, R344). -/
def State.emptyBuckets (s : State) (n : Nat) : State := { s with arbs := s.arbs.map fun a => (a.1, { a.2 with lv := tblDel a.2.lv n }) }

/-- VD_CREATE: rate 0, depth X, lend and borrow set; key id 0 is never permitted (15 R347). -/
def execVdCreate (n : Nat) (d : VdDesc) (s : State) : Out :=
  s.managed fun s =>
    if s.canCreate n d then
      (s.emptyBuckets n).setVd n
        { Vd.none with vf := d.vf, keys := d.keys &&& ~~~1#64, root := d.root, saveBase := d.saveBase, saveSize := d.saveSize,
                       quota := d.quota, ways := d.ways, sl := Vector.ofFn fun i : Fin 5 => ⟨0, Config.classX i.val, true, true⟩ }
    else s

/-- VD_DESTROY begins: its regions are killed, and the rest follows once they are gone. -/
def execVdDestroy (n : Nat) (s : State) : Out :=
  s.managed fun s => if (tblGet? s.vds n).isSome then s.modVd n fun v => { v with dying := true } else s

/-- LLC lines written back and invalidated. -/
def State.dropLines (s : State) (t : Line → Bool) : State := s.flushLines fun _ l => t l

/-- A channel closed and freed whatever it holds; a pilot that waits for it executes its command again. -/
def State.dropChan (s : State) (ch : Nat) : State :=
  let s1 := s.modQuay (ch / 64) fun q =>
    { q with road := q.road.filter fun r => r.chan != ch, outside := q.outside.filter fun r => r.chan != ch }
  let s2 := { s1 with pilots := s1.pilots.map fun (p : Nat × Pilot) =>
    if p.2.wait = PWait.chput ch ∨ p.2.wait = PWait.chtake ch then (p.1, { p.2 with wait := .no, ans := none }) else p }
  s2.chanFree ch

/-- Key slots of a mask set to zero, their lines flushed first. -/
def State.zeroKeys (s : State) (keys : DWord) : State :=
  { s.dropLines (fun l => bit keys l.key.toNat) with keySlots := s.keySlots.filter fun k => !bit keys k.1 }

/-- A dying virtual device: regions not yet killed are; after the last its channels, lines and keys go, in order. -/
def State.vdEnd (s : State) (n : Nat) : State :=
  if !(s.vd n).dying then s
  else
    let rs := s.regions.filter fun r => 8 * r.2.part + r.2.vd == n && r.2.st != .free
    if rs.isEmpty then
      let s1 := (s.chansOf n).foldl (fun s c => s.dropChan c.1) s
      let s2 := ((s1.dropLines fun l => l.vd == n).zeroKeys (s1.permitted n)).setTdi n .unlocked
      { s2 with vds := tblDel s2.vds n }
    else rs.foldl (fun s r =>
      if r.2.st = .killing then s
      else if r.2.st = .loading then s.modRegion r.1 fun g => { g with kill := true }
      else s.killStart r.1) s

/-- KEY_SLOT_LOAD: lines filled under the key id are written back and invalidated first. -/
def execKeySlotLoad (k : Nat) (key : BitVec 512) (s : State) : Out :=
  s.managed fun s =>
    if k < 64 then
      let s1 := s.dropLines fun l => l.key.toNat == k
      { s1 with keySlots := tblPut s1.keySlots k key }
    else s

/-! Flags, firmware, reset (04 R104; 16 R371, R372; 17 R391). -/

/-- STICKY_FLAG_CLEAR. -/
def execStickyFlagClear (c : Nat) (mask : BitVec 6) (s : State) : Out :=
  .next (s.modCell c fun k => { k with flags := k.flags &&& ~~~mask })

/-- FIRMWARE_IMAGE_STAGING, through the physical function. -/
def execFirmwareImageStaging (die : Nat) (img : FwImage) (s : State) : Out :=
  s.hosted fun s => if die < 9 then s.modHost fun h => { h with staged := tblPut h.staged die img } else s

/-- Quays of failing slices. -/
def failingSlices (h : Platform) : List Nat := (h.failing.filter fun n => n / 0x10000 == 3).map fun n => n - 0x30000

/-- MODULE_RESET: failing slices are fused out, staged images run, and the rest is as after reset (log 38). -/
def execModuleReset (s : State) : Out :=
  let h := s.host
  .next { State.reset with
    inputs := s.inputs
    acts := s.acts
    fresh := s.fresh
    host := { Platform.reset with
      fused := h.fused ++ failingSlices h
      failing := h.failing.filter fun n => n / 0x10000 != 3
      running := h.staged.foldl (fun t i => tblPut t i.1 i.2) h.running
      minVer := h.minVer } }

/-! Arbiters (15 R339 to R342). -/

/-- What an arbiter lets pass goes on. -/
def State.passed (s : State) (cls inst : Nat) (q : ArbReq) : State :=
  if cls = 4 then s.rowGranted inst q.req
  else match s.req? q.req with
    | some r => s.reqNext r
    | none => match s.passes.find? fun p => p.id == q.req with
      | some p => s.passNext p
      | none => s

/-- ARBITRATION: the refill, then the grants; a Seaway port that is not trained accepts nothing, and its rows wait (17 R387). -/
def execArbitration (cls inst : Nat) (s : State) : Out :=
  let a := s.refill cls (s.arb cls inst)
  if cls = 4 && !(s.port inst).trained then .next (s.setArb cls inst a)
  else
  let r := s.arbitrate cls a.queue.length a
  .next (r.1.foldl (fun s q => s.passed cls inst q) (s.setArb cls inst r.2))

/-! What has no row of the opcode table (log 91). -/

/-- A supervisor writes an item of a virtual device that exists (01 R35). -/
def State.writeVd (s : State) (vd : Nat) (f : Vd → Vd) : State := if (tblGet? s.vds vd).isSome then s.modVd vd f else s

/-- An act from outside. -/
def State.act (s : State) (a : Act) : Out :=
  match a with
  | .saveArea vd base size => .next (if s.saveOk vd base size then s.writeVd vd fun v => { v with saveBase := base, saveSize := size } else s)
  | .basinQuota vd n => .next (s.writeVd vd fun v => { v with quota := n })
  | .wayQuota vd n => .next (s.writeVd vd fun v => { v with ways := n })
  | .root vd r => .next (s.writeVd vd fun v => { v with root := r })
  | .read r => s.hosted fun s => s.say (s.hostReg r)
  | .partners l => s.hosted fun s => s.modHost fun h => { h with partners := l }
  | .items part d => s.managed fun s => s.change (.items part d)
  | .keyMask vd m => s.managed fun s => s.change (.keys vd m)
  | .fuseVersion n => .next (s.modHost fun h => { h with minVer := max h.minVer n })

end Sys2Proof.Machine
end

