-- ==== Sys2Proof/Machine/EvMemory.lean ====
section
/-! DEFINITION. What happens to memory requests and translations of quay cells without an instruction (08 R191 to R197, R208,
R209, R215, R216; 12 R291; 16 R354, R355). -/

namespace Sys2Proof.Machine

/-! Translations made before a firing (08 R191 to R193, R201, R215). -/

/-- What a check waits for. -/
def Chk.waits : Chk → Option TransFor
  | .wait what => some what
  | _ => none

/-- The translation that a slot of a cell needs before it can fire; `s` holds no translation of the cell. -/
def State.need (s : State) (c : Nat) (ins : Instr) : Option TransFor :=
  let k := s.cell c
  let go (f : Fire) (more : Bool) (r : Chk) : Option TransFor := if k.ready f && more then r.waits else none
  match ins with
  | .xlat o => if k.ready (ofU o) then some (.xlat (xlatVa (k.src o.a).pay) (k.srcAt o.a)) else none
  | .blkmap o =>
    let a := (k.src o.a).pay
    if k.ready (ofB o) then some (.block (xlatVa a) (lane (k.src o.b).pay 0) (blkWr a)) else none
  | .qlds o =>
    if k.ab.pending ≠ 0 then none
    else go (ofUI o) (k.streamGo o false) (s.streamChk c (k.streamVa o false) (streamBase k o.b.val) false)
  | .qsts o =>
    if k.ab.pending ≠ 0 then none
    else go (ofUI o) (k.streamGo o true) (s.streamChk c (k.streamVa o true) (streamBase k o.b.val) true)
  | .qld o =>
    let a := (k.src o.a).pay
    go (ofB o) (k.room (hOrd (lane a 0))) (s.chk c (lane a 0) (qldSpan a (k.src o.b).pay))
  | .qst o =>
    let a := (k.src o.a).pay
    go (ofB o) (k.room (hOrd (lane a 0))) (s.chk c (lane a 0) (qstSpan a))
  | .qatm o =>
    let a := (k.src o.a).pay
    go (ofBF o) (k.room (hOrd (lane a 0))) (s.chk c (lane a 0) (qatmSpan o.y.val a))
  | .qcpy o =>
    let a := (k.src o.a).pay
    let b := (k.src o.b).pay
    let n := qcpyCount b
    let r := { s with curCell := c }.qcpyChk a b
    go (ofBF o) (k.room (hOrd (lane a 0)) && (s.quay (quayOf c)).copyBytes + n ≤ 65536)
      (match r.1 with
      | .ok _ _ => r.2
      | x => x)
  | _ => none

/-- The translations that the guarded slots of a cell need, in search order. -/
def State.needs (s : State) (c : Nat) : List TransFor :=
  let s1 := s.modCell c fun k => { k with trans := none }
  (s.cell c).guarded.filterMap fun x => s1.need c x.2

/-- The translation that may start: none runs, and no finished one is still of use. -/
def State.toStart (s : State) (c : Nat) : Option TransFor :=
  if !isQuayCell c || s.frozen c then none
  else
    match (s.cell c).trans with
    | some ⟨_, .running⟩ => none
    | some ⟨w, _⟩ =>
      let ns := s.needs c
      if ns.contains w then none else ns.head?
    | none => (s.needs c).head?

/-- The virtual address of an entry's granule. -/
def Fw.base (e : Fw) : DWord := e.va 0

/-- TRANSLATION_START: of an XLAT, a stream, or the D bit of an entry. -/
def execTranslationStart (c : Nat) (s : State) : Out :=
  match s.toStart c with
  | some (.xlat va w) => .next (s.transStart c (.xlat va w) va false)
  | some (.stream va wr) => .next (s.transStart c (.stream va wr) va wr)
  | some (.dirty i) => .next (s.transStart c (.dirty i) (s.cell c).fw[Fin.ofNat 16 i].base true)
  | _ => .next s

/-- FRAME_WINDOW_REFILL: from the page tables, or from the block map. -/
def execFrameWindowRefill (c i : Nat) (s : State) : Out :=
  let e := (s.cell c).fw[Fin.ofNat 16 i]
  let begun (t : State) : State := t.modCell c fun k => { k with trans := some ⟨.refill i, .running⟩ }
  .next (match e.src with
    | .page _ => s.transStart c (.refill i) e.base false
    | .block hdr blk wr =>
      let r := s.blkLookup c hdr blk wr
      (begun r.2).modCell c fun k => k.translated r.1
    | .none => (begun s).modCell c fun k => k.translated (.error (0x12, 0)))

/-- BLOCK_MAP_LOOKUP. -/
def execBlockMapLookup (c : Nat) (s : State) : Out :=
  match s.toStart c with
  | some (.block hdr blk wr) =>
    let r := s.blkLookup c hdr blk wr
    .next (r.2.modCell c fun k => { k with trans := some ⟨.block hdr blk wr, transEnd r.1⟩ })
  | _ => .next s

/-- WALK_READ_REPLY and ACCESSED_DIRTY_UPDATE. -/
def execWalkReadReply (q k : Nat) (s : State) : Out := .next (s.walkReply q k)
def execAccessedDirtyUpdate (q k : Nat) (s : State) : Out := .next (s.walkCas q k)

/-! Requests (08 R194 to R197, 12 R291). -/

/-- A request that its home still has to serve. -/
def Req.toServe (r : Req) : Bool := !r.served && !r.arrived && !r.held && r.group.isNone

/-- SLICE_SERVE. A request waits behind earlier ones of its cell to the same home (08 R194). -/
def execSliceServe (id : Nat) (s : State) : Out :=
  match s.req? id with
  | none => .next s
  | some r =>
    if !r.toServe then .next s
    else if s.behind r then .next (s.at 1 clsOther id (.sliceServe id))
    else .next (match r.kind.isChan with
      | some _ => s.serveChan r
      | none => s.serveMem r)

/-- BLOCK_MAP_OP_SERVE. -/
def execBlockMapOpServe (id : Nat) (s : State) : Out :=
  match s.req? id with
  | none => .next s
  | some r =>
    if !r.toServe then .next s
    else if s.behind r then .next (s.at 1 clsOther id (.blockMapOpServe id))
    else .next (match r.kind with
      | .blkop hdr blk rel => s.serveBlk r hdr blk rel
      | _ => s)

/-- REQUEST_COMPLETION. A poisoned sector stops the cell (16 R373). -/
def execRequestCompletion (id : Nat) (s : State) : Out :=
  match s.req? id with
  | none => .next s
  | some r =>
    if !r.served || r.held then .next s
    else if r.poison then .next (s.reqFails r 0x20 0 r.va 0 0)
    else .next (s.complete r)

/-- A buffered line whose last store is 256 clk old (08 R197). -/
def Coal.old (l : Coal) (clk : Nat) : Bool := l.last + Config.coalesceClk ≤ clk

/-- COALESCE_TIMEOUT. -/
def execCoalesceTimeout (c line : Nat) (s : State) : Out :=
  .next (if (s.cell c).coal.any fun l => l.line == line && l.old s.clk then s.coalSend c line else s)

/-! Ownership and flushes (08 R208, R209). -/

def Flush.isHand (f : Flush) : Bool :=
  match f.kind with
  | .hand _ _ _ => true
  | _ => false

/-- What ends when a flush is over: a HAND installs its descriptor. The result lands at the end of the clk, a HAND's once its
region runs (08 R219). -/
def State.flushEnd (s : State) (c : Nat) (f : Flush) : State :=
  let s1 := match f.kind with
    | .hand t r d => s.modCell t fun k => { k with owned := vset k.owned r d }
    | _ => s
  s1.modCell c fun k => { k with lands := k.lands ++ [⟨f.w, f.pay, f.isHand⟩] }

/-- The flushes of a cell that are over, of HANDs or of the others. -/
def State.flushOver (s : State) (c : Nat) (hand : Bool) : List Flush :=
  (s.cell c).flush.filter fun f => f.isHand == hand && s.flushReady c f
def State.flushGo (s : State) (c : Nat) (hand : Bool) : State :=
  let now := s.flushOver c hand
  now.foldl (fun s f => s.flushEnd c f) (s.modCell c fun k => { k with flush := k.flush.filter fun f => !now.contains f })

/-- HAND_INSTALL. -/
def execHandInstall (c : Nat) (s : State) : Out := .next (s.flushGo c true)
/-- FLUSH_RESULT. -/
def execFlushResult (c : Nat) (s : State) : Out := .next (s.flushGo c false)

end Sys2Proof.Machine
end

