-- ==== Sys2Proof/Machine/Evq.lean ====
section
/-! DEFINITION. The EVQ commands (09 R248 to R250). -/

namespace Sys2Proof.Machine

/-- POP and PEEK: the oldest record is copied to g(ga). -/
def State.evqTake (s : State) (o : OpR2) (pop : Bool) : Out :=
  let m := s.me
  s.opJudged .w (s.g o.a) 1 <|
    if m.evqhead = m.evqtail then s.status o.d empty
    else s.opWrite (s.g o.a) 1 fun fs s =>
      let a := recAddr m.evqbase m.evqhead
      if s.poisonedAt a 32 then .next (s.offline s.curPilot)
      else
        let r := s.qread (s.pilotQuay s.curPilot) s.myVd 0 0 a 32
        let v : Wide := ofBytes 256 r.1
        let s1 := fs.foldl (fun s f => s.putPiece f v) r.2
        let s2 := if pop then s1.modMe fun m => { m with evqhead := m.evqhead + 1 } else s1
        .next (s2.ret o.d (lo64 v))

def execEvqPop (o : OpR2) (s : State) : Out := s.cmd (.evqPop o) false fun s => s.evqTake o true
def execEvqPeek (o : OpR2) (s : State) : Out := s.cmd (.evqPeek o) false fun s => s.evqTake o false
def execEvqAck (o : OpR2) (s : State) : Out :=
  s.cmd (.evqAck o) false fun s =>
    let n := min (s.g o.a).toNat s.me.evqCount
    (s.modMe fun m => { m with evqhead := m.evqhead + BitVec.ofNat 32 n }).status o.d (n : Nat)

end Sys2Proof.Machine
end

