-- ==== Sys2Proof/Machine/Fab.lean ====
section
/-! DEFINITION. The FAB commands (09 R240 to R242). -/

namespace Sys2Proof.Machine

/-! Power (17 R384). -/

/-- Strips that a rectangle of a partition covers wake: a FAB command names its cells (17 R384). -/
def State.wakeRect (s : State) (part : Nat) (h : BitVec 512) (strip col : Nat) : State :=
  (List.range (hdrSpan h col)).foldl (fun s i => s.wake ((s.part part).first + strip + i)) s
/-- Strips of the partition that a rectangle wanted at an origin covers wake, whatever becomes of the command. -/
def State.wakeWanted (s : State) (part : Nat) (h : BitVec 512) (strip col : Nat) : State :=
  ((List.range (hdrSpan h col)).filter fun i => strip + i < (s.part part).count).foldl
    (fun s i => s.wake ((s.part part).first + strip + i)) s
def State.wakeRegion (s : State) (r : Nat) : State :=
  let g := s.region r
  if g.st = .free then s else s.wakeRect g.part g.hdr g.strip g.col

/-! RLOAD. -/

/-- The fields of a load descriptor out of range (09 R240). -/
def descBad (d : Wide) : Bool :=
  bf d 11 5 != 0 || bf d 18 6 != 0 || bf d 24 8 != 0 || 1536 < bf d 128 16 || bf d 144 112 != 0

/-- An entry of the ownership list: the cell of the rectangle, the descriptor's index and the descriptor; none when the
entry breaks R240 or names no quay cell of the rectangle. -/
def ownEntry (places : List Nat) (e : BitVec 128) : Option (Nat × Nat × BitVec 64) :=
  match places.findIdx? (· == bf e 0 16) with
  | some k =>
    if isQuayCell (bf e 0 16) && bf e 16 8 < 16 && bf e 24 40 == 0 && bit e 127 then some (k, bf e 16 8, e.extractLsb' 64 64)
    else none
  | none => none
def ownEntries (places : List Nat) : Nat → List Byte → List (Option (Nat × Nat × BitVec 64))
  | 0, _ => []
  | n + 1, bs => ownEntry places (ofBytes 128 (bs.take 16)) :: ownEntries places n (bs.drop 16)

/-- RLOAD once its operands are read, in the order of 09 R242; the strips that the header names wake also where there is no room (17
R384). -/
def State.rload (s : State) (d : Fin 32) (hdrVa : DWord) (desc : Wide) (h : BitVec 512) (list : List Byte) : Out :=
  let part := s.myPart
  let rid := bf desc 0 11
  let r := regionKey part rid
  let p := s.part part
  let own := ownEntries (placesOf h (hdrStrip h) (hdrRow h) (hdrCol h)) (bf desc 128 16) list
  if descBad desc then s.status d badArg
  else if (tblGet? s.vds (8 * part + rid / 256)).isNone then s.status d notOwn
  else if (s.region r).st ≠ .free then s.status d badState
  else
    match headerFail h (s.berthBytes part h) p.first with
    | some f => (s.loadFault part (p.first + hdrStrip h) (rid / 256) rid 0 hdrVa f).status d faulted
    | none =>
      let s := s.wakeWanted part h (hdrStrip h) (hdrCol h)
      if own.any (·.isNone) then s.status d badArg
      else if !s.fits part h (hdrStrip h) (hdrRow h) (hdrCol h) then s.status d full
      else
        let g : Region :=
          { Region.free with
            st := .loading, part := part, vd := rid / 256, rid := rid, hdr := h, hdrVa := hdrVa, prio := desc.extractLsb' 16 2,
            quantum := desc.extractLsb' 32 32, strip := hdrStrip h, row := hdrRow h, col := hdrCol h,
            own := own.filterMap id, ldr := s.curPilot }
        ((((s.setRegion r g).occupy r).at Config.workClk clsOther r (.loadingEnd r)).modMe fun m =>
          { m with async := r :: m.async }).status d rid

/-- RLOAD. With 0 ownership entries the address of their list is not judged (log 53). -/
def execFabRload (o : OpR3) (s : State) : Out :=
  s.cmd (.fabRload o) false fun s =>
    s.opRead (s.g o.b) 32 32 fun db s =>
      s.opRead (s.g o.a) 64 64 fun hb s =>
        let desc := ofBytes 256 db
        let n := bf desc 128 16
        if n = 0 then s.rload o.d (s.g o.a) desc (ofBytes 512 hb) []
        else s.opRead (desc.extractLsb' 64 64) 16 (16 * n) fun ob s => s.rload o.d (s.g o.a) desc (ofBytes 512 hb) ob

/-! The commands on a region id. -/

/-- The region that g(ga) names. -/
def State.regArg (s : State) (a : Fin 32) : Nat := regionKey s.myPart (bf (s.g a) 0 11)
/-- A region id of a virtual device that the partition does not have names no region of it: NOTOWN (09 R239). -/
def State.reg (s : State) (d a : Fin 32) (k : State → Nat → Out) : Out :=
  if (tblGet? s.vds (8 * s.myPart + bf (s.g a) 8 3)).isNone then s.status d notOwn else k (s.wakeRegion (s.regArg a)) (s.regArg a)

def execFabRstart (o : OpR2) (s : State) : Out :=
  s.cmd (.fabRstart o) false fun s =>
    s.reg o.d o.a fun s r =>
    let st := (s.region r).st
    if st = .loaded ∨ st = .stopped then
      let t := s.startRegion r
      t.2.status o.d t.1
    else s.status o.d badState

/-- What RSTOP gives when its halt is over and no answer of it has come: its region is killed (log 48), or drained. -/
def stopStatus (st : RState) : Int := match st with
  | .drained => 1
  | .stopped => 0
  | _ => badState

def execFabRstop (o : OpR2) (s : State) : Out :=
  s.cmd (.fabRstop o) false fun s =>
    match s.me.wait, s.me.ans with
    | .region _, some v => (s.modMe fun m => { m with ans := none }).endWait o.d v.toNat
    | .region r, none =>
      if (s.region r).st = .running ∧ (s.region r).halt.isSome then .next s
      else s.endWait o.d (stopStatus (s.region r).st)
    | _, _ =>
      s.reg o.d o.a fun s r =>
      if (s.region r).st = .running then
        .next ((s.haltRegion r (.rstop s.curPilot)).modMe fun m => { m with wait := .region r })
      else s.status o.d badState

/-- An asynchronous command on a region is under way: the state it enters and the event that ends it. -/
def State.asyncStart (s : State) (r : Nat) (f : Region → Region) (ev : Instr) : State :=
  ((s.modRegion r f).at Config.workClk clsOther r ev).modMe fun m => { m with async := r :: m.async }

/-- RSAVE, and RPLACE below, judge the state before the argument (log 53). -/
def execFabRsave (o : OpR3) (s : State) : Out :=
  s.cmd (.fabRsave o) false fun s =>
    s.reg o.d o.a fun s r =>
    let g := s.region r
    let off := (s.g o.b).toNat
    if g.st ≠ .stopped ∨ s.reachedBy r then s.status o.d badState
    else if off % 4096 ≠ 0 then s.status o.d badArg
    else if (s.vd (8 * g.part + g.vd)).saveSize.toNat < off + saveSize g.hdr + 65536 then s.status o.d quota
    else (s.asyncStart r (fun g => { g with st := .saving, saveOff := off }) (.saveComplete r)).status o.d 0

def execFabRrest (o : OpR3) (s : State) : Out :=
  s.cmd (.fabRrest o) false fun s =>
    s.reg o.d o.a fun s r =>
    let g := s.region r
    if g.st ≠ .saved then s.status o.d badState
    else if !s.fits g.part g.hdr g.strip g.row g.col then s.status o.d full
    else
      ((s.asyncStart r (fun g => { g with st := .restoring, saveOff := (s.g o.b).toNat, gated := true })
        (.restoreComplete r)).occupy r).status o.d 0

def execFabRkill (o : OpR2) (s : State) : Out :=
  s.cmd (.fabRkill o) false fun s =>
    s.reg o.d o.a fun s r =>
    let st := (s.region r).st
    if st = .free ∨ st = .killing ∨ s.reachedBy r then s.status o.d badState
    else
      let s1 := if st = .loading then s.modRegion r fun g => { g with kill := true } else s.killStart r
      (s1.modMe fun m => { m with async := r :: m.async }).status o.d 0

def execFabRplace (o : OpR3) (s : State) : Out :=
  s.cmd (.fabRplace o) false fun s =>
    s.reg o.d o.a fun s r =>
    let g := s.region r
    let v := (s.g o.b).toNat
    let strip := v % 64
    let row := v / 64 % 128
    let col := v / 8192 % 8
    let first := (s.part g.part).first
    let s := s.wakeWanted g.part g.hdr strip col
    if g.st ≠ .saved then s.status o.d badState
    else if 65536 ≤ v ∨ 95 < row ∨ 96 < row + hdrRows g.hdr ∨ !s.inPart g.part g.hdr strip col ∨
        (first + strip) / 12 ≠ (first + strip + hdrSpan g.hdr col - 1) / 12 then s.status o.d badArg
    else (s.modRegion r fun g => { g with strip := strip, row := row, col := col }).status o.d 0

/-- The word of RSTAT: a save size of 0 while FREE or LOADING, and no stopped cell while FREE or SAVED (DESIGN CHOICE, log 48). -/
def State.rstat (s : State) (r : Nat) : DWord :=
  let g := s.region r
  let n := if g.st = .free ∨ g.st = .saved then 0 else (s.regCells r).countP fun c => isQuayCell c && (s.cell c).stop.stopped
  let sz := match g.st with
    | .free | .loading => 0
    | _ => saveSize g.hdr / 4096
  BitVec.ofNat 64 (g.st.code + n % 65536 * 2 ^ 16 + sz * 2 ^ 32)

def execFabRstat (o : OpR2) (s : State) : Out :=
  s.cmd (.fabRstat o) false fun s => s.reg o.d o.a fun s r => .next (s.ret o.d (s.rstat r))

end Sys2Proof.Machine
end

