-- ==== Sys2Proof/Machine/Integer.lean ====
section
/-! DEFINITION. The typed integer groups 0x10 to 0x5F (05 R128, R129). -/

namespace Sys2Proof.Machine

/-- Element width of an integer type (03 R75). -/
def ITy.bits : ITy → Nat
  | .i8 => 8
  | .i16 => 16
  | .i32 => 32
  | .i64 => 64

/-- An element-wise firing that sets no flag. -/
def State.fireI2 (s : State) (e : ITy) (o : OpB) (f : (n : Nat) → BitVec n → BitVec n → BitVec n) : Out :=
  s.firePure (ofB o) fun _ a b => map2 (ITy.bits e) (f _) a b

/-- An element-wise firing that may saturate. -/
def State.fireI2F (s : State) (e : ITy) (o : OpB) (f : (n : Nat) → BitVec n → BitVec n → BitVec n × Flags) : Out :=
  s.fireOp (ofB o) fun _ a b => mapF2 (ITy.bits e) (f (ITy.bits e)) a b

/-- All ones for true, zero for false. -/
def mask (n : Nat) (b : Bool) : BitVec n := if b then BitVec.allOnes n else 0

def mulhI (n : Nat) (x y : BitVec n) : BitVec n := BitVec.ofInt n (x.toInt * y.toInt / (2 ^ n : Nat))
def mulhuI (n : Nat) (x y : BitVec n) : BitVec n := BitVec.ofNat n (x.toNat * y.toNat / 2 ^ n)
/-- Shifts by the whole element read unsigned (05 R129). -/
def shlI (n : Nat) (x y : BitVec n) : BitVec n := if y.toNat < n then x <<< y.toNat else 0
def shrI (n : Nat) (x y : BitVec n) : BitVec n := if y.toNat < n then x >>> y.toNat else 0
def shaI (n : Nat) (x y : BitVec n) : BitVec n :=
  if y.toNat < n then x.sshiftRight y.toNat else if x.toInt < 0 then BitVec.allOnes n else 0

def execAdd (e : ITy) (o : OpB) (s : State) : Out := s.fireI2 e o fun _ x y => x + y
def execSub (e : ITy) (o : OpB) (s : State) : Out := s.fireI2 e o fun _ x y => x - y
def execAdds (e : ITy) (o : OpB) (s : State) : Out := s.fireI2F e o fun n x y => sat n true (x.toInt + y.toInt)
def execSubs (e : ITy) (o : OpB) (s : State) : Out := s.fireI2F e o fun n x y => sat n true (x.toInt - y.toInt)
def execMul (e : ITy) (o : OpB) (s : State) : Out := s.fireI2 e o fun _ x y => x * y
def execMulh (e : ITy) (o : OpB) (s : State) : Out := s.fireI2 e o mulhI
def execMulhu (e : ITy) (o : OpB) (s : State) : Out := s.fireI2 e o mulhuI
def execMad (e : ITy) (o : OpBW) (s : State) : Out :=
  s.firePure (ofBW o) fun c a b => map3 (ITy.bits e) (fun x y w => w + x * y) a b c.w[o.x]
def execMin (e : ITy) (o : OpB) (s : State) : Out := s.fireI2 e o fun _ x y => if x.toInt ≤ y.toInt then x else y
def execMax (e : ITy) (o : OpB) (s : State) : Out := s.fireI2 e o fun _ x y => if x.toInt ≤ y.toInt then y else x
def execMinu (e : ITy) (o : OpB) (s : State) : Out := s.fireI2 e o fun _ x y => if x.toNat ≤ y.toNat then x else y
def execMaxu (e : ITy) (o : OpB) (s : State) : Out := s.fireI2 e o fun _ x y => if x.toNat ≤ y.toNat then y else x
def execAbs (e : ITy) (o : OpU) (s : State) : Out :=
  s.fireOp (ofU o) fun _ a _ => mapF1 (ITy.bits e) (fun x => sat (ITy.bits e) true (Int.natAbs x.toInt)) a
def execShl (e : ITy) (o : OpB) (s : State) : Out := s.fireI2 e o shlI
def execShr (e : ITy) (o : OpB) (s : State) : Out := s.fireI2 e o shrI
def execSha (e : ITy) (o : OpB) (s : State) : Out := s.fireI2 e o shaI
def execCmpeq (e : ITy) (o : OpB) (s : State) : Out := s.fireI2 e o fun n x y => mask n (x == y)
def execCmplt (e : ITy) (o : OpB) (s : State) : Out := s.fireI2 e o fun n x y => mask n (x.toInt < y.toInt)
def execCmpltu (e : ITy) (o : OpB) (s : State) : Out := s.fireI2 e o fun n x y => mask n (x.toNat < y.toNat)
def execCmple (e : ITy) (o : OpB) (s : State) : Out := s.fireI2 e o fun n x y => mask n (x.toInt ≤ y.toInt)

end Sys2Proof.Machine
end

