-- ==== Sys2Proof/Machine/Logic.lean ====
section
/-! DEFINITION. The untyped instructions 0x00 to 0x0E (05 R123 to R127). -/

namespace Sys2Proof.Machine

/-- NOP (05 R123): the slot fires and nothing changes. -/
def execNop (s : State) : Out := s.firePure ofZ fun _ _ _ => 0
/-- MOV (05 R123). -/
def execMov (o : OpU) (s : State) : Out := s.firePure (ofU o) fun _ a _ => a

/-- SEL (05 R124). -/
def selPick (y : Nat) (p : BitVec 8) (a b : Wide) : Wide :=
  if y < 8 then (if bit p y then a else b)
  else ofLanes ((List.range 8).map fun l => if bit p l then lane a l else lane b l)
def execSel (o : OpBF) (s : State) : Out := s.firePure (ofBF o) fun c a b => selPick o.y.val c.p a b

/-- LANE (05 R125). -/
def execLane (o : OpUF) (s : State) : Out := s.firePure (ofUF o) fun _ a _ => splat (lane a o.y.val)

/-- PERM (05 R125). -/
def permBytes (a b : Wide) : Wide :=
  map1 8 (fun idx => if bit idx 7 then 0 else elt 8 a (bf idx 0 5)) b
def execPerm (o : OpB) (s : State) : Out := s.firePure (ofB o) fun _ a b => permBytes a b

/-- AND, OR, XOR, ANDN (05 R123). -/
def execAnd (o : OpB) (s : State) : Out := s.firePure (ofB o) fun _ a b => a &&& b
def execOr (o : OpB) (s : State) : Out := s.firePure (ofB o) fun _ a b => a ||| b
def execXor (o : OpB) (s : State) : Out := s.firePure (ofB o) fun _ a b => a ^^^ b
def execAndn (o : OpB) (s : State) : Out := s.firePure (ofB o) fun _ a b => a &&& ~~~b

/-- The low `len` bits set. -/
def ones (len : Nat) : Word := BitVec.ofNat 32 (2 ^ len - 1)

/-- BFX (05 R126). -/
def bfxLane (pos len : Nat) (x : Word) : Word := (x >>> pos) &&& ones len
def execBfx (o : OpUIF) (s : State) : Out :=
  s.firePure (ofUIF o) fun _ a _ => map1 32 (bfxLane o.b.val (o.y.val + 1)) a

/-- BFI (05 R126). -/
def bfiLane (pos len : Nat) (w x : Word) : Word :=
  let m := ones len <<< pos
  (w &&& ~~~m) ||| ((x <<< pos) &&& m)
def execBfi (o : OpUIW) (s : State) : Out :=
  s.firePure (ofUIW o) fun c a _ => map2 32 (bfiLane o.b.val (o.y.val + 1)) c.w[o.x] a

/-- POPC, CLZ (05 R123). -/
def execPopc (o : OpU) (s : State) : Out :=
  s.firePure (ofU o) fun _ a _ => map1 32 (fun x => BitVec.ofNat 32 (popcount x)) a
def execClz (o : OpU) (s : State) : Out :=
  s.firePure (ofU o) fun _ a _ => map1 32 (fun x => BitVec.ofNat 32 (clzN x 32)) a

/-- Narrow of PACK from n to m bits (05 R127): mode 0 truncates, 1 saturates to signed, 2 to unsigned. -/
def narrow (n m mode : Nat) (x : BitVec n) : BitVec m × Flags :=
  if mode = 0 then (x.setWidth m, 0) else sat m (mode == 1) x.toInt

/-- PACK of elements of n bits to m bits. -/
def pack (n m mode : Nat) (a b : Wide) : Wide × Flags := gather ((elts n a ++ elts n b).map (narrow n m mode))
def execPack (o : OpBF) (s : State) : Out :=
  let mode := o.y.val / 4 % 4
  match o.y.val % 4 with
  | 1 => s.fireOp (ofBF o) fun _ a b => pack 16 8 mode a b
  | 2 => s.fireOp (ofBF o) fun _ a b => pack 32 16 mode a b
  | _ => s.fireOp (ofBF o) fun _ a b => pack 64 32 mode a b

/-- UNPK of elements of m bits to n bits. -/
def unpk (m n : Nat) (sgn half : Bool) (a : Wide) : Wide :=
  let k := 256 / n
  ofElts (((elts m a).drop (if half then k else 0)).take k |>.map fun x => if sgn then x.signExtend n else x.setWidth n)
def execUnpk (o : OpUF) (s : State) : Out :=
  let sgn := o.y.val / 4 % 2 == 1
  let half := o.y.val / 8 % 2 == 1
  match o.y.val % 4 with
  | 1 => s.firePure (ofUF o) fun _ a _ => unpk 8 16 sgn half a
  | 2 => s.firePure (ofUF o) fun _ a _ => unpk 16 32 sgn half a
  | _ => s.firePure (ofUF o) fun _ a _ => unpk 32 64 sgn half a

end Sys2Proof.Machine
end

