-- ==== Sys2Proof/Machine/MapCmd.lean ====
section
/-! DEFINITION. The MAP commands (09 R246). -/

namespace Sys2Proof.Machine

/-- The address at which a lookup faults: the header, the named entry, the owner's header or its entry. -/
def State.blkFaultVa (s : State) (q vd : Nat) (user : Bool) (hdr : DWord) (b : Nat) : DWord :=
  match (s.mapHdr q vd user hdr).1 with
  | .error _ => hdr
  | .ok _ =>
    match (s.mapEnt q vd user hdr b).1 with
    | .error _ => hdr + BitVec.ofNat 64 (64 + 16 * b)
    | .ok e =>
      let oh := BitVec.ofNat 64 (entAddr e.e)
      if entInd e.e then
        match (s.mapHdr q vd user oh).1 with
        | .error _ => oh
        | .ok _ => oh + BitVec.ofNat 64 (64 + 16 * entOblk e.e)
      else hdr

/-- What a failed lookup gives a command: BADARG beyond the map, STATE for a requirement, trap 0x0B for a fault. -/
def State.mapFail (s : State) (d : Fin 32) (hdr : DWord) (b : Nat) (f : Fail) : Out :=
  if f = (0x18, 1) then s.status d badArg
  else if f.1 = 0x18 then s.status d badState
  else if f.1 = 0x20 then .next (s.offline s.curPilot)
  else .next (s.trap 0xB (s.blkFaultVa (s.pilotQuay s.curPilot) s.myVd (!s.me.sup) hdr b))
/-- What a failed count change gives: the address of an entry that may not be written is the one that faults. -/
def State.changeFail (s : State) (d : Fin 32) (hdr : DWord) (b : Nat) (rel : Bool) (f : Fail) : Out :=
  match (s.blkFind (s.pilotQuay s.curPilot) s.myVd (!s.me.sup) hdr b).1 with
  | .ok k => match k.barred rel with
    | some m => .next (s.trap 0xB m.va)
    | none => s.mapFail d hdr b f
  | .error _ => s.mapFail d hdr b f

def execMapBlkref (o : OpR3) (s : State) : Out :=
  s.cmd (.mapBlkref o) true fun s =>
    let b := (s.g o.b).toNat
    match s.blkChange (s.pilotQuay s.curPilot) s.myVd (!s.me.sup) (s.g o.a) b false with
    | (.error f, s1) => s1.changeFail o.d (s.g o.a) b false f
    | (.ok (n, _), s1) => s1.status o.d (n : Nat)

/-- BLKREL: a push waits while the free-frame channel is full. -/
def execMapBlkrel (o : OpR3) (s : State) : Out :=
  s.cmd (.mapBlkrel o) true fun s =>
    match s.me.wait, s.me.ans with
    | .push, some v => (s.modMe fun m => { m with ans := none }).endWait o.d v.toNat
    | .push, none => .next s
    | _, _ =>
      let b := (s.g o.b).toNat
      match s.blkChange (s.pilotQuay s.curPilot) s.myVd (!s.me.sup) (s.g o.a) b true with
      | (.error f, s1) => s1.changeFail o.d (s.g o.a) b true f
      | (.ok (n, none), s1) => s1.status o.d (n : Nat)
      | (.ok (_, some (ch, t)), s1) =>
        .next ((s1.pushReq ch s1.curPilot (BitVec.ofNat 16 (s1.curPilot - (s1.part s1.myPart).first)) false 0 t).modMe fun m =>
          { m with wait := .push, ans := none })

/-- BLKSET: the named entry is replaced whole if its count is the one expected. A header or an entry that faults, or an entry that may
not be written, is judged before the fields of the record (09 R237). The record of BLKSET and of BLKGET is aligned to 32 bytes (log 53). -/
def execMapBlkset (o : OpR3) (s : State) : Out :=
  s.cmd (.mapBlkset o) false fun s =>
    s.opRead (s.g o.b) 32 32 fun bs s =>
      let r : Wide := ofBytes 256 bs
      let b := bf r 0 64
      let reserved := bf r 80 48 != 0
      match s.named (s.pilotQuay s.curPilot) s.myVd (!s.me.sup) (s.g o.a) b with
      | (.error f, s1) => if f.1 = 0x18 then s1.status o.d badArg else s1.mapFail o.d (s.g o.a) b f
      | (.ok (_, e), s1) =>
        if !e.page.w then .next (s1.trap 0xB e.va)
        else if reserved then s1.status o.d badArg
        else
          (if entCount e.e = bf r 64 16 then s1.entPut (s1.pilotQuay s1.curPilot) s1.myVd (!s1.me.sup) e (r.extractLsb' 128 128) else s1).status
            o.d (entCount e.e : Nat)

/-- BLKGET: the entry goes to bytes 16 to 31 of the record. -/
def execMapBlkget (o : OpR3) (s : State) : Out :=
  s.cmd (.mapBlkget o) true fun s =>
    s.opRead (s.g o.b) 32 32 fun bs s =>
      s.opWrite (s.g o.b) 1 fun fs s =>
        let r : Wide := ofBytes 256 bs
        let b := bf r 0 64
        match s.named (s.pilotQuay s.curPilot) s.myVd (!s.me.sup) (s.g o.a) b with
        | (.error f, s1) => s1.mapFail o.d (s.g o.a) b f
        | (.ok (_, e), s1) =>
          (fs.foldl (fun s f => s.putPiece f (e.e ++ r.extractLsb' 0 128)) s1).status o.d (entCount e.e : Nat)

end Sys2Proof.Machine
end

