-- ==== Sys2Proof/Machine/PilotInt.lean ====
section
/-! DEFINITION. Pilot integer instructions, branches and jumps (09 R228 to R230). -/

namespace Sys2Proof.Machine

/-- A three-register function. -/
def State.alu (s : State) (o : OpR3) (f : DWord → DWord → DWord) : Out := .next (s.ret o.d (f (s.g o.a) (s.g o.b)))
def State.alu1 (s : State) (o : OpR2) (f : DWord → DWord) : Out := .next (s.ret o.d (f (s.g o.a)))

/-- Shift amount: y<5:0>. -/
def shAmt (y : DWord) : Nat := bf y 0 6
def sll64 (x y : DWord) : DWord := x <<< shAmt y
def srl64 (x y : DWord) : DWord := x >>> shAmt y
def sra64 (x y : DWord) : DWord := x.sshiftRight (shAmt y)
def flag64 (b : Bool) : DWord := if b then 1 else 0
def slt64 (x y : DWord) : DWord := flag64 (decide (x.toInt < y.toInt))
def sltu64 (x y : DWord) : DWord := flag64 (decide (x.toNat < y.toNat))
def mulh64 (x y : DWord) : DWord := BitVec.ofInt 64 (Int.fdiv (x.toInt * y.toInt) (2 ^ 64))
def mulhu64 (x y : DWord) : DWord := BitVec.ofNat 64 (x.toNat * y.toNat / 2 ^ 64)
/-- Quotients and remainders, truncated toward zero (09 R228). -/
def div64 (x y : DWord) : DWord := if y = 0 then BitVec.allOnes 64 else BitVec.ofInt 64 (Int.tdiv x.toInt y.toInt)
def divu64 (x y : DWord) : DWord := if y = 0 then BitVec.allOnes 64 else BitVec.ofNat 64 (x.toNat / y.toNat)
def rem64 (x y : DWord) : DWord := if y = 0 then x else BitVec.ofInt 64 (Int.tmod x.toInt y.toInt)
def remu64 (x y : DWord) : DWord := if y = 0 then x else BitVec.ofNat 64 (x.toNat % y.toNat)

def execAluAdd (o : OpR3) (s : State) : Out := s.alu o (· + ·)
def execAluSub (o : OpR3) (s : State) : Out := s.alu o (· - ·)
def execAluAnd (o : OpR3) (s : State) : Out := s.alu o (· &&& ·)
def execAluOr (o : OpR3) (s : State) : Out := s.alu o (· ||| ·)
def execAluXor (o : OpR3) (s : State) : Out := s.alu o (· ^^^ ·)
def execAluAndn (o : OpR3) (s : State) : Out := s.alu o fun x y => x &&& ~~~y
def execAluSll (o : OpR3) (s : State) : Out := s.alu o sll64
def execAluSrl (o : OpR3) (s : State) : Out := s.alu o srl64
def execAluSra (o : OpR3) (s : State) : Out := s.alu o sra64
def execAluSlt (o : OpR3) (s : State) : Out := s.alu o slt64
def execAluSltu (o : OpR3) (s : State) : Out := s.alu o sltu64
def execAluMin (o : OpR3) (s : State) : Out := s.alu o fun x y => if x.toInt ≤ y.toInt then x else y
def execAluMax (o : OpR3) (s : State) : Out := s.alu o fun x y => if x.toInt ≤ y.toInt then y else x
def execAluMinu (o : OpR3) (s : State) : Out := s.alu o fun x y => if x.toNat ≤ y.toNat then x else y
def execAluMaxu (o : OpR3) (s : State) : Out := s.alu o fun x y => if x.toNat ≤ y.toNat then y else x
def execAluMul (o : OpR3) (s : State) : Out := s.alu o (· * ·)
def execAluMulh (o : OpR3) (s : State) : Out := s.alu o mulh64
def execAluMulhu (o : OpR3) (s : State) : Out := s.alu o mulhu64
def execAluDiv (o : OpR3) (s : State) : Out := s.alu o div64
def execAluDivu (o : OpR3) (s : State) : Out := s.alu o divu64
def execAluRem (o : OpR3) (s : State) : Out := s.alu o rem64
def execAluRemu (o : OpR3) (s : State) : Out := s.alu o remu64
def execAluClz (o : OpR2) (s : State) : Out := s.alu1 o fun x => BitVec.ofNat 64 (clzN x 64)
def execAluCtz (o : OpR2) (s : State) : Out := s.alu1 o fun x => BitVec.ofNat 64 (ctzN x 0 64)
def execAluPopc (o : OpR2) (s : State) : Out := s.alu1 o fun x => BitVec.ofNat 64 (popcount x)

/-- An immediate instruction: the immediate sign-extended or zero-extended (03 R80). -/
def State.immS (s : State) (o : OpI14) (f : DWord → DWord → DWord) : Out :=
  .next (s.ret o.d (f (s.g o.a) (o.i.signExtend 64)))
def State.immZ (s : State) (o : OpI14) (f : DWord → DWord → DWord) : Out :=
  .next (s.ret o.d (f (s.g o.a) (o.i.setWidth 64)))

def execAddi (o : OpI14) (s : State) : Out := s.immS o (· + ·)
def execAndi (o : OpI14) (s : State) : Out := s.immZ o (· &&& ·)
def execOri (o : OpI14) (s : State) : Out := s.immZ o (· ||| ·)
def execXori (o : OpI14) (s : State) : Out := s.immZ o (· ^^^ ·)
def execSlti (o : OpI14) (s : State) : Out := s.immS o slt64
def execSltiu (o : OpI14) (s : State) : Out := s.immZ o sltu64
def execShi (o : OpShi) (s : State) : Out :=
  let x := s.g o.a
  .next (s.ret o.d (match o.k with
    | .sll => x <<< o.n.val
    | .srl => x >>> o.n.val
    | .sra => x.sshiftRight o.n.val))

/-- imm19 × 2^14 (03 R80). -/
def upper (i : BitVec 19) : DWord := i.signExtend 64 <<< 14
def execLui (o : OpI19) (s : State) : Out := .next (s.ret o.d (upper o.i))
def execAdpc (o : OpI19) (s : State) : Out := .next (s.ret o.d ((s.me.pc &&& ~~~0x3FFF#64) + upper o.i))

/-- A branch (09 R230): the target of 03 R80, or the next instruction. -/
def State.branch (s : State) (o : OpBr) (p : DWord → DWord → Bool) : Out :=
  .next (s.modMe fun m => { m with pc := m.pc + (if p (s.g o.a) (s.g o.b) then o.o.signExtend 64 * 4 else 4) })
def execBeq (o : OpBr) (s : State) : Out := s.branch o fun x y => x == y
def execBne (o : OpBr) (s : State) : Out := s.branch o fun x y => x != y
def execBlt (o : OpBr) (s : State) : Out := s.branch o fun x y => x.toInt < y.toInt
def execBge (o : OpBr) (s : State) : Out := s.branch o fun x y => y.toInt ≤ x.toInt
def execBltu (o : OpBr) (s : State) : Out := s.branch o fun x y => x.toNat < y.toNat
def execBgeu (o : OpBr) (s : State) : Out := s.branch o fun x y => y.toNat ≤ x.toNat

/-- JAL and JALR (09 R230). -/
def execJal (o : OpI19) (s : State) : Out :=
  .next (s.modMe fun m => { m.setReg o.d (m.pc + 4) with pc := m.pc + o.i.signExtend 64 * 4 })
def execJalr (o : OpI14) (s : State) : Out :=
  let t := s.g o.a + o.i.signExtend 64
  if bf t 0 2 ≠ 0 then .next (s.trap 3 t)
  else .next (s.modMe fun m => { m.setReg o.d (m.pc + 4) with pc := t })

end Sys2Proof.Machine
end

