-- ==== Sys2Proof/Machine/Predicate.lean ====
section
/-! DEFINITION. Predicates (05 R138 to R140). -/

namespace Sys2Proof.Machine

/-- PSET (05 R138). -/
def psetPreds (y : Nat) (p : Byte) (a : Wide) : Byte :=
  match y / 8 with
  | 0 => setBit p (y % 8) (lane a 0 != 0)
  | 1 => setBit p (y % 8) (lane a 0 == 0)
  | _ => (List.range 8).foldl (fun q l => setBit q l (lane a l != 0)) p
def execPset (o : OpKF) (s : State) : Out :=
  s.fireTag (ofKF o) true 0 .zero fun c => { c with p := psetPreds o.y.val c.p (c.src o.a).pay }

/-- PLOG (05 R139). -/
def plogOp (op : Nat) (x y : Bool) : Bool :=
  match op with
  | 0 => x && y
  | 1 => x || y
  | 2 => x != y
  | _ => x && !y
def plogPreds (a b d : Nat) (p : Byte) : Byte :=
  setBit p (d % 8) (plogOp (a / 8) (bit p (a % 8)) (bit p (b % 8)) != (b / 8 % 2 == 1))
def execPlog (o : OpPF) (s : State) : Out :=
  s.fireTag ofZ true 0 .zero fun c => { c with p := plogPreds o.a.val o.b.val o.y.val c.p }

/-- PTST (05 R140). -/
def ptstVal (b : Nat) (p : Byte) : Wide := if b < 8 then inLane0 (if bit p b then 1 else 0) else p.setWidth 256
def execPtst (o : OpI) (s : State) : Out := s.firePure (ofI o) fun c _ _ => ptstVal o.b.val c.p

end Sys2Proof.Machine
end

