-- ==== Sys2Proof/Machine/Qos.lean ====
section
/-! DEFINITION. The QOS commands (09 R247, 15 R344). -/

namespace Sys2Proof.Machine

/-- The selector's virtual device and class; or the status it gives. -/
def State.qosArg (s : State) (a : Fin 32) : Except Int (Nat × Fin 5) :=
  let v := bf (s.g a) 0 3
  let c := bf (s.g a) 4 3
  if 5 ≤ c then .error badArg
  else if (tblGet? s.vds (8 * s.myPart + v)).isNone ∨ (!s.me.sup ∧ v ≠ bf s.me.vdid 0 3) then .error notOwn
  else .ok (8 * s.myPart + v, Fin.ofNat 5 c)

def State.qos (s : State) (d a : Fin 32) (k : Nat → Fin 5 → Out) : Out :=
  match s.qosArg a with
  | .error e => s.status d e
  | .ok (v, c) => k v c

/-- Sum of the rates of a partition's other virtual devices at a class. -/
def State.ratesOf (s : State) (part vd : Nat) (c : Fin 5) : Nat :=
  (s.vds.filter fun x => x.1 / 8 == part && x.1 != vd).foldl (fun n x => n + x.2.sl[c].rate) 0

def execQosSlset (o : OpR3) (s : State) : Out :=
  s.cmd (.qosSlset o) false fun s =>
    s.qos o.d o.a fun v c =>
      let rate := bf (s.g o.b) 0 32
      let depth := bf (s.g o.b) 32 32
      let x := Config.classX c.val
      if depth < x ∨ 2 ^ 24 * x < depth ∨ Config.classCap c.val < rate then s.status o.d badArg
      else if (s.part s.myPart).allot.getD c.val 0 < s.ratesOf s.myPart v c + rate then s.status o.d quota
      else (s.modVd v fun d => { d with sl := vset d.sl c { d.sl[c] with rate := rate, depth := depth } }).status o.d 0

def execQosSlget (o : OpR2) (s : State) : Out :=
  s.cmd (.qosSlget o) true fun s =>
    s.qos o.d o.a fun v c =>
      .next (s.ret o.d (BitVec.ofNat 64 ((s.vd v).sl[c].depth * 2 ^ 32 + (s.vd v).sl[c].rate)))

/-- The lend and borrow bits as LEND gives them. -/
def Sluice.bits (x : Sluice) : Int := (if x.lend then 1 else 0) + if x.borrow then 2 else 0
def execQosLend (o : OpR3) (s : State) : Out :=
  s.cmd (.qosLend o) false fun s =>
    s.qos o.d o.a fun v c =>
      let x := (s.vd v).sl[c]
      (s.modVd v fun d => { d with sl := vset d.sl c { x with lend := bit (s.g o.b) 0, borrow := bit (s.g o.b) 1 } }).status o.d x.bits

end Sys2Proof.Machine
end

