-- ==== Sys2Proof/Machine/Dispatch.lean ====
section
/-! DEFINITION. One arm for each constructor of Instr: one direct call of its meaning. -/

namespace Sys2Proof.Machine

open Sys2Proof

/-- What an instruction or an event does. -/
def exec (i : Instr) (s : State) : Host.Outcome State Fault Refusal :=
  match i with
  | .nop => Sys2Proof.Machine.execNop s
  | .mov o => Sys2Proof.Machine.execMov o s
  | .sel o => Sys2Proof.Machine.execSel o s
  | .lane o => Sys2Proof.Machine.execLane o s
  | .perm o => Sys2Proof.Machine.execPerm o s
  | .and o => Sys2Proof.Machine.execAnd o s
  | .or o => Sys2Proof.Machine.execOr o s
  | .xor o => Sys2Proof.Machine.execXor o s
  | .andn o => Sys2Proof.Machine.execAndn o s
  | .bfx o => Sys2Proof.Machine.execBfx o s
  | .bfi o => Sys2Proof.Machine.execBfi o s
  | .popc o => Sys2Proof.Machine.execPopc o s
  | .clz o => Sys2Proof.Machine.execClz o s
  | .pack o => Sys2Proof.Machine.execPack o s
  | .unpk o => Sys2Proof.Machine.execUnpk o s
  | .add e o => Sys2Proof.Machine.execAdd e o s
  | .sub e o => Sys2Proof.Machine.execSub e o s
  | .adds e o => Sys2Proof.Machine.execAdds e o s
  | .subs e o => Sys2Proof.Machine.execSubs e o s
  | .mul e o => Sys2Proof.Machine.execMul e o s
  | .mulh e o => Sys2Proof.Machine.execMulh e o s
  | .mulhu e o => Sys2Proof.Machine.execMulhu e o s
  | .mad e o => Sys2Proof.Machine.execMad e o s
  | .min e o => Sys2Proof.Machine.execMin e o s
  | .max e o => Sys2Proof.Machine.execMax e o s
  | .minu e o => Sys2Proof.Machine.execMinu e o s
  | .maxu e o => Sys2Proof.Machine.execMaxu e o s
  | .abs e o => Sys2Proof.Machine.execAbs e o s
  | .shl e o => Sys2Proof.Machine.execShl e o s
  | .shr e o => Sys2Proof.Machine.execShr e o s
  | .sha e o => Sys2Proof.Machine.execSha e o s
  | .cmpeq e o => Sys2Proof.Machine.execCmpeq e o s
  | .cmplt e o => Sys2Proof.Machine.execCmplt e o s
  | .cmpltu e o => Sys2Proof.Machine.execCmpltu e o s
  | .cmple e o => Sys2Proof.Machine.execCmple e o s
  | .fadd e o => Sys2Proof.Machine.execFadd e o s
  | .fsub e o => Sys2Proof.Machine.execFsub e o s
  | .fmul e o => Sys2Proof.Machine.execFmul e o s
  | .ffma e o => Sys2Proof.Machine.execFfma e o s
  | .fmin e o => Sys2Proof.Machine.execFmin e o s
  | .fmax e o => Sys2Proof.Machine.execFmax e o s
  | .fcmpeq e o => Sys2Proof.Machine.execFcmpeq e o s
  | .fcmplt e o => Sys2Proof.Machine.execFcmplt e o s
  | .fcmple e o => Sys2Proof.Machine.execFcmple e o s
  | .frcp e o => Sys2Proof.Machine.execFrcp e o s
  | .frsq e o => Sys2Proof.Machine.execFrsq e o s
  | .fexp2 e o => Sys2Proof.Machine.execFexp2 e o s
  | .flog2 o => Sys2Proof.Machine.execFlog2 o s
  | .fcvt o => Sys2Proof.Machine.execFcvt o s
  | .icvt o => Sys2Proof.Machine.execIcvt o s
  | .fsumr o => Sys2Proof.Machine.execFsumr o s
  | .fmaxr o => Sys2Proof.Machine.execFmaxr o s
  | .isumr o => Sys2Proof.Machine.execIsumr o s
  | .imaxr o => Sys2Proof.Machine.execImaxr o s
  | .fscl o => Sys2Proof.Machine.execFscl o s
  | .pset o => Sys2Proof.Machine.execPset o s
  | .plog o => Sys2Proof.Machine.execPlog o s
  | .ptst o => Sys2Proof.Machine.execPtst o s
  | .berth o => Sys2Proof.Machine.execBerth o s
  | .cast o => Sys2Proof.Machine.execCast o s
  | .put o => Sys2Proof.Machine.execPut o s
  | .get o => Sys2Proof.Machine.execGet o s
  | .getf o => Sys2Proof.Machine.execGetf o s
  | .tag o => Sys2Proof.Machine.execTag o s
  | .mark o => Sys2Proof.Machine.execMark o s
  | .seq o => Sys2Proof.Machine.execSeq o s
  | .ord o => Sys2Proof.Machine.execOrd o s
  | .steer o => Sys2Proof.Machine.execSteer o s
  | .merge o => Sys2Proof.Machine.execMerge o s
  | .switch o => Sys2Proof.Machine.execSwitch o s
  | .dly o => Sys2Proof.Machine.execDly o s
  | .race o => Sys2Proof.Machine.execRace o s
  | .bstat o => Sys2Proof.Machine.execBstat o s
  | .evt o => Sys2Proof.Machine.execEvt o s
  | .bcarr o => Sys2Proof.Machine.execBcarr o s
  | .bcwt o => Sys2Proof.Machine.execBcwt o s
  | .bcput o => Sys2Proof.Machine.execBcput o s
  | .bcget o => Sys2Proof.Machine.execBcget o s
  | .bcred o => Sys2Proof.Machine.execBcred o s
  | .gen o => Sys2Proof.Machine.execGen o s
  | .wid o => Sys2Proof.Machine.execWid o s
  | .trap o => Sys2Proof.Machine.execTrap o s
  | .mxhdr o => Sys2Proof.Machine.execMxhdr o s
  | .mxld o => Sys2Proof.Machine.execMxld o s
  | .mxrow o => Sys2Proof.Machine.execMxrow o s
  | .mxdrn o => Sys2Proof.Machine.execMxdrn o s
  | .mxclr => Sys2Proof.Machine.execMxclr s
  | .mxcfg o => Sys2Proof.Machine.execMxcfg o s
  | .qld o => Sys2Proof.Machine.execQld o s
  | .qst o => Sys2Proof.Machine.execQst o s
  | .qlds o => Sys2Proof.Machine.execQlds o s
  | .qsts o => Sys2Proof.Machine.execQsts o s
  | .qldf o => Sys2Proof.Machine.execQldf o s
  | .qstf o => Sys2Proof.Machine.execQstf o s
  | .qatm o => Sys2Proof.Machine.execQatm o s
  | .qcpy o => Sys2Proof.Machine.execQcpy o s
  | .xlat o => Sys2Proof.Machine.execXlat o s
  | .hand o => Sys2Proof.Machine.execHand o s
  | .qfls o => Sys2Proof.Machine.execQfls o s
  | .qpf o => Sys2Proof.Machine.execQpf o s
  | .chw o => Sys2Proof.Machine.execChw o s
  | .chr o => Sys2Proof.Machine.execChr o s
  | .chcl o => Sys2Proof.Machine.execChcl o s
  | .chst o => Sys2Proof.Machine.execChst o s
  | .blkmap o => Sys2Proof.Machine.execBlkmap o s
  | .blkref o => Sys2Proof.Machine.execBlkref o s
  | .blkrel o => Sys2Proof.Machine.execBlkrel o s
  | .qcmpl o => Sys2Proof.Machine.execQcmpl o s
  | .aluAdd o => Sys2Proof.Machine.execAluAdd o s
  | .aluSub o => Sys2Proof.Machine.execAluSub o s
  | .aluAnd o => Sys2Proof.Machine.execAluAnd o s
  | .aluOr o => Sys2Proof.Machine.execAluOr o s
  | .aluXor o => Sys2Proof.Machine.execAluXor o s
  | .aluAndn o => Sys2Proof.Machine.execAluAndn o s
  | .aluSll o => Sys2Proof.Machine.execAluSll o s
  | .aluSrl o => Sys2Proof.Machine.execAluSrl o s
  | .aluSra o => Sys2Proof.Machine.execAluSra o s
  | .aluSlt o => Sys2Proof.Machine.execAluSlt o s
  | .aluSltu o => Sys2Proof.Machine.execAluSltu o s
  | .aluMin o => Sys2Proof.Machine.execAluMin o s
  | .aluMax o => Sys2Proof.Machine.execAluMax o s
  | .aluMinu o => Sys2Proof.Machine.execAluMinu o s
  | .aluMaxu o => Sys2Proof.Machine.execAluMaxu o s
  | .aluMul o => Sys2Proof.Machine.execAluMul o s
  | .aluMulh o => Sys2Proof.Machine.execAluMulh o s
  | .aluMulhu o => Sys2Proof.Machine.execAluMulhu o s
  | .aluDiv o => Sys2Proof.Machine.execAluDiv o s
  | .aluDivu o => Sys2Proof.Machine.execAluDivu o s
  | .aluRem o => Sys2Proof.Machine.execAluRem o s
  | .aluRemu o => Sys2Proof.Machine.execAluRemu o s
  | .aluClz o => Sys2Proof.Machine.execAluClz o s
  | .aluCtz o => Sys2Proof.Machine.execAluCtz o s
  | .aluPopc o => Sys2Proof.Machine.execAluPopc o s
  | .addi o => Sys2Proof.Machine.execAddi o s
  | .andi o => Sys2Proof.Machine.execAndi o s
  | .ori o => Sys2Proof.Machine.execOri o s
  | .xori o => Sys2Proof.Machine.execXori o s
  | .shi o => Sys2Proof.Machine.execShi o s
  | .slti o => Sys2Proof.Machine.execSlti o s
  | .sltiu o => Sys2Proof.Machine.execSltiu o s
  | .lui o => Sys2Proof.Machine.execLui o s
  | .adpc o => Sys2Proof.Machine.execAdpc o s
  | .ld o => Sys2Proof.Machine.execLd o s
  | .st o => Sys2Proof.Machine.execSt o s
  | .ldx o => Sys2Proof.Machine.execLdx o s
  | .amo o => Sys2Proof.Machine.execAmo o s
  | .beq o => Sys2Proof.Machine.execBeq o s
  | .bne o => Sys2Proof.Machine.execBne o s
  | .blt o => Sys2Proof.Machine.execBlt o s
  | .bge o => Sys2Proof.Machine.execBge o s
  | .bltu o => Sys2Proof.Machine.execBltu o s
  | .bgeu o => Sys2Proof.Machine.execBgeu o s
  | .jal o => Sys2Proof.Machine.execJal o s
  | .jalr o => Sys2Proof.Machine.execJalr o s
  | .fenceAcq => Sys2Proof.Machine.execFenceAcq s
  | .fenceRel => Sys2Proof.Machine.execFenceRel s
  | .fenceFull => Sys2Proof.Machine.execFenceFull s
  | .fenceIo => Sys2Proof.Machine.execFenceIo s
  | .sysTrap o => Sys2Proof.Machine.execSysTrap o s
  | .sysEret => Sys2Proof.Machine.execSysEret s
  | .sysWfe => Sys2Proof.Machine.execSysWfe s
  | .sysIdle => Sys2Proof.Machine.execSysIdle s
  | .sysTlbinv o => Sys2Proof.Machine.execSysTlbinv o s
  | .sysHalt => Sys2Proof.Machine.execSysHalt s
  | .csrRd o => Sys2Proof.Machine.execCsrRd o s
  | .csrWr o => Sys2Proof.Machine.execCsrWr o s
  | .csrSet o => Sys2Proof.Machine.execCsrSet o s
  | .csrClr o => Sys2Proof.Machine.execCsrClr o s
  | .fabRload o => Sys2Proof.Machine.execFabRload o s
  | .fabRstart o => Sys2Proof.Machine.execFabRstart o s
  | .fabRstop o => Sys2Proof.Machine.execFabRstop o s
  | .fabRsave o => Sys2Proof.Machine.execFabRsave o s
  | .fabRrest o => Sys2Proof.Machine.execFabRrest o s
  | .fabRkill o => Sys2Proof.Machine.execFabRkill o s
  | .fabRplace o => Sys2Proof.Machine.execFabRplace o s
  | .fabRstat o => Sys2Proof.Machine.execFabRstat o s
  | .chnChopen o => Sys2Proof.Machine.execChnChopen o s
  | .chnChclose o => Sys2Proof.Machine.execChnChclose o s
  | .chnChcloseFree o => Sys2Proof.Machine.execChnChcloseFree o s
  | .chnChput o => Sys2Proof.Machine.execChnChput o s
  | .chnChtake o => Sys2Proof.Machine.execChnChtake o s
  | .chnChstat o => Sys2Proof.Machine.execChnChstat o s
  | .bcnArrive o => Sys2Proof.Machine.execBcnArrive o s
  | .bcnWait o => Sys2Proof.Machine.execBcnWait o s
  | .bcnCast o => Sys2Proof.Machine.execBcnCast o s
  | .bcnCastConfigure o => Sys2Proof.Machine.execBcnCastConfigure o s
  | .bcnRead o => Sys2Proof.Machine.execBcnRead o s
  | .bcnReduceAnd o => Sys2Proof.Machine.execBcnReduceAnd o s
  | .bcnReduceOr o => Sys2Proof.Machine.execBcnReduceOr o s
  | .bcnReduceMax o => Sys2Proof.Machine.execBcnReduceMax o s
  | .bcnPreempt o => Sys2Proof.Machine.execBcnPreempt o s
  | .mapBlkref o => Sys2Proof.Machine.execMapBlkref o s
  | .mapBlkrel o => Sys2Proof.Machine.execMapBlkrel o s
  | .mapBlkset o => Sys2Proof.Machine.execMapBlkset o s
  | .mapBlkget o => Sys2Proof.Machine.execMapBlkget o s
  | .qosSlset o => Sys2Proof.Machine.execQosSlset o s
  | .qosSlget o => Sys2Proof.Machine.execQosSlget o s
  | .qosLend o => Sys2Proof.Machine.execQosLend o s
  | .evqPop o => Sys2Proof.Machine.execEvqPop o s
  | .evqPeek o => Sys2Proof.Machine.execEvqPeek o s
  | .evqAck o => Sys2Proof.Machine.execEvqAck o s
  | .illegalInstruction p w => Sys2Proof.Machine.execIllegalInstruction p w s
  | .eventInterrupt p => Sys2Proof.Machine.execEventInterrupt p s
  | .wfeTimeout p => Sys2Proof.Machine.execWfeTimeout p s
  | .pilotAccessComplete p => Sys2Proof.Machine.execPilotAccessComplete p s
  | .tokenArrival c ctx port slot t => Sys2Proof.Machine.execTokenArrival c ctx port slot t s
  | .markerJoin c => Sys2Proof.Machine.execMarkerJoin c s
  | .hardwareMarkerForward c => Sys2Proof.Machine.execHardwareMarkerForward c s
  | .countTrigger c => Sys2Proof.Machine.execCountTrigger c s
  | .switchCompletion c => Sys2Proof.Machine.execSwitchCompletion c s
  | .berthRequestArrival st r => Sys2Proof.Machine.execBerthRequestArrival st r s
  | .roadsteadEntry st => Sys2Proof.Machine.execRoadsteadEntry st s
  | .allocatorGrant c ctx port => Sys2Proof.Machine.execAllocatorGrant c ctx port s
  | .grantArrival g => Sys2Proof.Machine.execGrantArrival g s
  | .dlyDeferredWrite c => Sys2Proof.Machine.execDlyDeferredWrite c s
  | .drainTokenWrite c => Sys2Proof.Machine.execDrainTokenWrite c s
  | .regionCompletionEvent r => Sys2Proof.Machine.execRegionCompletionEvent r s
  | .beaconArrivalAtRoot m => Sys2Proof.Machine.execBeaconArrivalAtRoot m s
  | .releaseAtStrip strip r => Sys2Proof.Machine.execReleaseAtStrip strip r s
  | .broadcastAtStrip ch strip v => Sys2Proof.Machine.execBroadcastAtStrip ch strip v s
  | .eventRecordPost part => Sys2Proof.Machine.execEventRecordPost part s
  | .translationStart c => Sys2Proof.Machine.execTranslationStart c s
  | .walkReadReply q k => Sys2Proof.Machine.execWalkReadReply q k s
  | .accessedDirtyUpdate q k => Sys2Proof.Machine.execAccessedDirtyUpdate q k s
  | .frameWindowRefill c n => Sys2Proof.Machine.execFrameWindowRefill c n s
  | .blockMapLookup c => Sys2Proof.Machine.execBlockMapLookup c s
  | .sliceServe id => Sys2Proof.Machine.execSliceServe id s
  | .requestCompletion id => Sys2Proof.Machine.execRequestCompletion id s
  | .coalesceTimeout c line => Sys2Proof.Machine.execCoalesceTimeout c line s
  | .handInstall c => Sys2Proof.Machine.execHandInstall c s
  | .flushResult c => Sys2Proof.Machine.execFlushResult c s
  | .channelAllocation ch => Sys2Proof.Machine.execChannelAllocation ch s
  | .channelWriteToken ch => Sys2Proof.Machine.execChannelWriteToken ch s
  | .channelReadServe ch => Sys2Proof.Machine.execChannelReadServe ch s
  | .basinMoveStart ch => Sys2Proof.Machine.execBasinMoveStart ch s
  | .basinMoveLand ch => Sys2Proof.Machine.execBasinMoveLand ch s
  | .basinAccessReissue ch => Sys2Proof.Machine.execBasinAccessReissue ch s
  | .spliceComplete ch => Sys2Proof.Machine.execSpliceComplete ch s
  | .blockMapOpServe id => Sys2Proof.Machine.execBlockMapOpServe id s
  | .freeFramePush ch => Sys2Proof.Machine.execFreeFramePush ch s
  | .dredgerRound part => Sys2Proof.Machine.execDredgerRound part s
  | .dredgerSample part => Sys2Proof.Machine.execDredgerSample part s
  | .dredgerResult part => Sys2Proof.Machine.execDredgerResult part s
  | .quantumExpiry r => Sys2Proof.Machine.execQuantumExpiry r s
  | .preemptSignal r => Sys2Proof.Machine.execPreemptSignal r s
  | .readPhaseEnd r => Sys2Proof.Machine.execReadPhaseEnd r s
  | .haltComplete r => Sys2Proof.Machine.execHaltComplete r s
  | .loadingEnd r => Sys2Proof.Machine.execLoadingEnd r s
  | .saveComplete r => Sys2Proof.Machine.execSaveComplete r s
  | .restoreComplete r => Sys2Proof.Machine.execRestoreComplete r s
  | .killComplete r => Sys2Proof.Machine.execKillComplete r s
  | .notifyWrite vf v => Sys2Proof.Machine.execNotifyWrite vf v s
  | .pfnotifyWrite n v => Sys2Proof.Machine.execPfnotifyWrite n v s
  | .hostMemoryRead fn off size => Sys2Proof.Machine.execHostMemoryRead fn off size s
  | .hostMemoryWrite fn off bytes => Sys2Proof.Machine.execHostMemoryWrite fn off bytes s
  | .hostChannelWrite fn off bytes => Sys2Proof.Machine.execHostChannelWrite fn off bytes s
  | .pfvdWrite v => Sys2Proof.Machine.execPfvdWrite v s
  | .shadowCopyStart v => Sys2Proof.Machine.execShadowCopyStart v s
  | .shadowCopyDone => Sys2Proof.Machine.execShadowCopyDone s
  | .hblossClear v => Sys2Proof.Machine.execHblossClear v s
  | .isoerrRead => Sys2Proof.Machine.execIsoerrRead s
  | .pfdropsRead => Sys2Proof.Machine.execPfdropsRead s
  | .dropsRead vf => Sys2Proof.Machine.execDropsRead vf s
  | .registerWrite off v => Sys2Proof.Machine.execRegisterWrite off v s
  | .powerGood imagesOk => Sys2Proof.Machine.execPowerGood imagesOk s
  | .linkActive => Sys2Proof.Machine.execLinkActive s
  | .powerStateEntry strip => Sys2Proof.Machine.execPowerStateEntry strip s
  | .powerStateWake strip => Sys2Proof.Machine.execPowerStateWake strip s
  | .getVersion die => Sys2Proof.Machine.execGetVersion die s
  | .getCapabilities die => Sys2Proof.Machine.execGetCapabilities die s
  | .negotiateAlgorithms die => Sys2Proof.Machine.execNegotiateAlgorithms die s
  | .getDigests die => Sys2Proof.Machine.execGetDigests die s
  | .getCertificate die => Sys2Proof.Machine.execGetCertificate die s
  | .challenge die nonce => Sys2Proof.Machine.execChallenge die nonce s
  | .getMeasurements die nonce => Sys2Proof.Machine.execGetMeasurements die nonce s
  | .keyExchange die share => Sys2Proof.Machine.execKeyExchange die share s
  | .finish die verifies => Sys2Proof.Machine.execFinish die verifies s
  | .endSession die => Sys2Proof.Machine.execEndSession die s
  | .ideKmExchange fn => Sys2Proof.Machine.execIdeKmExchange fn s
  | .startInterfaceRequest vf => Sys2Proof.Machine.execStartInterfaceRequest vf s
  | .ideIntegrityFailure vf => Sys2Proof.Machine.execIdeIntegrityFailure vf s
  | .seawayPortTraining port phyUp session => Sys2Proof.Machine.execSeawayPortTraining port phyUp session s
  | .heartbeatSend port => Sys2Proof.Machine.execHeartbeatSend port s
  | .heartbeatLoss port => Sys2Proof.Machine.execHeartbeatLoss port s
  | .seawayRowReceive port row => Sys2Proof.Machine.execSeawayRowReceive port row s
  | .parkedRowRetry port => Sys2Proof.Machine.execParkedRowRetry port s
  | .remoteWriteCompletion port ch => Sys2Proof.Machine.execRemoteWriteCompletion port ch s
  | .ackTimeout port ch => Sys2Proof.Machine.execAckTimeout port ch s
  | .acknowledgementReceive port row => Sys2Proof.Machine.execAcknowledgementReceive port row s
  | .sendQueueTailStore vd => Sys2Proof.Machine.execSendQueueTailStore vd s
  | .seawayRowSend vd => Sys2Proof.Machine.execSeawayRowSend vd s
  | .seawayKeyLoad port ch key => Sys2Proof.Machine.execSeawayKeyLoad port ch key s
  | .receiveTableWrite port ch e => Sys2Proof.Machine.execReceiveTableWrite port ch e s
  | .correctableError u => Sys2Proof.Machine.execCorrectableError u s
  | .uncorrectableError u => Sys2Proof.Machine.execUncorrectableError u s
  | .beaconUncorrectableError ch => Sys2Proof.Machine.execBeaconUncorrectableError ch s
  | .isolationError u => Sys2Proof.Machine.execIsolationError u s
  | .linkCrcReplay k => Sys2Proof.Machine.execLinkCrcReplay k s
  | .partitionForm id d => Sys2Proof.Machine.execPartitionForm id d s
  | .stripRelease strip => Sys2Proof.Machine.execStripRelease strip s
  | .stripOnline strip d => Sys2Proof.Machine.execStripOnline strip d s
  | .placeMapWrite part m => Sys2Proof.Machine.execPlaceMapWrite part m s
  | .vdCreate n d => Sys2Proof.Machine.execVdCreate n d s
  | .vdDestroy n => Sys2Proof.Machine.execVdDestroy n s
  | .keySlotLoad k key => Sys2Proof.Machine.execKeySlotLoad k key s
  | .supervisorPilotNamed part strip => Sys2Proof.Machine.execSupervisorPilotNamed part strip s
  | .pilotOnline strip pc vdid => Sys2Proof.Machine.execPilotOnline strip pc vdid s
  | .berthWaySet q n => Sys2Proof.Machine.execBerthWaySet q n s
  | .moduleReset => Sys2Proof.Machine.execModuleReset s
  | .arbitration cls inst => Sys2Proof.Machine.execArbitration cls inst s
  | .stickyFlagClear c mask => Sys2Proof.Machine.execStickyFlagClear c mask s
  | .tdiLock vf => Sys2Proof.Machine.execTdiLock vf s
  | .tdiUnlock vf => Sys2Proof.Machine.execTdiUnlock vf s
  | .linkLeavesDlActive => Sys2Proof.Machine.execLinkLeavesDlActive s
  | .firmwareImageStaging die img => Sys2Proof.Machine.execFirmwareImageStaging die img s
  | .sendQueuePlace vd va => Sys2Proof.Machine.execSendQueuePlace vd va s
  | .partitionRemove id => Sys2Proof.Machine.execPartitionRemove id s

end Sys2Proof.Machine
end

