-- ==== Sys2Proof/Machine/Select.lean ====
section
/-! DEFINITION. What happens in a clk: the slots that fire (05 R116, R117, R396), the turns of pilots (09 R224, R226), the events
that come due or whose condition holds, and the end of the clk. A clk runs in four phases, each a list of turns that is made
when the list before it is done (log 3). -/

namespace Sys2Proof.Machine

/-! The choice of slots (05 R116, R117). -/

/-- A slot fires, or stops its cell (05 R396), when its turn comes. -/
def State.eligible (s : State) (c : Nat) (x : Fin 16 × Instr) : Bool :=
  match exec x.2 { s with curCell := c, curSlot := x.1, fired := false } with
  | .next t => t.fired
  | _ => false

/-- A slot fires and does not stop its cell before the firing. -/
def State.firesNow (s : State) (c : Nat) (x : Fin 16 × Instr) : Bool :=
  match exec x.2 { s with curCell := c, curSlot := x.1, fired := false } with
  | .next t => t.fired && (!(t.cell c).stop.stopped || (t.cell c).stop.cause.toNat ≤ 2)
  | _ => false

/-- In-ports that a slot's word names as sources, and those that count as popped by it: the ports of its pop bits,
so both of MERGE, which pops the port it takes alone, and in1 of MXROW but in the top row (07 R180). DEDUCED
(log 66), unsafe: 05 R117 does not say whether the bit or the pop of the firing counts. -/
def slotSrcs (w : Word) : List Nat :=
  match shapeOf (cOp w) with
  | some h => (if h.a == .s && selIn (cA w) then [cA w - 8] else []) ++ (if h.b == .s && selIn (cB w) then [cB w - 8] else [])
  | none => []
def slotPops (top : Bool) (t w : Word) : List Nat :=
  (if cPopa w && selIn (cA w) then [cA w - 8] else []) ++ (if cPopb w && selIn (cB w) then [cB w - 8] else []) ++
    (if cOp w = 0xBA && bit t 13 && !top then [1] else [])
/-- In-ports that a slot depends on: named, required ready, tag-matched or popped. -/
def slotUses (top : Bool) (t w : Word) : List Nat :=
  slotSrcs w ++ slotPops top t w ++ ((List.range 4).filter fun n => bit t (12 + n)) ++ (if trgTme t then [(trgTmp t).val] else [])

/-- Out ports that a slot names as destinations: by its word, or for STEER by its mask. -/
def slotOuts (w : Word) : List Nat :=
  (match shapeOf (cOp w) with
    | some h => if h.x == .h then [] else outPorts h w
    | none => []) ++ (if cOp w = 0xA9 then (List.range 4).filter fun n => cY w / 2 ^ n % 2 == 1 else [])

/-- A slot writes, and reads, predicates: by 05 R117's own list, which does not name PLOG (log 89). -/
def writesPr (w : Word) : Bool :=
  cOp w == 0x98 || cOp w == 0x99 || match shapeOf (cOp w) with
    | some h => (h.x == .d && cX w == 16) || (h.y == .d && cY w == 16)
    | none => false
def readsPr (t w : Word) : Bool := trgPm t != 0 || cOp w == 0x02 || cOp w == 0x9A

def singleIssue (op : Nat) : Bool :=
  op == 0xA0 || op == 0xAB || op == 0xAC || op == 0xAD || op == 0xAF || (0xB0 ≤ op && op ≤ 0xBD) || (0xC0 ≤ op && op ≤ 0xD3)

def meets (a b : List Nat) : Bool := a.any fun x => b.contains x

/-- The exclusions of 05 R117 for slots i < j, by their trigger and instruction words. -/
def excluded (top : Bool) (ti wi tj wj : Word) : Bool :=
  meets (slotOuts wi) (slotOuts wj) || meets (slotPops top ti wi) (slotUses top tj wj) ||
    meets (slotPops top tj wj) (slotUses top ti wi) ||
    (writesPr wi && readsPr tj wj) || (trgMk ti && trgMk tj) || (trgCg ti && trgCg tj) ||
    (singleIssue (cOp wi) && singleIssue (cOp wj))

/-- Two slots of the active context may fire together. -/
def Cell.pairs (c : Cell) (top : Bool) (i j : Fin 16) : Bool :=
  let k := c.ctx
  let a := if i.val < j.val then i else j
  let b := if i.val < j.val then j else i
  !bit k.conf[i] j.val && !excluded top k.trig[a] k.inst[a] k.trig[b] k.inst[b]

/-- The slots chosen in a clk, in search order. -/
def State.chosen (s : State) (c : Nat) : List (Fin 16 × Instr) :=
  let k := s.cell c
  let el := k.guarded.filter (s.eligible c)
  match el with
  | [] => []
  | x :: rest =>
    match rest.find? fun y => k.pairs (s.topRow c) x.1 y.1 with
    | some y => [x, y]
    | none => [x]

/-- In slot order. -/
def inOrder (l : List (Fin 16 × Instr)) : List (Fin 16 × Instr) :=
  match l with
  | [x, y] => if x.1.val < y.1.val then [x, y] else [y, x]
  | l => l

/-- A cell that may fire in this clk: its region runs since an earlier clk, and it is neither stopped nor gated. -/
def State.mayFire (s : State) (c : Nat) : Bool :=
  (s.cell c).region.isSome && !s.frozen c && (s.cellRegion c).st == .running && (s.cellRegion c).runs ≤ s.clk

/-- What a BSTAT or a GETF in the second slot finds before the first fires (06 R160, 01 R26). -/
def Cell.takeSnap (c : Cell) (l : List (Fin 16 × Instr)) : Cell :=
  match l with
  | [_, (n, .bstat o)] => { c with snap := some (n, bstatVal c o.b.val) }
  | [_, (n, .getf _)] => { c with snap := some (n, 0) }
  | _ => c

/-- fptr after the choice (05 R116, item 4). -/
def Cell.moveFptr (c : Cell) (fires : Bool) (l : List (Fin 16 × Instr)) : Cell :=
  match l with
  | x :: _ => if ctlFair c.ctx.ctl && fires then c.modCtx c.actx fun k => { k with fptr := BitVec.ofNat 4 (x.1.val + 1) } else c
  | [] => c

/-- The choice of one cell: the state with its fptr and snapshot, and the turns. -/
def State.choose (s : State) (c : Nat) : State × List Turn :=
  if s.mayFire c then
    let l := s.chosen c
    let fires := (inOrder l).head?.any fun x => s.firesNow c x
    if l.isEmpty then (s, [])
    else
      (s.modCell c fun k => (k.moveFptr fires l).takeSnap (inOrder l), (inOrder l).map fun x => .slot c x.1)
  else (s, [])

/-- Bytes that the copy of a slot's turn takes of its quay's copy store. -/
def State.copyOf (s : State) (t : Turn) : Nat :=
  match t with
  | .slot c n =>
    match (s.cell c).instr n with
    | some (.qcpy o) => if s.firesNow c (n, .qcpy o) then qcpyCount ((s.cell c).src o.b).pay else 0
    | _ => 0
  | _ => 0
/-- The choices of the cells listed, all judged at the state at hand: a choice changes only its own cell. A copy that a
lower-numbered quay cell of the quay chooses leaves less room for another's, which is then not eligible (08 R204; log 100). -/
def State.chooseAll (s : State) : List Nat → State × List Turn
  | [] => (s, [])
  | c :: cs =>
    let m := s.choose c
    let n := (m.2.map s.copyOf).foldl (· + ·) 0
    let r := (if n = 0 then m.1 else m.1.modQuay (quayOf c) fun q => { q with copyBytes := q.copyBytes + n }).chooseAll cs
    ({ r.1 with quays := m.1.quays }, m.2 ++ r.2)

/-! Turns. -/

/-- What comes from outside the module (17 R376 to R392; 15 R332 to R351; 16 R370 to R375; 04 R104). -/
def fromOutside : Instr → Bool
  | .seawayRowReceive _ _ | .acknowledgementReceive _ _ | .notifyWrite _ _ | .pfnotifyWrite _ _ | .hostMemoryRead _ _ _
  | .hostMemoryWrite _ _ _ | .hostChannelWrite _ _ _ | .pfvdWrite _ | .shadowCopyStart _ | .hblossClear _ | .isoerrRead
  | .pfdropsRead | .dropsRead _ | .registerWrite _ _ | .powerGood _ | .linkActive | .linkLeavesDlActive | .powerStateEntry _
  | .powerStateWake _ | .getVersion _ | .getCapabilities _ | .negotiateAlgorithms _ | .getDigests _ | .getCertificate _
  | .challenge _ _ | .getMeasurements _ _ | .keyExchange _ _ | .finish _ _ | .endSession _ | .ideKmExchange _
  | .startInterfaceRequest _ | .ideIntegrityFailure _ | .seawayPortTraining _ _ _ | .seawayKeyLoad _ _ _
  | .receiveTableWrite _ _ _ | .correctableError _ | .uncorrectableError _ | .beaconUncorrectableError _ | .isolationError _
  | .linkCrcReplay _ | .partitionForm _ _ | .stripRelease _ | .stripOnline _ _ | .placeMapWrite _ _ | .vdCreate _ _
  | .vdDestroy _ | .keySlotLoad _ _ | .supervisorPilotNamed _ _ | .pilotOnline _ _ _ | .berthWaySet _ _ | .moduleReset
  | .stickyFlagClear _ _ | .tdiLock _ | .tdiUnlock _ | .firmwareImageStaging _ _ | .sendQueuePlace _ _ | .partitionRemove _ => true
  | _ => false

/-- The instruction of a slot; a cell that stopped or was gated since the choice does not fire (05 R396). -/
def State.slotTurn (s : State) (c : Nat) (n : Fin 16) : Out :=
  if s.frozen c then .next s
  else
    match (s.cell c).instr n with
    | some i => exec i { s with curCell := c, curSlot := n, fired := false }
    | none => .fault (.undecodableSlot ((s.cell c).ctx.inst[n]))

/-- A pilot executes a word: an instruction, once the loads that it waits for have come, or illegal (03 R87). -/
def State.pilotWord (s : State) (p : Nat) (w : Word) : Out :=
  match decodePilot w.toNat with
  | .ok i => if (s.pilot p).waitsLate i then .next (s.modPilot p fun m => { m with wait := .late }) else exec i s
  | .error _ => execIllegalInstruction p w s

/-- A pilot in no instruction: the word at its pc, executed at once or when it comes (09 R224). -/
def State.fetchTurn (s : State) (p : Nat) : Out :=
  match s.fetch p with
  | (.fault, s1) => .next (s1.modPilot p fun m => m.trap 2 m.pc m.pc)
  | (.wait, s1) => .next s1
  | (.word w, s1) => (s1.modPilot p fun m => { m with held := w, wait := .no }).pilotWord p w

/-- A pilot in a load whose access is under way: it waits, or goes on past it (09 R234; log 59). -/
def State.memTurn (s : State) (p : Nat) (w : Word) : Out :=
  match decodePilot w.toNat with
  | .ok (.ld o) | .ok (.ldx o) =>
    let t := { s with fresh := s.fresh + 1 }
    if Config.runsOn s.fresh then .next (t.runOn p o) else t.pilotWord p w
  | _ => s.pilotWord p w

/-- A pilot's turn: the event interrupt when it is taken, the instruction it waits in again, or the next one (09 R224, R226). -/
def State.pilotTurn (s0 : State) (p : Nat) : Out :=
  let s := { s0 with curPilot := p }.retire p
  let q := s.pilot p
  if !q.online then .next s
  else if q.evTaken && s.canInterrupt p then exec (.eventInterrupt p) s
  else
    match q.wait with
    | .no | .fetch => s.fetchTurn p
    | .fetching => .next s
    | .fetched w => (s.modPilot p fun m => { m with held := w, wait := .no }).pilotWord p w
    | .late => (s.modPilot p fun m => { m with wait := .no }).pilotWord p q.held
    | .mem => s.memTurn p q.held
    | _ => s.pilotWord p q.held

/-- A turn of the agenda. -/
def State.turn (s : State) (t : Turn) : Out :=
  match t with
  | .slot c n => s.slotTurn c n
  | .pilot p => s.pilotTurn p
  | .event i => exec i s
  | .act a => s.act a

/-! Walks and arbiters ahead (15 R341, 16 R356). Host accesses, rows of the Seaway, commands of pilots, block maps and basins translate and access
memory within one turn. Such a turn is taken only once the translation buffer serves what it translates: until then the quay's unit walks for
it, one page at a time, and the turn comes again. A translation that fails leaves no walk to wait for. Then what the turn takes of the
arbiters is sent ahead of it, and it is taken once all has passed; a basin access, many of which are under way at a time, is charged and does
not wait (log 9). -/

/-- The word of the command that a pilot executes next (opcodes 0xF9 to 0xFE, 03 R83). -/
def State.commandWord (s : State) (p : Nat) : Option Word :=
  let w : Option Word := match (s.pilot p).wait with
    | .fetched w => some w
    | .no | .fetch => match (s.fetch p).1 with
      | .word w => some w
      | _ => none
    | .fetching | .mem => none
    | _ => some (s.pilot p).held
  w.filter fun w => 0xF9 ≤ w.toNat / 2 ^ 24 && w.toNat / 2 ^ 24 ≤ 0xFE

/-- From where an outside event comes, where the order of what comes from there counts: a function (17 R380) or a port (17 R389). -/
def inputSource (i : Instr) : Option (Nat × Nat) :=
  match i with
  | .hostMemoryRead fn _ _ | .hostMemoryWrite fn _ _ | .hostChannelWrite fn _ _ => some (1, fnNo fn)
  | .notifyWrite vf _ | .dropsRead vf => some (1, vf)
  | .pfnotifyWrite _ _ | .pfvdWrite _ | .shadowCopyStart _ | .hblossClear _ | .registerWrite _ _ | .isoerrRead | .pfdropsRead => some (1, 16)
  | .seawayRowReceive port _ | .acknowledgementReceive port _ | .seawayPortTraining port _ _ => some (11, port)
  | _ => none

/-- What a turn that may translate is called among the walkers. An event interrupt that a pilot takes waits for no walk. -/
def State.aheadName (s : State) (t : Turn) : Option (Nat × Nat) :=
  match t with
  | .pilot p => if (s.commandWord p).isSome && !((s.pilot p).evTaken && s.canInterrupt p) then some (0, p) else none
  | .event i => match i with
    | .hostMemoryRead _ _ _ | .hostMemoryWrite _ _ _ | .seawayRowReceive _ _ => inputSource i
    | .blockMapLookup c => some (2, c)
    | .blockMapOpServe id => some (3, id)
    | .channelWriteToken ch => match (s.chan ch).cur with
      | some (.inr _) => some (4, ch)
      | _ => none
    | .basinMoveStart ch => some (5, ch)
    | .channelAllocation ch | .freeFramePush ch => if (s.chan ch).toRing then none else some (6, ch)
    | .seawayRowSend vd => some (7, vd)
    | .remoteWriteCompletion port ch => some (8, 8192 * port + ch)
    | .loadingEnd r => some (9, r)
    | .restoreComplete r => some (10, r)
    | _ => none
  | _ => none

/-- Leaves that one state's translation buffers hold and another's do not, with their quay, the newest first. -/
def State.newLeaves (s t : State) : List (Nat × Tlb) :=
  t.quays.flatMap fun q => if q.2.tlb == (s.quay q.1).tlb then [] else (q.2.tlb.filter fun e => !(s.quay q.1).tlb.contains e).map fun e => (q.1, e)
/-- An address of a leaf's page. -/
def Tlb.va (e : Tlb) : DWord := (BitVec.ofNat 55 (e.vpn * 2 ^ leafBits e.level)).signExtend 64
/-- The walk for a page that a turn needs: for a write where the leaf had to have D set. -/
def State.walkFor (s : State) (name : Nat × Nat) (x : Nat × Tlb) : State :=
  match s.walkRoot x.2.vd x.2.va with
  | .ok (t, k) => s.walkStart x.1 (.turn name.1 name.2) x.2.vd false x.2.va (if bit x.2.pte 7 && bit x.2.pte 2 then .w else .r) t k
  | .error _ => s
/-- A walk for a turn is under way, or waits for one of the 16. -/
def State.walksFor (s : State) (name : Nat × Nat) : Bool :=
  s.quays.any fun q => (q.2.walks ++ q.2.queue).any fun w => w.who == .turn name.1 name.2

/-- The number of a turn among what crosses arbiters. -/
def aheadNo (name : Nat × Nat) : Nat := 16 * name.2 + name.1
/-- What a turn takes of the arbiters with no event at the end, if it waits for that. -/
def State.newCharges (s u : State) (name : Nat × Nat) : List (Nat × List (Nat × Nat × Nat)) :=
  if 4 ≤ name.1 && name.1 ≤ 6 then []
  else (u.passes.filter fun p => p.ev.isNone && s.seqNo ≤ p.id).map fun p => (p.vd, p.todo)
/-- That is sent ahead of the turn, to all the arbiters side by side. -/
def State.sendAhead (s : State) (name : Nat × Nat) (l : List (Nat × List (Nat × Nat × Nat))) : State :=
  (l.flatMap fun x => x.2.map fun c => (x.1, [c])).foldl (fun s x => s.send x.1 0 rankFar 0 x.2 clsAhead (aheadNo name) none)
    { s with cleared := name :: s.cleared }
/-- Some of it has not passed. -/
def State.crossesFor (s : State) (name : Nat × Nat) : Bool := s.passes.any fun p => p.cls == clsAhead && p.sub == aheadNo name
/-- A turn whose translations are there: it is taken once what it takes of the arbiters has passed. -/
def State.cross (s u : State) (name : Nat × Nat) : Bool × State :=
  let l := s.newCharges u name
  if s.cleared.contains name then
    (true, { s with cleared := s.cleared.erase name, paid := s.paid ++ l })
  else if l.isEmpty then (true, s) else (false, s.sendAhead name l)

/-- Whether a turn is taken now; where it is not, its next walk begins, or what it takes of the arbiters is sent. -/
def State.ready (s : State) (t : Turn) : Bool × State :=
  match s.aheadName t with
  | none => (true, s)
  | some name =>
    if s.walksFor name || s.crossesFor name then (false, s)
    else
      match s.turn t with
      | .next u => match (s.newLeaves u).getLast? with
        | some x => (false, s.walkFor name x)
        | none => s.cross u name
      | _ => (true, s)
/-- The outside event that is taken, and those that stay: the first that waits for nothing and is behind none of its source that waits. -/
def State.nextInput (s : State) (waits : List (Nat × Nat)) : List Instr → State × List Turn × List Instr
  | [] => (s, [], [])
  | i :: is =>
    let behind : Bool := (inputSource i).any fun x => waits.contains x
    let a := if behind then (false, s) else s.ready (.event i)
    if a.1 then (a.2, [.event i], is)
    else
      let r := a.2.nextInput ((inputSource i).toList ++ waits) is
      (r.1, r.2.1, i :: r.2.2)
/-- The turns that are taken, of those listed. -/
def State.ahead (s : State) : List Turn → State × List Turn
  | [] => (s, [])
  | t :: ts =>
    let a := s.ready t
    let r := a.2.ahead ts
    (r.1, if a.1 then t :: r.2 else r.2)
/-- The events that come due and are taken, and those that come again in the next clk. -/
def State.aheadDue (s : State) : List Pend → State × List Turn × List Pend
  | [] => (s, [], [])
  | p :: ps =>
    let a := s.ready (.event p.ev)
    let r := a.2.aheadDue ps
    if a.1 then (r.1, .event p.ev :: r.2.1, r.2.2) else (r.1, r.2.1, { p with due := s.clk + 1 } :: r.2.2)

/-! Phase 0: what fires, executes and begins. -/

/-- Records that can be posted: those of the clk before, ahead of the pilots' commands (09 R250). -/
def State.recordTurns (s : State) : List Turn :=
  (s.parts.filter fun p => (s.records.any fun r => r.part == p.1) && (s.pilot p.2.sup).takesRec).map fun p =>
    .event (.eventRecordPost p.1)

/-- Turns of the pilots. -/
def State.pilotTurns (s : State) : List Turn := (s.pilots.filter fun p => p.2.online).map fun p => .pilot p.1

/-- A join that the hardware takes or is forwarding. -/
def State.forwards (s : State) (c : Nat × Cell) : Bool :=
  c.2.region.isSome && !s.frozen c.1 && (c.2.ctx.fan.isSome || (c.2.join.isSome && !c.2.claims))
def State.markerTurns (s : State) : List Turn :=
  (s.cells.filter s.forwards).flatMap fun c => [.event (.markerJoin c.1), .event (.hardwareMarkerForward c.1)]

/-- The dredgers begin a round every 1,024 clk (11 R281). -/
def State.dredgerTurns (s : State) : List Turn :=
  if s.clk % Config.dredgerClk = 0 then s.parts.map fun p => .event (.dredgerRound p.1) else []

/-- A sample of the dredger is due. -/
def State.sampleDue (s : State) : Bool :=
  s.pend.any fun p => p.due ≤ s.clk && match p.ev with
    | .dredgerSample _ => true
    | _ => false
/-- Gated cells with an eligible slot, which a sample sees (11 R280; log 27). -/
def State.markGated (s : State) : State :=
  if s.sampleDue then
    { s with cells := s.cells.map fun (c : Nat × Cell) =>
        if c.2.region.isSome && (s.cellRegion c.1).st == .running && (s.cellRegion c.1).gated &&
            !(c.2.guarded.filter (s.eligible c.1)).isEmpty then (c.1, { c.2 with acted := true }) else c }
  else s

/-- Tokens that a halt's bound of 258 clk brings in at the end of the next clk (14 R328, 16 R364). -/
def State.settleTokens (s : State) : State :=
  (s.regions.filter fun r => r.2.settles s.clk).foldl (fun s r => s.hurry r.1) s

/-- The first clk of a start: what waited for the region is sent again (16 R367). -/
def State.firstClks (s : State) : State :=
  (s.regions.filter fun r => r.2.st == .running && r.2.runs == s.clk).foldl (fun s r => s.firstClk r.1) s

def State.phase0 (s : State) : State :=
  let s1 := s.settleTokens.firstClks.markGated
  let r := s1.chooseAll (s1.cells.map (·.1))
  let i := r.1.nextInput [] s.inputs
  let p := i.1.ahead s.pilotTurns
  { p.1 with
    phase := 1
    inputs := i.2.2
    acts := s.acts.drop 1
    agenda := s.recordTurns ++ r.2 ++ i.2.1 ++ ((s.acts.take 1).map Turn.act) ++ p.2 ++ s.markerTurns ++ s.dredgerTurns }

/-! Phase 1: what comes due, in order. -/

/-- Order of two events of one clk. -/
def Pend.before (a b : Pend) : Bool :=
  a.cls < b.cls || (a.cls == b.cls && (a.sub < b.sub || (a.sub == b.sub && a.owner ≤ b.owner)))
def insertPend (p : Pend) : List Pend → List Pend
  | [] => [p]
  | q :: t => if Pend.before p q then p :: q :: t else q :: insertPend p t
def sortPend (l : List Pend) : List Pend := l.foldl (fun t p => insertPend p t) []

/-- Results of a cell may land at the end of this clk. -/
def State.lands (s : State) (c : Nat) (k : Cell) : Bool :=
  !k.lands.isEmpty || !k.dly.isEmpty || !k.bcred.isEmpty || !k.flush.isEmpty || s.reqs.any fun r => r.cell == c
/-- What the cells write after everything else of the clk has come due: the ends of HANDs and flushes, the deferred writes, the drain
tokens. A cell that stopped in this clk writes no drain token in it (log 90). -/
def State.deferTurns (s : State) : List Turn :=
  s.cells.flatMap fun c =>
    (if c.2.flush.isEmpty then [] else [.event (.handInstall c.1), .event (.flushResult c.1)]) ++
      (if s.lands c.1 c.2 then [.event (.dlyDeferredWrite c.1)] else []) ++
      (if c.2.mx.drain.isSome then [.event (.drainTokenWrite c.1)] else [])

def State.phase1 (s : State) : State :=
  let r := s.aheadDue (sortPend (s.pend.filter fun p => p.due ≤ s.clk))
  { r.1 with
    phase := 2
    pend := r.2.2 ++ r.1.pend.filter fun p => s.clk < p.due
    agenda := r.2.1 ++ s.deferTurns }

/-! Phase 2: what the state of the end of the clk calls for. -/

/-- Lines sent because a level-7 join has been made at every drain cell, or for a BCARR with the drain flag (08 R197). -/
def bcarrWaits (s : State) (c : Nat) (k : Cell) : Bool :=
  k.guarded.any fun x => match x.2 with
    | .bcarr o => o.y.val % 2 == 1 && s.bcnOk (s.cellPart c) o.b.val && !bit k.arrBits o.b.val
    | _ => false
def State.flushLines7 (s : State) : State :=
  s.cells.foldl (fun (s : State) (c : Nat × Cell) =>
    if c.2.coal.isEmpty then s
    else if (match c.2.region with
      | some r => (s.region r).st == .running && s.joinedAll r
      | none => false) || (!s.frozen c.1 && bcarrWaits s c.1 c.2) then s.coalSendAll c.1
    else s) s

/-- Turns of a cell: its switch, its coalesced lines, its translation. A count that the firings of this clk reached makes its switch
pending also where they stopped the cell (06 R155). -/
def State.cellTurns (s : State) (c : Nat) (k : Cell) : List Turn :=
  (if k.region.isSome && k.triggers then [.event (.countTrigger c)] else []) ++
    (if !s.frozen c && k.region.isSome && (k.triggers || k.swPend) then [.event (.switchCompletion c)] else []) ++
    ((k.coal.filter fun l => l.old s.clk).map fun l => .event (.coalesceTimeout c l.line)) ++
    match s.toStart c with
    | some (.refill i) => [.event (.frameWindowRefill c i)]
    | some (.block _ _ _) => [.event (.blockMapLookup c)]
    | some _ => [.event (.translationStart c)]
    | none => []

/-- A token of a channel's current element can be written. -/
def Chan.writes (c : Chan) : Bool :=
  !c.wtoks.isEmpty && match c.cur with
    | some (.inr _) => !c.paused
    | some (.inl _) => true
    | none => false

/-- Turns of a channel. -/
def State.chanTurns (s : State) (ch : Nat) (c : Chan) : List Turn :=
  (if c.chrWait.isSome && (c.readable || s.chanSpent ch) then [.event (.channelReadServe ch)] else []) ++
    (if c.writes then [.event (.channelWriteToken ch)] else []) ++
    (if c.opened && c.canMove then [.event (.basinMoveStart ch)] else [])
/-- Every channel, by physical number. -/
def State.allChans (s : State) : List (Nat × Chan) := s.quays.flatMap fun q => q.2.chans.map fun c => (64 * q.1 + c.1, c.2)

/-- Turns of a pilot: the end of a WFE. -/
def State.wfeTurns (s : State) : List Turn :=
  s.pilots.filterMap fun p => match p.2.wait with
    | .wfe d => if d ≤ s.clk then some (.event (.wfeTimeout p.1)) else none
    | _ => none

/-- Turns of the Seaway: completion words, and send queues. -/
def State.seaTurns (s : State) : List Turn :=
  (s.ports.flatMap fun p => (p.2.rx.filter fun x => x.2.complete.isSome).map fun x => .event (.remoteWriteCompletion p.1 x.1)) ++
    (s.vds.filter fun v => v.2.sendq.isSome).flatMap fun v =>
      if v.2.tail then [.event (.seawayRowSend v.1)]
      else match s.sqCtl v.1 with
        | some c => if c.head = c.tail then [] else [.event (.sendQueueTailStore v.1)]
        | none => []

def State.phase2 (s0 : State) : State :=
  let s := s0.flushLines7
  let r := s.ahead (s.cells.flatMap (fun c => s.cellTurns c.1 c.2) ++
    ((s.regions.filter fun r => r.2.st == .running && s.isDrained r.1).map fun r => .event (.regionCompletionEvent r.1)) ++
    s.allChans.flatMap (fun c => s.chanTurns c.1 c.2) ++ s.seaTurns ++ s.wfeTurns)
  { r.1 with phase := 3, agenda := r.2 }

/-! Phase 3: the allocators, the entries that wait, and the quanta. -/

/-- Turns of the allocators of a cell's store. -/
def State.grantTurns (c : Nat) (k : Cell) : List Turn :=
  if k.region.isSome && !k.road.isEmpty then
    four.flatMap fun x => four.flatMap fun p =>
      if (k.grants x p).isSome then [.event (.allocatorGrant c x.val p.val)] else []
  else []
/-- The turn of a channel's ring. -/
def State.ringTurns (s : State) (ch : Nat) (c : Chan) : List Turn :=
  if c.opened && c.grantable then
    match s.chanReq? ch with
    | some r => if r.kind = 4 then [.event (.freeFramePush ch)] else [.event (.channelAllocation ch)]
    | none => []
  else []
def State.entryTurns (s : State) : List Turn :=
  ((s.cells.filter fun c => !c.2.outside.isEmpty).map fun c => .event (.roadsteadEntry (.cell c.1))) ++
    (s.quays.filter fun q => !q.2.outside.isEmpty).map fun q => .event (.roadsteadEntry (.quay q.1))

def State.phase3 (s : State) : State :=
  let r := s.ahead (s.cells.flatMap (fun c => State.grantTurns c.1 c.2) ++ s.allChans.flatMap (fun c => s.ringTurns c.1 c.2) ++
    s.entryTurns ++ (s.regions.filter fun r => r.2.expiresNow s.clk).map fun r => .event (.quantumExpiry r.1))
  { r.1 with phase := 4, agenda := r.2 }

/-! The end of a clk. -/

/-- A translation whose token was popped or replaced is of no use any more (08 R192). -/
def Cell.staleTrans (c : Cell) : Option Trans :=
  match c.trans with
  | some ⟨.xlat va a, st⟩ =>
    if a = c.srcAt a.src then c.trans
    else if st = .running then some ⟨.xlat va { a with here := false }, st⟩ else none
  | x => x
/-- A cell at the end of a clk. -/
def Cell.endClk (c : Cell) : Cell :=
  { c with
    snap := none, freed := [], trans := c.staleTrans
    ctxs := c.ctxs.map fun x => { x with hands := x.hands.map Handle.endClk } }

/-- What the event functions of the end of a clk answer. -/
def State.then_ (s : State) (f : State → Out) : State :=
  match f s with
  | .next t => t
  | _ => s

/-- QSTF writes (08 R202). -/
def Slot.filled (sl : Slot) (m : BitVec 8) (v : Wide) : Slot :=
  { sl with pay := ofLanes ((List.range 8).map fun i => if bit m i then lane v i else lane sl.pay i), fe := sl.fe ||| m }
def Quay.endClk (q : Quay) : Quay :=
  { q with slots := q.qstf.foldl (fun t w => tblPut t w.1 ((tblGet .free t w.1).filled w.2.1 w.2.2)) q.slots, qstf := [] }

/-- The Seaway at the end of a clk: heartbeats, losses and acknowledgements that are due (17 R387, R389). -/
def State.seaClk (s : State) : State :=
  (s.ports.map (·.1)).foldl (fun (s : State) (p : Nat) =>
    let s1 := s.modPort p fun x => { x with wire := [] }
    let s2 := if (s1.port p).trained && s1.clk % Config.heartbeatClk == 0 then s1.then_ (execHeartbeatSend p) else s1
    let s3 := if (s2.port p).trained && (s2.port p).lastRx + Config.lossClk ≤ s2.clk then s2.then_ (execHeartbeatLoss p) else s2
    (s3.port p).rx.foldl (fun (s : State) (x : Nat × SwRx) =>
      if 0 < x.2.unacked && x.2.firstAt + Config.ackClk ≤ s.clk then s.then_ (execAckTimeout p x.1) else s) s3) s

/-- What the management controller and the host go on with. -/
def State.manageClk (s : State) : State :=
  let s1 := (s.vds.filter fun v => v.2.trap.isSome).foldl (fun (s : State) (v : Nat × Vd) => s.trapEnd v.1) s
  let s2 := (s1.vds.filter fun v => v.2.dying).foldl (fun (s : State) (v : Nat × Vd) => s.vdEnd v.1) s1
  let s3 := (s2.parts.filter fun p => p.2.leaving).foldl (fun (s : State) (p : Nat × Part) => s.partEnd p.1) s2
  s3.hostNext.wakeStrips.heldGo

/-- The counters of a region: run clk and the quantum (13 R310). -/
def Region.endClk (g : Region) (clk : Nat) : Region :=
  if g.counts clk then { g with runClk := g.runNow clk, counter := g.counter - 1 } else g

/-- The end of a clk. -/
def State.tick (s : State) : State :=
  let s1 := (s.beacons.map (·.1)).foldl (fun (s : State) (b : Nat) => s.releaseFull b) s
  let s2 := s1.seaClk.joinQueues
  let s3 := s2.arbList.foldl (fun (s : State) (a : Nat) => s.then_ (execArbitration (a / 1024) (a % 1024))) s2
  let s4 := s3.manageClk
  { s4 with
    clk := s4.clk + 1
    phase := 0
    cells := s4.cells.map fun c => (c.1, c.2.endClk)
    quays := s4.quays.map fun q => (q.1, q.2.endClk)
    regions := s4.regions.map fun r => (r.1, r.2.endClk s4.clk)
    pilots := s4.pilots.map fun p => (p.1, if p.2.online then { p.2 with cycles := p.2.cycles + 1 } else p.2) }

/-- The next list of turns. -/
def State.nextPhase (s : State) : State :=
  match s.phase with
  | 0 => s.phase0
  | 1 => s.phase1
  | 2 => s.phase2
  | 3 => s.phase3
  | _ => s.tick

/-! Placing one instruction where the next step runs it (log 1). -/

/-- The word of a pilot instruction (03 R79 to R85: opcodes 0xE0 up). -/
def isPilotWord (w : Nat) : Bool := 0xE0 ≤ w / 2 ^ 24 % 256
/-- Partition 0 of every strip, its memory ranges and its virtual device 0 with key id 1. -/
def State.ground (s : State) : State :=
  (s.setPart 0 { Part.none with first := 0, count := Config.strips, channels := 0xFFFFFFFF, ranges := [(0, Config.frames)] }).setVd 0
    { Vd.none with keys := 2, root := some 0x10000, tdi := .run }
/-- A cell word in slot 0 of a cell of a RUNNING region; a quay instruction's cell is a quay cell. -/
def State.placeCell (s : State) (w : Nat) : State :=
  let c := if 0xC0 ≤ w / 2 ^ 24 % 256 then 126 else 0
  let g : Region := { Region.free with st := .running, hdr := BitVec.ofNat 512 (2 ^ 104), gated := false, started := true }
  ({ s.ground.setRegion 0 g with agenda := [.slot c 0] }).modCell c fun k =>
    ({ k with region := some 0, stop := .clear }).modCtx k.actx fun x =>
      { x with trig := vset x.trig 0 1, inst := vset x.inst 0 (BitVec.ofNat 32 w) }
/-- A pilot word at address 0 of a pilot in supervisor mode, fetched from there, mapped by one leaf of the root table at 0x10000. -/
def State.placePilot (s : State) (w : Nat) : State :=
  let s1 := s.ground
  let m := memWrites s1.mem 0 (toBytes (BitVec.ofNat 32 w) 4)
  ({ s1 with mem := memWrites m 0x10000 (toBytes (0x1DF#64) 8), memKey := tblDel (tblDel s1.memKey 0) 0x1000, poison := [],
             agenda := [.pilot 0] }.modQuay 0 fun q => { q with tlb := [] }).modPilot 0 fun p =>
    { p with online := true, pc := 0, status := 1, vdid := 0, wait := .fetched (BitVec.ofNat 32 w), l1i := [] }

end Sys2Proof.Machine
end

