-- ==== Sys2Proof/Machine/Step.lean ====
section
/-! DEFINITION. One step of the machine, and the state whose next step runs a given word. -/

namespace Sys2Proof.Machine

/-- One step: the next turn of the agenda, or, when it is empty, the next phase of the clk. -/
def step (s : State) : Host.Outcome State Fault Refusal :=
  match s.agenda with
  | [] => .next s.nextPhase
  | t :: rest => { s with agenda := rest }.turn t

/-- The instruction stored where the next step takes it from (log 1). -/
def State.withFetchWord (s : State) (_nbits w : Nat) : State := if isPilotWord w then s.placePilot w else s.placeCell w

end Sys2Proof.Machine
end

