-- ==== Sys2Proof/Safety.lean ====
section
/-! DEFINITION. What counts as a safe run, and the terms that statements about the machine use. -/

namespace Sys2Proof

open Machine

/-- The canonical form of a state's memory. -/
def MemOk (s : State) : Prop := memWf s.mem = true

/-- The next k steps stop nowhere. -/
def RunsFor (k : Nat) (s : State) : Prop := ∃ t, core.run k s = .next t

/-- A safe run of k steps: it stops nowhere and ends with memory in its canonical form. -/
def SafeRun (k : Nat) (s : State) : Prop := ∃ t, core.run k s = .next t ∧ MemOk t

/-- An instruction answers a next state of which P holds. -/
def Answers (i : Instr) (s : State) (P : State → Prop) : Prop := ∃ t, exec i s = .next t ∧ P t

/-- An instruction fires as an operand form says: in every state whose sources can be read and destinations written, exec answers
the end of the firing (`State.finish`) with a result and flags of which R holds, given the cell and the payloads read. -/
def FiresWith (i : Instr) (f : Fire) (R : Cell → Wide → Wide → Wide → Flags → Prop) : Prop :=
  ∀ s : State, (s.cell s.curCell).ready f = true →
    ∃ v fl, exec i s = .next (s.finish f f.popped v ((s.cell s.curCell).outTag f) fl) ∧
      R (s.cell s.curCell) ((s.cell s.curCell).srcO f.a).pay ((s.cell s.curCell).srcO f.b).pay v fl

/-- Every element of width n of a payload is what g gives. -/
def Each (n : Nat) (v : Wide) (g : Nat → BitVec n) : Prop := ∀ k, k < 256 / n → elt n v k = g k

/-- The flags of an element-wise operation: a flag is set when an element sets it. -/
def Union (n : Nat) (fl : Flags) (g : Nat → Flags) : Prop :=
  ∀ b, fl.getLsbD b = (List.range (256 / n)).any fun k => (g k).getLsbD b

/-- The widths of the integer element types (03 R75). -/
def width (e : ITy) : Nat := ITy.bits e

/-- A two-source integer operation that sets no flag: element by element. -/
def IntegerOp (i : ITy → OpB → Instr) (g : (n : Nat) → BitVec n → BitVec n → BitVec n) : Prop :=
  ∀ e o, FiresWith (i e o) (ofB o) fun _ a b v fl =>
    fl = 0 ∧ Each (width e) v fun k => g (width e) (elt (width e) a k) (elt (width e) b k)

/-- Element-wise float results: element k is the low bits of `(g k).1`, and the flags are those of the elements together. -/
def FloatEach (f : Fmt) (v : Wide) (fl : Flags) (g : Nat → Nat × Flags) : Prop :=
  (∀ k, k < 256 / f.width → eltN f.width v k = (g k).1 % 2 ^ f.width) ∧ Union f.width fl fun k => (g k).2

/-- A two-source float operation in the format of its type and the mode of cfmt, element by element. -/
def FloatOp (i : FTy → OpB → Instr) (g : Fmt → Nat → Nat → Nat → Nat × Flags) : Prop :=
  ∀ e o, FiresWith (i e o) (ofB o) fun c a b v fl =>
    let f := FTy.fmt c e
    FloatEach f v fl fun k => g f c.mode (eltN f.width a k) (eltN f.width b k)

/-- Round of an exact value into a format (04 R98 to R100), with the flags of the operation that gave the value. -/
def rounded (f : Fmt) (mode : Nat) (r : FV × Flags) : Nat × Flags := ((f.put mode r.1).1, (f.put mode r.1).2 ||| r.2)

/-- The grid point that 04 R98 chooses for ± m × 2^e on the grid of spacing 2^q, in steps from zero, and whether the value is off the
grid: n + r / d is the value in steps. -/
def gridSteps (mode : Nat) (neg : Bool) (m : Nat) (e q : Int) : Nat × Bool :=
  let a := m * 2 ^ (e - q).toNat
  let d := 2 ^ (q - e).toNat
  let n := a / d
  let r := a % d
  let up := r ≠ 0 ∧ ((mode = 0 ∧ (d < 2 * r ∨ (2 * r = d ∧ n % 2 = 1))) ∨ (mode = 2 ∧ neg = false) ∨ (mode = 3 ∧ neg = true))
  (if up then n + 1 else n, decide (r ≠ 0))

/-- a × 2^x and b × 2^y are the same number; the first is less. -/
def SameValue (a : Nat) (x : Int) (b : Nat) (y : Int) : Prop := a * 2 ^ (x - min x y).toNat = b * 2 ^ (y - min x y).toNat
def LessValue (a : Nat) (x : Int) (b : Nat) (y : Int) : Prop := a * 2 ^ (x - min x y).toNat < b * 2 ^ (y - min x y).toNat

/-- 04 R90, R94: the formats of elements; a binary8 code has a precision and no reserved bit. -/
def elementFmt : Fmt → Prop
  | .b8 c => c.extractLsb' 0 3 ≠ 0 ∧ c.extractLsb' 5 3 = 0
  | .a36 => False
  | _ => True

/-- 04 R98, R99, R101: what n grid steps of 2^q, off the grid or not, come to in a format whose largest finite value is M × 2^E. -/
def StepsTo (f : Fmt) (mode : Nat) (neg : Bool) (n : Nat) (q : Int) (fl : Flags) (r : Nat × Flags) : Prop :=
  ∃ M E, f.decode f.maxCode = .fin false M E ∧
    (LessValue M E n q → r =
      if f.isFinite then (f.signed neg f.maxCode, flOverflow ||| flInexact ||| flSat)
      else (f.signed neg (if mode = 0 ∨ (mode = 2 ∧ neg = false) ∨ (mode = 3 ∧ neg = true) then f.infCode else f.maxCode),
        flOverflow ||| flInexact)) ∧
    (¬LessValue M E n q → r.1 < 2 ^ f.width ∧ r.2 = fl ∧ (n = 0 → r.1 = f.zero neg) ∧
      (n ≠ 0 → ∃ k w, f.decode r.1 = .fin neg k w ∧ SameValue k w n q))

/-- A finite value in units of 2^E, where its own exponent is no lower. -/
def unitsOf (E : Int) : FV → Int
  | .fin n m e => (if n then -1 else 1) * (m * 2 ^ (e - E).toNat : Nat)
  | _ => 0

/-- 05 R133: an f32 result whose exact value lies in the unit r: the nearest value where it is exact or overflows; else inexact, and the
nearest value or one no further than k × 2^a from both ends of the unit. -/
def Within (r : Real1) (exact : Prop) (k : Nat) (a : Int) (res : Nat × Flags) : Prop :=
  let n := Fmt.f32.round 0 r.neg r.m r.e r.sticky
  (exact ∨ n.2 &&& flOverflow ≠ 0 → res = n) ∧
  (¬exact → n.2 &&& flOverflow = 0 →
    res.2 = n.2 ||| flInexact ∧ (res.1 = n.1 ∨ nearEnough r k a (Fmt.f32.decode res.1) = true))

/-- The operand form of an instruction that only computes: it reads sources, writes destinations, sets flags and pops. -/
def computeForm : Instr → Option Fire
  | .nop => some ofZ
  | .mov o | .popc o | .clz o | .abs _ o | .frcp _ o | .frsq _ o | .fexp2 _ o => some (ofU o)
  | .perm o | .and o | .or o | .xor o | .andn o | .add _ o | .sub _ o | .adds _ o | .subs _ o | .mul _ o | .mulh _ o | .mulhu _ o
  | .min _ o | .max _ o | .minu _ o | .maxu _ o | .shl _ o | .shr _ o | .sha _ o | .cmpeq _ o | .cmplt _ o | .cmpltu _ o
  | .cmple _ o | .fadd _ o | .fsub _ o | .fmul _ o | .fmin _ o | .fmax _ o | .fcmpeq _ o | .fcmplt _ o | .fcmple _ o => some (ofB o)
  | .mad _ o | .ffma _ o => some (ofBW o)
  | .sel o | .pack o | .fscl o => some (ofBF o)
  | .lane o | .unpk o | .flog2 o | .fsumr o | .fmaxr o | .isumr o | .imaxr o => some (ofUF o)
  | .bfx o | .fcvt o | .icvt o => some (ofUIF o)
  | .bfi o => some (ofUIW o)
  | .ptst o | .wid o => some (ofI o)
  | .cast o => some (ofKB o)
  | _ => none

/-- Everything outside the cells, the deferred events and the records is unchanged, and so is every cell but one. -/
def OnlyCell (c : Nat) (s t : State) : Prop :=
  (∀ d, d ≠ c → t.cell d = s.cell d) ∧ t.mem = s.mem ∧ t.memKey = s.memKey ∧ t.poison = s.poison ∧ t.llc = s.llc ∧
    t.keySlots = s.keySlots ∧ t.quays = s.quays ∧ t.pilots = s.pilots ∧ t.beacons = s.beacons ∧ t.parts = s.parts ∧ t.vds = s.vds ∧
    t.regions = s.regions ∧ t.saves = s.saves ∧ t.reqs = s.reqs ∧ t.arbs = s.arbs ∧ t.ports = s.ports ∧ t.host = s.host ∧
    t.clk = s.clk ∧ t.phase = s.phase ∧ t.inputs = s.inputs ∧ t.acts = s.acts ∧ t.agenda = s.agenda ∧ t.fresh = s.fresh

/-- A destination that is an out port. -/
def isPort : Dst → Bool
  | .out _ => true
  | _ => false

/-- A context's image: what a region's load sets and no firing changes. -/
def SameImage (x y : Ctx) : Prop :=
  y.trig = x.trig ∧ y.inst = x.inst ∧ y.lits = x.lits ∧ y.routes = x.routes ∧ y.binds = x.binds ∧ y.conf = x.conf ∧ y.ctl = x.ctl

/-- An instruction fires from a state as an operand form says, with a payload and a tag of its own and no flag, after a change of its
cell. -/
def FiresTag (i : Instr) (s : State) (f : Fire) (v : Wide) (tag : Tag) (upd : Cell → Cell) : Prop :=
  exec i s = .next ((s.modCell s.curCell upd).finish f f.popped v tag 0)

/-- The schedule and the records grow by what is listed; nothing else is put on its way. -/
def Schedules (s t : State) (l : List Pend) : Prop := t.pend = s.pend ++ l ∧ t.passes = s.passes
def Records (s t : State) (l : List Rec) : Prop := t.records = s.records ++ l

/-- The cell whose slot has its turn, in a state. -/
def cur (s : State) : Cell := s.cell s.curCell

/-- Two strips with a sealed seam between them: they are of different partitions, or the second is released (15 R333, R335). -/
def Sealed (s : State) (a b : Nat) : Prop := s.partOf a ≠ s.partOf b ∨ b ∈ s.host.released

/-- What leaves a cell for a cell of another strip is event e where the seam is open, else an isolation error (15 R346; log 93). -/
def Reaches (s : State) (c d : Nat) (ev e : Instr) : Prop :=
  (¬Sealed s (cellStrip c) (cellStrip d) → e = ev) ∧
  (Sealed s (cellStrip c) (cellStrip d) → ∃ m, e = .isolationError (.strip (cellStrip d), m))

/-- A token of cell c is on its way to cell d, where it is the event given: within a die it comes when the latency of its route is over
(06 R145, 14 R321); on its way to another die it still has every die boundary to pass, and comes no earlier (14 R325). -/
def Flies (s t : State) (c d lat : Nat) (ev : Instr) (pay : Wide) : Prop :=
  let sub := (lane pay 0).toNat % 65536
  (cellStrip c / 12 = cellStrip d / 12 → ∃ p ∈ t.pend, p.due = s.clk + lat ∧ p.cls = clsArrive ∧ p.sub = sub ∧ Reaches s c d ev p.ev) ∧
  (cellStrip c / 12 ≠ cellStrip d / 12 → ∃ p ∈ t.passes, p.since = s.clk ∧ p.lat = lat ∧ p.cls = clsArrive ∧
    p.sub = sub ∧ p.vd = s.cellVd c ∧ p.todo = boundaries (cellStrip c) (cellStrip d) ∧ ∃ e, p.ev = some e ∧ Reaches s c d ev e)

/-- A token is on its way to slot `off` of the berth of out port n of the firing cell. -/
def OnWay (s t : State) (n : Fin 4) (off : Nat) (k : Token) : Prop :=
  let d := s.routeCell s.curCell (cur s).actx n
  Flies s t s.curCell d (routeLat s.curCell d) (.tokenArrival d (rtCtx (cur s).ctx.routes[n]).val
    (rtPort (cur s).ctx.routes[n]).val ((cur s).ctx.hands[n].base + off) k) k.pay

/-- A token leaves for each slot listed (out port and offset), and nothing else is put on its way or scheduled. -/
def Leaves (s t : State) (l : List (Fin 4 × Nat)) (k : Token) : Prop :=
  s.pend <+: t.pend ∧ s.passes <+: t.passes ∧
  t.pend.length + t.passes.length = s.pend.length + s.passes.length + l.length ∧ ∀ x ∈ l, OnWay s t x.1 x.2 k

/-- Nothing is put on its way or scheduled. -/
def Quiet (s t : State) : Prop := t.pend = s.pend ∧ t.passes = s.passes

/-- A memory access of a virtual device is put on its way from a quay under request class 0: it joins the queue of every arbiter that it
crosses, its home slice's among them, and comes to its event (15 R339 to R341); before it nothing but lines' write-backs. -/
def Sends (s t : State) (vd pa : Nat) (ev : Instr) : Prop :=
  t.pend = s.pend ∧ ∃ l p, t.passes = s.passes ++ l ++ [p] ∧ (∀ q ∈ l, q.ev = none) ∧ p.ev = some ev ∧ p.vd = vd ∧ p.rclass = 0 ∧
    p.since = s.clk ∧ p.queued = false ∧ (0, s.home pa, 1) ∈ p.todo

/-- The payloads and tokens that a slot reads. -/
def payOf (s : State) (x : Sel) : Wide := ((cur s).src x).pay
def tokOf (s : State) (x : Sel) : Token := (cur s).src x

/-- A side after a header image is applied, given the other side's class if it counts (04 R106, R107; 07 R176). -/
def HeaderApplied (d : Decoder) (h : Word) (cls : Option Nat) (r : Decoder × Flags) : Prop :=
  let good : Prop := h.extractLsb' 4 4 = 0 ∧ h.extractLsb' 24 8 = 0 ∧ h.toNat % 16 ∈ [0, 1, 2, 8, 12] ∧
    (h.toNat % 16 ≠ 0 → h.extractLsb' 8 8 = 0) ∧
    (h.toNat % 16 = 0 → h.extractLsb' 8 3 ≠ 0 ∧ h.extractLsb' 13 3 = 0) ∧
    ∀ k, cls = some k → k = if h.toNat % 16 ∈ [1, 2] then 16 else 8
  (good → r = (⟨h.extractLsb' 0 4, h.extractLsb' 8 8, h.extractLsb' 16 8, false⟩, 0)) ∧ (¬good → r = ({ d with bad := true }, flInvalid))

/-- A deferred result goes where its firing says: a register, or the next slot of the berth of an out port, with the out tag (08 R195). -/
def Reserved (s : State) (f : Fire) (w : DefW) : Prop :=
  w.tag = (cur s).outTag f ∧ (∀ i, f.x = .w i → w.x = .reg i) ∧
  ∀ n, f.x = .out n → w.x = .out (s.routeCell s.curCell (cur s).actx n) (rtCtx (cur s).ctx.routes[n]).val
    (rtPort (cur s).ctx.routes[n]).val ((cur s).ctx.hands[n].base + (cur s).ctx.hands[n].wr)
    (routeLat s.curCell (s.routeCell s.curCell (cur s).actx n))

/-- A firing issues a request as the last of the requests: its cell, what it does, its address and key, its order, and the results it
carries; only a read that shares the answer of one before it is served at once (log 12). Requests issued before stay, the cell counts one more outstanding, and memory is as it was (08 R194, R195). -/
def Asks (s t : State) (k : ReqKind) (pa : Nat) (key : BitVec 6) (ord : Bool) (res : List (DefW × Option Wide)) : Prop :=
  (∃ l r, t.reqs = l ++ [r] ∧ r.cell = s.curCell ∧ r.kind = k ∧ r.pa = pa ∧ r.key = key ∧ r.ord = ord ∧ r.res = res ∧
    (r.served = true → ∃ g ∈ s.reqs, g.kind = .read ∧ g.pa = pa ∧ g.served = true ∧ r.ans = g.ans) ∧ r.since = s.clk ∧
    r.vd = s.cellVd s.curCell) ∧
  (∀ q ∈ s.reqs, q.id < s.seqNo → q ∈ t.reqs) ∧ t.mem = s.mem ∧ t.memKey = s.memKey ∧
  (t.cell s.curCell).outOrd = (cur s).outOrd + (if ord then 1 else 0) ∧
  (t.cell s.curCell).outUnord = (cur s).outUnord + (if ord then 0 else 1)

/-- An instruction stops its cell before its firing with a cause and a detail, and has no other effect on it. -/
def StopsWith (i : Instr) (s : State) (cause detail : Nat) : Prop :=
  Answers i s fun t =>
    (t.cell s.curCell).stop.stopped = true ∧ (t.cell s.curCell).stop.cause = BitVec.ofNat 8 cause ∧
    (t.cell s.curCell).ctxs = (cur s).ctxs ∧ (t.cell s.curCell).w = (cur s).w ∧ (t.cell s.curCell).store = (cur s).store ∧
    t.reqs = s.reqs ∧ t.mem = s.mem ∧ Quiet s t ∧
    ∃ r, Records s t [r] ∧ r.body.extractLsb' 0 8 = 6#8 ∧ r.body.extractLsb' 64 8 = BitVec.ofNat 8 cause ∧
      r.body.extractLsb' 72 8 = BitVec.ofNat 8 detail

/-- The handle that a quay access names, its operand form and its span (08 R198, R199, R203). -/
def accessOf (s : State) : Instr → Option (Fire × Word × Span)
  | .qld o => some (ofB o, lane (payOf s o.a) 0,
      ⟨((lane (payOf s o.a) 0).toNat % 65536 + (lane (payOf s o.b) 0).toNat) % 2 ^ 32, 32, 32, true, false⟩)
  | .qst o => some (ofB o, lane (payOf s o.a) 0, ⟨(lane (payOf s o.a) 0).toNat % 65536, 32, 32, false, true⟩)
  | .qatm o =>
    let z := if o.y.val / 16 % 2 = 1 then 8 else 4
    some (ofBF o, lane (payOf s o.a) 0, ⟨(lane (payOf s o.a) 0).toNat % 65536, z, z, true, true⟩)
  | _ => none

/-- The frame-window entry that a handle names (08 R190, R191). -/
def fwOf (s : State) (h : Word) : Fw := (cur s).fw[Fin.ofNat 16 (h.toNat / 65536 % 16)]

/-- Room for one more outstanding request (08 R194). -/
def HasRoom (s : State) (ord : Bool) : Prop := if ord then (cur s).outOrd < 1023 else (cur s).outUnord < 1023

/-- A turn answers a next state of which P holds. -/
def Answers' (o : Out) (P : State → Prop) : Prop := ∃ t, o = .next t ∧ P t

/-- A table in ascending order of its numbers. -/
def Sorted {α : Type} (t : Tbl α) : Prop := t.Pairwise fun x y => x.1 < y.1

/-- The instructions that user mode may not execute whatever their operands (09 R236, R239 to R250). -/
def supervisorOnly : Instr → Bool
  | .sysEret | .sysIdle | .sysHalt | .sysTlbinv _ | .csrWr _ | .csrSet _ | .csrClr _ | .fabRload _ | .fabRstart _ | .fabRstop _
  | .fabRsave _ | .fabRrest _ | .fabRkill _ | .fabRplace _ | .fabRstat _ | .chnChopen _ | .chnChclose _ | .bcnPreempt _
  | .mapBlkset _ | .qosSlset _ | .qosLend _ | .evqPop _ | .evqPeek _ | .evqAck _ => true
  | _ => false

/-- The FAB commands on a region id: gd and ga. -/
def regionCommand : Instr → Option (Fin 32 × Fin 32)
  | .fabRstart o | .fabRstop o | .fabRkill o | .fabRstat o => some (o.d, o.a)
  | .fabRsave o | .fabRrest o | .fabRplace o => some (o.d, o.a)
  | _ => none

/-- The commands (09 R239): all wait until the pilot's stores are acknowledged. -/
def isCommand : Instr → Bool
  | .fabRload _ | .fabRstart _ | .fabRstop _ | .fabRsave _ | .fabRrest _ | .fabRkill _ | .fabRplace _ | .fabRstat _
  | .chnChopen _ | .chnChclose _ | .chnChcloseFree _ | .chnChput _ | .chnChtake _ | .chnChstat _
  | .bcnArrive _ | .bcnWait _ | .bcnReduceAnd _ | .bcnReduceOr _ | .bcnReduceMax _ | .bcnCast _ | .bcnCastConfigure _ | .bcnRead _
  | .bcnPreempt _ | .mapBlkref _ | .mapBlkrel _ | .mapBlkset _ | .mapBlkget _ | .qosSlset _ | .qosSlget _ | .qosLend _ | .evqPop _ | .evqPeek _ | .evqAck _ => true
  | _ => false

/-- The states in which a FAB command is accepted (09 R242). -/
def acceptedIn (i : Instr) (st : RState) : Bool :=
  match i with
  | .fabRstart _ => st == .loaded || st == .stopped
  | .fabRstop _ => st == .running
  | .fabRsave _ => st == .stopped
  | .fabRrest _ | .fabRplace _ => st == .saved
  | .fabRkill _ => !(st == .free || st == .killing)
  | _ => true

/-- The channel operand of a BCN command. -/
def beaconCommand : Instr → Option (Fin 32)
  | .bcnArrive o => some o.a
  | .bcnWait o | .bcnCast o | .bcnRead o | .bcnPreempt o | .bcnCastConfigure o => some o.a
  | .bcnReduceAnd o | .bcnReduceOr o | .bcnReduceMax o => some o.a
  | _ => none

/-- The rows of the opcode table that are events: what units do of themselves, and what comes from outside. -/
def isEvent : Instr → Bool
  | .illegalInstruction .. | .eventInterrupt .. | .wfeTimeout .. | .pilotAccessComplete .. | .tokenArrival .. | .markerJoin ..
  | .hardwareMarkerForward .. | .countTrigger .. | .switchCompletion .. | .berthRequestArrival .. | .roadsteadEntry ..
  | .allocatorGrant .. | .grantArrival .. | .dlyDeferredWrite .. | .drainTokenWrite .. | .regionCompletionEvent ..
  | .beaconArrivalAtRoot .. | .releaseAtStrip .. | .broadcastAtStrip .. | .eventRecordPost .. | .translationStart .. | .walkReadReply ..
  | .accessedDirtyUpdate .. | .frameWindowRefill .. | .blockMapLookup .. | .sliceServe .. | .requestCompletion .. | .coalesceTimeout ..
  | .handInstall .. | .flushResult .. | .channelAllocation .. | .channelWriteToken .. | .channelReadServe .. | .basinMoveStart ..
  | .basinMoveLand .. | .basinAccessReissue .. | .spliceComplete .. | .blockMapOpServe .. | .freeFramePush .. | .dredgerRound ..
  | .dredgerSample .. | .dredgerResult .. | .quantumExpiry .. | .preemptSignal .. | .readPhaseEnd .. | .haltComplete .. | .loadingEnd ..
  | .saveComplete .. | .restoreComplete .. | .killComplete .. | .notifyWrite .. | .pfnotifyWrite .. | .hostMemoryRead ..
  | .hostMemoryWrite .. | .hostChannelWrite .. | .pfvdWrite .. | .shadowCopyStart .. | .shadowCopyDone .. | .hblossClear ..
  | .isoerrRead .. | .pfdropsRead .. | .dropsRead .. | .registerWrite .. | .powerGood .. | .linkActive .. | .powerStateEntry ..
  | .powerStateWake .. | .getVersion .. | .getCapabilities .. | .negotiateAlgorithms .. | .getDigests .. | .getCertificate ..
  | .challenge .. | .getMeasurements .. | .keyExchange .. | .finish .. | .endSession .. | .ideKmExchange .. | .startInterfaceRequest ..
  | .ideIntegrityFailure .. | .seawayPortTraining .. | .heartbeatSend .. | .heartbeatLoss .. | .seawayRowReceive .. | .parkedRowRetry ..
  | .remoteWriteCompletion .. | .ackTimeout .. | .acknowledgementReceive .. | .sendQueueTailStore .. | .seawayRowSend ..
  | .seawayKeyLoad .. | .receiveTableWrite .. | .correctableError .. | .uncorrectableError .. | .beaconUncorrectableError ..
  | .isolationError .. | .linkCrcReplay .. | .partitionForm .. | .stripRelease .. | .stripOnline .. | .placeMapWrite .. | .vdCreate ..
  | .vdDestroy .. | .keySlotLoad .. | .supervisorPilotNamed .. | .pilotOnline .. | .berthWaySet .. | .moduleReset .. | .arbitration ..
  | .stickyFlagClear .. | .tdiLock .. | .tdiUnlock .. | .linkLeavesDlActive .. | .firmwareImageStaging .. | .sendQueuePlace ..
  | .partitionRemove .. => true
  | _ => false

end Sys2Proof
end

