-- ==== Sys2Proof/Certificates/Slice0/Obligations.lean ====
section
/-! DEFINITION. The statements for the provers, by family of the opcode table. -/

open Sys2Proof Sys2Proof.Machine

/-! Cell instructions: results. Each statement says that the instruction completes whenever its slot is ready, and with what result
and flags; what the end of a firing writes is stated apart. -/

/-- 05 R123 to R126: the untyped instructions NOP to CLZ. 05 R127: PACK narrows the elements of A, then of B; UNPK widens half of A. `n` is the wide
width. -/
def Obligations.UntypedInstructionResults : Prop :=
  (
    FiresWith .nop ofZ (fun _ _ _ _ fl => fl = 0) ∧
    (∀ o, FiresWith (.mov o) (ofU o) fun _ a _ v fl => fl = 0 ∧ v = a) ∧
    (∀ o : OpBF, o.y.val < 8 → FiresWith (.sel o) (ofBF o) fun c a b v fl =>
      fl = 0 ∧ v = if c.p.getLsbD o.y.val then a else b) ∧
    (∀ o : OpBF, 8 ≤ o.y.val → FiresWith (.sel o) (ofBF o) fun c a b v fl =>
      fl = 0 ∧ Each 32 v fun l => if c.p.getLsbD l then elt 32 a l else elt 32 b l) ∧
    (∀ o, FiresWith (.lane o) (ofUF o) fun _ a _ v fl => fl = 0 ∧ Each 32 v fun _ => lane a o.y.val) ∧
    (∀ o, FiresWith (.perm o) (ofB o) fun _ a b v fl =>
      fl = 0 ∧ Each 8 v fun j => if (elt 8 b j).getLsbD 7 then 0 else elt 8 a ((elt 8 b j).toNat % 32)) ∧
    (∀ o, FiresWith (.and o) (ofB o) fun _ a b v fl => fl = 0 ∧ v = a &&& b) ∧
    (∀ o, FiresWith (.or o) (ofB o) fun _ a b v fl => fl = 0 ∧ v = a ||| b) ∧
    (∀ o, FiresWith (.xor o) (ofB o) fun _ a b v fl => fl = 0 ∧ v = a ^^^ b) ∧
    (∀ o, FiresWith (.andn o) (ofB o) fun _ a b v fl => fl = 0 ∧ v = a &&& ~~~b) ∧
    (∀ o, FiresWith (.bfx o) (ofUIF o) fun _ a _ v fl => fl = 0 ∧ ∀ l < 8, ∀ j < 32,
      (elt 32 v l).getLsbD j = (decide (j ≤ o.y.val) && (elt 32 a l).getLsbD (o.b.val + j))) ∧
    (∀ o, FiresWith (.bfi o) (ofUIW o) fun c a _ v fl => fl = 0 ∧ ∀ l < 8, ∀ j < 32,
      (elt 32 v l).getLsbD j =
        if o.b.val ≤ j ∧ j ≤ o.b.val + o.y.val then (elt 32 a l).getLsbD (j - o.b.val) else (elt 32 c.w[o.x] l).getLsbD j) ∧
    (∀ o, FiresWith (.popc o) (ofU o) fun _ a _ v fl => fl = 0 ∧ ∀ l < 8,
      (elt 32 v l).toNat = (List.range 32).countP fun j => (elt 32 a l).getLsbD j) ∧
    (∀ o, FiresWith (.clz o) (ofU o) fun _ a _ v fl => fl = 0 ∧ ∀ l < 8, (elt 32 v l).toNat ≤ 32 ∧
      (∀ j < 32, 32 - (elt 32 v l).toNat ≤ j → (elt 32 a l).getLsbD j = false) ∧
      ((elt 32 v l).toNat < 32 → (elt 32 a l).getLsbD (31 - (elt 32 v l).toNat) = true))) ∧
  (
    (∀ (o : OpBF) (n : Nat), (o.y.val % 4, n) ∈ [(1, 16), (2, 32), (3, 64)] → o.y.val < 12 →
      FiresWith (.pack o) (ofBF o) fun _ a b v fl =>
        let r (x : BitVec n) : BitVec (n / 2) × Flags :=
          if o.y.val / 4 = 0 then (x.setWidth (n / 2), 0) else sat (n / 2) (o.y.val / 4 == 1) x.toInt
        (∀ k < 256 / n, elt (n / 2) v k = (r (elt n a k)).1 ∧ elt (n / 2) v (256 / n + k) = (r (elt n b k)).1) ∧
        ∀ f, fl.getLsbD f = (List.range (256 / n)).any fun k => (r (elt n a k)).2.getLsbD f || (r (elt n b k)).2.getLsbD f) ∧
    (∀ (o : OpUF) (n : Nat), (o.y.val % 4, n) ∈ [(1, 16), (2, 32), (3, 64)] → o.y.val < 16 →
      FiresWith (.unpk o) (ofUF o) fun _ a _ v fl => fl = 0 ∧ Each n v fun k =>
        let x := elt (n / 2) a (o.y.val / 8 * (256 / n) + k)
        if o.y.val / 4 % 2 = 1 then x.signExtend n else x.setWidth n))

/-- 05 R128, R129: the integer instructions that set no flag. 05 R128, R129: ADDS, SUBS and ABS clamp to the signed format, and set saturation when
an element is clamped. -/
def Obligations.IntegerInstructionResults : Prop :=
  (
    IntegerOp .add (fun _ x y => x + y) ∧ IntegerOp .sub (fun _ x y => x - y) ∧ IntegerOp .mul (fun _ x y => x * y) ∧
    IntegerOp .mulh (fun n x y => BitVec.ofInt n (x.toInt * y.toInt / (2 ^ n : Nat))) ∧
    IntegerOp .mulhu (fun n x y => BitVec.ofNat n (x.toNat * y.toNat / 2 ^ n)) ∧
    IntegerOp .min (fun n x y => BitVec.ofInt n (min x.toInt y.toInt)) ∧
    IntegerOp .max (fun n x y => BitVec.ofInt n (max x.toInt y.toInt)) ∧
    IntegerOp .minu (fun n x y => BitVec.ofNat n (min x.toNat y.toNat)) ∧
    IntegerOp .maxu (fun n x y => BitVec.ofNat n (max x.toNat y.toNat)) ∧
    IntegerOp .shl (fun n x y => if y.toNat < n then BitVec.ofNat n (x.toNat * 2 ^ y.toNat) else 0) ∧
    IntegerOp .shr (fun n x y => if y.toNat < n then BitVec.ofNat n (x.toNat / 2 ^ y.toNat) else 0) ∧
    IntegerOp .sha (fun n x y => BitVec.ofInt n
      (if y.toNat < n then x.toInt / (2 ^ y.toNat : Nat) else if x.toInt < 0 then -1 else 0)) ∧
    IntegerOp .cmpeq (fun n x y => if x = y then BitVec.allOnes n else 0) ∧
    IntegerOp .cmplt (fun n x y => if x.toInt < y.toInt then BitVec.allOnes n else 0) ∧
    IntegerOp .cmpltu (fun n x y => if x.toNat < y.toNat then BitVec.allOnes n else 0) ∧
    IntegerOp .cmple (fun n x y => if x.toInt ≤ y.toInt then BitVec.allOnes n else 0) ∧
    (∀ e o, FiresWith (.mad e o) (ofBW o) fun c a b v fl => fl = 0 ∧ Each (width e) v fun k =>
      elt (width e) c.w[o.x] k + elt (width e) a k * elt (width e) b k)) ∧
  (
    let clamp (n : Nat) (z : Int) : BitVec n := BitVec.ofInt n (max (-(2 ^ (n - 1) : Nat)) (min ((2 ^ (n - 1) : Nat) - 1) z))
    let past (n : Nat) (z : Int) : Bool := z < -(2 ^ (n - 1) : Nat) || (2 ^ (n - 1) : Nat) - 1 < z
    let is (e : ITy) (v : Wide) (fl : Flags) (g : Nat → Int) : Prop :=
      (Each (width e) v fun k => clamp (width e) (g k)) ∧
        fl = if (List.range (256 / width e)).any fun k => past (width e) (g k) then flSat else 0
    (∀ e o, FiresWith (.adds e o) (ofB o) fun _ a b v fl =>
      is e v fl fun k => (elt (width e) a k).toInt + (elt (width e) b k).toInt) ∧
    (∀ e o, FiresWith (.subs e o) (ofB o) fun _ a b v fl =>
      is e v fl fun k => (elt (width e) a k).toInt - (elt (width e) b k).toInt) ∧
    (∀ e o, FiresWith (.abs e o) (ofU o) fun _ a _ v fl => is e v fl fun k => ((elt (width e) a k).toInt.natAbs : Int)))

/-- 05 R130 to R132: the float instructions. Sums, differences and products are rounded once from the exact value. 05 R131: special operands of FADD,
FSUB, FMUL and FFMA, by element. A NaN gives the canonical NaN, and a signalling one sets invalid; ∞ − ∞ and 0 × ∞ give NaN and set invalid; other
infinities are exact and set no flag. -/
def Obligations.FloatInstructionResults : Prop :=
  (
    FloatOp .fadd (fun f m x y => rounded f m (fvAdd m (f.decode x) (f.decode y))) ∧
    FloatOp .fsub (fun f m x y => rounded f m (fvAdd m (f.decode x) (f.decode y).neg)) ∧
    FloatOp .fmul (fun f m x y => rounded f m (fvMul (f.decode x) (f.decode y))) ∧
    (∀ e o, FiresWith (.ffma e o) (ofBW o) fun c a b v fl =>
      let f := FTy.fmt c e
      FloatEach f v fl fun k =>
        let p := fvMul (f.decode (eltN f.width a k)) (f.decode (eltN f.width b k))
        let r := fvAdd c.mode p.1 (f.decode (eltN f.width c.w[o.x] k))
        rounded f c.mode (r.1, p.2 ||| r.2)) ∧
    FloatOp .fmin (fun f _ x y =>
      if (f.decode x).isNan || (f.decode y).isNan then
        (f.nan, flIf ((f.decode x).isSnan || (f.decode y).isSnan) flInvalid)
      else (if fvBelow (f.decode y) (f.decode x) then y else x, 0)) ∧
    FloatOp .fmax (fun f _ x y =>
      if (f.decode x).isNan || (f.decode y).isNan then
        (f.nan, flIf ((f.decode x).isSnan || (f.decode y).isSnan) flInvalid)
      else (if fvBelow (f.decode x) (f.decode y) then y else x, 0)) ∧
    FloatOp .fcmpeq (fun f _ x y =>
      let a := f.decode x
      let b := f.decode y
      (if !a.isNan && !b.isNan && fvEq a b then 2 ^ f.width - 1 else 0, flIf (a.isSnan || b.isSnan) flInvalid)) ∧
    FloatOp .fcmplt (fun f _ x y =>
      let a := f.decode x
      let b := f.decode y
      (if !a.isNan && !b.isNan && fvLt a b then 2 ^ f.width - 1 else 0, flIf (a.isNan || b.isNan) flInvalid)) ∧
    FloatOp .fcmple (fun f _ x y =>
      let a := f.decode x
      let b := f.decode y
      (if !a.isNan && !b.isNan && (fvLt a b || fvEq a b) then 2 ^ f.width - 1 else 0, flIf (a.isNan || b.isNan) flInvalid))) ∧
  (
    ∀ (f : Fmt) (m : Nat),
      (∀ x y, (f.decode x).isNan ∨ (f.decode y).isNan →
        faddOp f m x y = (f.nan, flIf ((f.decode x).isSnan || (f.decode y).isSnan) flInvalid) ∧
        fsubOp f m x y = (f.nan, flIf ((f.decode x).isSnan || (f.decode y).isSnan) flInvalid) ∧
        fmulOp f m x y = (f.nan, flIf ((f.decode x).isSnan || (f.decode y).isSnan) flInvalid)) ∧
      (∀ x y n, f.decode x = .inf n → f.decode y = .inf (!n) → faddOp f m x y = (f.nan, flInvalid)) ∧
      (∀ x y n, f.decode x = .inf n → f.decode y = .inf n → fsubOp f m x y = (f.nan, flInvalid)) ∧
      (∀ x y w, (f.decode x).isNan ∨ (f.decode y).isNan ∨ (f.decode w).isNan →
        (ffmaOp f m x y w).1 = f.nan ∧ ((f.decode x).isSnan ∨ (f.decode y).isSnan ∨ (f.decode w).isSnan →
          (ffmaOp f m x y w).2 = flInvalid)) ∧
      (∀ x y w n z k e p, f.decode x = .inf n → (f.decode y = .inf z ∨ f.decode y = .fin z (k + 1) e) → f.decode w = .inf p →
        (p ≠ (n != z) → ffmaOp f m x y w = (f.nan, flInvalid)) ∧
        (p = (n != z) → (ffmaOp f m x y w) = f.put m (.inf p))) ∧
      (∀ x y n z e, f.decode x = .inf n → f.decode y = .fin z 0 e →
        fmulOp f m x y = (f.nan, flInvalid) ∧ fmulOp f m y x = (f.nan, flInvalid) ∧
        ∀ w, (ffmaOp f m x y w).1 = f.nan ∧ (ffmaOp f m x y w).2.getLsbD 0 = true) ∧
      (∀ x y n z k e, f.decode x = .inf n → f.decode y = .fin z (k + 1) e →
        fvAdd m (f.decode x) (f.decode y) = (.inf n, 0) ∧ fvMul (f.decode x) (f.decode y) = (.inf (n != z), 0)) ∧
      (∀ x y z e e', f.decode x = .fin z 0 e → f.decode y = .fin z 0 e' → faddOp f m x y = (f.zero z, 0)) ∧
      (∀ x y k e, f.decode x = .fin false (k + 1) e → f.decode y = .fin true (k + 1) e →
        faddOp f m x y = (f.zero (m == 3), 0)))

/-- 04 R98 to R101: rounding. A finite nonzero value goes to the grid point that its mode chooses, on the grid of its binade or, below
2^emin, of the subnormals; off the grid it is inexact, and below 2^emin an underflow; past the largest finite value it overflows. A
negative value for an unsigned format is rounded in magnitude with the mode mirrored, and is a NaN and invalid unless it comes to zero.
A36 has no subnormal grid: what is below 2^emin after rounding is a zero. The largest finite values are those the rules name. -/
def Obligations.RoundingToAFormat : Prop :=
  (∀ (f : Fmt) (mode : Nat) (neg : Bool) (m : Nat) (e : Int), elementFmt f → m ≠ 0 →
    let top : Int := m.log2 + e
    let q : Int := max top f.emin - f.prec + 1
    let gives (mode : Nat) (neg : Bool) (r : Nat × Flags) : Prop :=
      let g := gridSteps mode neg m e q
      StepsTo f mode neg g.1 q (flIf g.2 flInexact ||| flIf (g.2 && decide (top < f.emin)) flUnderflow) r
    (f.isUnsigned = false ∨ neg = false → gives mode neg (f.put mode (.fin neg m e))) ∧
    (f.isUnsigned = true → neg = true → ∃ r, gives (match mode with | 2 => 3 | 3 => 2 | k => k) false r ∧
      f.put mode (.fin neg m e) = if r.1 = 0 then r else (f.nan, flInvalid))) ∧
  (∀ (mode : Nat) (neg : Bool) (m : Nat) (e : Int), m ≠ 0 →
    let q : Int := (m.log2 : Int) + e - 27
    let g := gridSteps mode neg m e q
    (LessValue g.1 q 1 (-126) → Fmt.a36.roundFlush mode neg m e = (Fmt.a36.zero neg, flUnderflow ||| flInexact)) ∧
    (¬LessValue g.1 q 1 (-126) → StepsTo .a36 mode neg g.1 q (flIf g.2 flInexact) (Fmt.a36.roundFlush mode neg m e))) ∧
  (∀ (f : Fmt) (mode : Nat) (neg : Bool) (e : Int), f.put mode (.fin neg 0 e) = (f.zero neg, 0)) ∧
  Fmt.bf16.decode Fmt.bf16.maxCode = .fin false (2 ^ 8 - 1) 120 ∧ Fmt.f16.decode Fmt.f16.maxCode = .fin false (2 ^ 11 - 1) 5 ∧
  Fmt.f32.decode Fmt.f32.maxCode = .fin false (2 ^ 24 - 1) 104 ∧ Fmt.a36.decode Fmt.a36.maxCode = .fin false (2 ^ 28 - 1) 100

/-- 05 R133, R134: the transcendentals complete element by element, and their special operands; in a binary8 format an infinity clamps where
the format is finite, and a negative result of an unsigned one is NaN and invalid. Of other operands the narrow formats round a value in the
unit in which the model finds the exact result, and f32 gives a free value within the rule's bounds of that unit (log 10). The unit is stated
by the integers that enclose the result for FRCP and FRSQ, and is the model's `exp2Real` and `log2Real` for the other two, which are exact
where the result is an integer power, or an integer. -/
def Obligations.TranscendentalResults : Prop :=
  (∀ e o, FiresWith (.frcp e o) (ofU o) fun c a _ v fl =>
    FloatEach (FTy.fmt c e) v fl fun k => frcpOp (FTy.fmt c e) c.mode (eltN (FTy.fmt c e).width a k)) ∧
  (∀ e o, FiresWith (.frsq e o) (ofU o) fun c a _ v fl =>
    FloatEach (FTy.fmt c e) v fl fun k => frsqOp (FTy.fmt c e) c.mode (eltN (FTy.fmt c e).width a k)) ∧
  (∀ e o, FiresWith (.fexp2 e o) (ofU o) fun c a _ v fl =>
    FloatEach (FTy.fmt c e) v fl fun k => fexp2Op (FTy.fmt c e) c.mode (eltN (FTy.fmt c e).width a k)) ∧
  (∀ o, FiresWith (.flog2 o) (ofUF o) fun c a _ v fl =>
    let f := fmtOfCode c o.y.val
    FloatEach f v fl fun k => flog2Op f c.mode (eltN f.width a k)) ∧
  (∀ (f : Fmt) (m x : Nat), (f.decode x).isNan →
    let r := (f.nan, flIf (f.decode x).isSnan flInvalid)
    frcpOp f m x = r ∧ frsqOp f m x = r ∧ fexp2Op f m x = r ∧ flog2Op f m x = r) ∧
  (∀ (f : Fmt) (m x : Nat) (n : Bool) (e : Int), f.isB8 = false → f.decode x = .fin n 0 e →
    frcpOp f m x = (f.signed n f.infCode, flDivZero) ∧ frsqOp f m x = (f.signed n f.infCode, flDivZero) ∧
      fexp2Op f m x = f.round m false 1 0 false ∧ flog2Op f m x = (f.signed true f.infCode, flDivZero)) ∧
  (∀ (f : Fmt) (m x : Nat), f.isB8 = false → f.decode x = .inf false →
    frcpOp f m x = (f.zero false, 0) ∧ frsqOp f m x = (f.zero false, 0) ∧ fexp2Op f m x = (f.signed false f.infCode, 0) ∧
      flog2Op f m x = (f.signed false f.infCode, 0)) ∧
  (∀ (f : Fmt) (m x : Nat), f.isB8 = false → f.decode x = .inf true →
    frcpOp f m x = (f.zero true, 0) ∧ frsqOp f m x = (f.nan, flInvalid) ∧ fexp2Op f m x = (f.zero false, 0) ∧
      flog2Op f m x = (f.nan, flInvalid)) ∧
  (∀ (f : Fmt) (m x k : Nat) (e : Int), f.decode x = .fin true (k + 1) e →
    frsqOp f m x = (f.nan, flInvalid) ∧ flog2Op f m x = (f.nan, flInvalid)) ∧
  (∀ (f : Fmt) (m x : Nat), f.isB8 = true → x < 256 →
    (∀ n e, f.decode x = .fin n 0 e →
      frcpOp f m x = (if f.isFinite then (f.maxCode, flSat ||| flDivZero) else (f.infCode, flDivZero)) ∧
      frsqOp f m x = frcpOp f m x ∧ fexp2Op f m x = f.put m (.fin false 1 0) ∧
      (f.isUnsigned = false → flog2Op f m x =
        if f.isFinite then (f.signed true f.maxCode, flSat ||| flDivZero) else (f.signed true f.infCode, flDivZero)) ∧
      (f.isUnsigned = true → (flog2Op f m x).1 = f.nan ∧ (flog2Op f m x).2.getLsbD 0 = true)) ∧
    (f.decode x = .inf false → frcpOp f m x = (0, 0) ∧ frsqOp f m x = (0, 0) ∧ fexp2Op f m x = (f.infCode, 0) ∧
      flog2Op f m x = (f.infCode, 0)) ∧
    (f.decode x = .inf true → frcpOp f m x = (0, 0) ∧ frsqOp f m x = (f.nan, flInvalid) ∧ fexp2Op f m x = (0, 0) ∧
      flog2Op f m x = (f.nan, flInvalid))) ∧
  (∀ (f : Fmt) (mode x : Nat) (n : Bool) (m : Nat) (e : Int), f.decode x = .fin n (m + 1) e →
    ∃ k j : Nat, k * (m + 1) ≤ 2 ^ j ∧ 2 ^ j < (k + 1) * (m + 1) ∧ 2 ^ 199 ≤ k ∧
      let r : Real1 := ⟨n, k, -j - e, decide (k * (m + 1) ≠ 2 ^ j)⟩
      (f ≠ .f32 → frcpOp f mode x = f.round mode n k (-j - e) r.sticky) ∧
      (f = .f32 → Within r (∃ i : Nat, m + 1 = 2 ^ i ∧ -126 ≤ -(i + e) ∧ -(i + e) ≤ 127) 1
        (max (k.log2 - j - e) (-126) - 23) (frcpOp f mode x))) ∧
  (∀ (f : Fmt) (mode x m : Nat) (e : Int), f.decode x = .fin false (m + 1) e →
    ∃ (t j : Nat) (h : Int), let m1 := if e % 2 = 0 then m + 1 else 2 * (m + 1)
      2 * h = e - e % 2 ∧ t * t * m1 ≤ 2 ^ (2 * j) ∧ 2 ^ (2 * j) < (t + 1) * (t + 1) * m1 ∧ 2 ^ 199 ≤ t ∧
      let r : Real1 := ⟨false, t, -j - h, decide (t * t * m1 ≠ 2 ^ (2 * j))⟩
      (f ≠ .f32 → frsqOp f mode x = f.round mode false t (-j - h) r.sticky) ∧
      (f = .f32 → Within r (t * t * m1 = 2 ^ (2 * j)) 1 (max (t.log2 - j - h) (-126) - 23) (frsqOp f mode x))) ∧
  (∀ (f : Fmt) (mode x : Nat) (n : Bool) (m : Nat) (e : Int), f.decode x = .fin n (m + 1) e →
    let r := exp2Real n (m + 1) e
    (f ≠ .f32 → fexp2Op f mode x = f.round mode false r.m r.e r.sticky) ∧
    (f = .f32 → Within r (r.sticky = false ∧ -149 ≤ r.e ∧ r.e ≤ 127) 2 (max (r.m.log2 + r.e) (-126) - 23) (fexp2Op f mode x)) ∧
    (∀ i : Nat, SameValue (m + 1) e i 0 → i < 2 ^ 17 → r = ⟨false, 1, if n then -(i : Int) else i, false⟩)) ∧
  (∀ (f : Fmt) (mode x m : Nat) (e : Int), f.decode x = .fin false (m + 1) e →
    let r := log2Real (m + 1) e
    (f ≠ .f32 → r.m ≠ 0 ∨ r.sticky = true → flog2Op f mode x = f.round mode r.neg r.m r.e r.sticky) ∧
    (f = .f32 → r.m ≠ 0 ∨ r.sticky = true →
      (nearOne (m + 1) e = true → Within r (r.sticky = false) 1 (-23) (flog2Op f mode x)) ∧
      (nearOne (m + 1) e = false → Within r (r.sticky = false) 2 (max (r.m.log2 + r.e) (-126) - 23) (flog2Op f mode x))) ∧
    (∀ i : Nat, m + 1 = 2 ^ i → (i + e = 0 → flog2Op f mode x = (f.zero false, 0)) ∧
      (i + e ≠ 0 → r = ⟨decide (i + e < 0), (i + e).natAbs, 0, false⟩)))

/-- 04 R105, 05 R135, R136: FCVT, ICVT and FSCL. Element k of a conversion is Convert of element k, and the elements from 256 / max(ns, nd) on are
zero. Convert puts a float or an integer into a float format by its rounding (`RoundingToAFormat`); clamps an integer to an integer format; and
takes a float to the integer that rounding on a grid of spacing 1 gives, or to the nearest limit. In FSCL a quiet NaN passes as it is (log 17). -/
def Obligations.ConversionResults : Prop :=
  (let conv (c : Cell) (i j : Nat) (a v : Wide) (fl : Flags) : Prop :=
    let ns := codeBits c i
    let nd := codeBits c j
    (∀ k, k < 256 / nd → eltN nd v k = if k < 256 / max ns nd then (convert c i j (eltN ns a k)).1 % 2 ^ nd else 0) ∧
      ∀ b, fl.getLsbD b = (List.range (256 / max ns nd)).any fun k => (convert c i j (eltN ns a k)).2.getLsbD b
  (∀ o, FiresWith (.fcvt o) (ofUIF o) fun c a _ v fl => conv c o.b.val o.y.val a v fl) ∧
  (∀ o, FiresWith (.icvt o) (ofUIF o) fun c a _ v fl => conv c o.b.val o.y.val a v fl) ∧
  (∀ o, FiresWith (.fscl o) (ofBF o) fun c a b v fl =>
    let f := fmtOfCode c o.y.val
    FloatEach f v fl fun k =>
      match f.decode (eltN f.width a k) with
      | .nan true => (f.nan, flInvalid)
      | .fin n (m + 1) e => f.round c.mode n (m + 1) (e + ((lane b 0).setWidth 16).toInt) false
      | _ => (eltN f.width a k, 0))) ∧
  (∀ (c : Cell) (i j x : Nat),
    (i < 8 → j < 8 → convert c i j x = (fmtOfCode c j).put c.mode ((fmtOfCode c i).decode x)) ∧
    (8 ≤ i → j < 8 → convert c i j x = (fmtOfCode c j).put c.mode (.fin (decide (intVal i x < 0)) (intVal i x).natAbs 0)) ∧
    (8 ≤ i → 8 ≤ j → (convert c i j x).1 = intCode (intBits j)
      (max (intLo (intBits j) (intSigned j)) (min (intHi (intBits j) (intSigned j)) (intVal i x)))) ∧
    (∀ n m e, i < 8 → 8 ≤ j → (fmtOfCode c i).decode x = .fin n m e →
      let g := gridSteps c.mode n m e 0
      let z : Int := if n then -(g.1 : Int) else g.1
      let lo := intLo (intBits j) (intSigned j)
      let hi := intHi (intBits j) (intSigned j)
      convert c i j x = if z < lo then (intCode (intBits j) lo, flInvalid ||| flSat)
        else if hi < z then (intCode (intBits j) hi, flInvalid ||| flSat) else (intCode (intBits j) z, flIf g.2 flInexact)) ∧
    (8 ≤ i → 8 ≤ j → (convert c i j x).2 = if intLo (intBits j) (intSigned j) ≤ intVal i x ∧
        intVal i x ≤ intHi (intBits j) (intSigned j) then 0 else flSat) ∧
    (∀ sg, i < 8 → 8 ≤ j → (fmtOfCode c i).decode x = .nan sg → convert c i j x = (0, flInvalid)) ∧
    (∀ n, i < 8 → 8 ≤ j → (fmtOfCode c i).decode x = .inf n →
      (convert c i j x).2 = flInvalid ||| flSat ∧
      (convert c i j x).1 = intCode (intBits j) (if n then intLo (intBits j) (intSigned j) else intHi (intBits j) (intSigned j))))

/-- 05 R137: the lane reductions. The float ones combine neighbours level by level; the integer ones are exact. 05 R138 to R140: PSET, PLOG and PTST.
A predicate that they do not name keeps its value. -/
def Obligations.ReductionAndPredicateResults : Prop :=
  (
    (∀ o, FiresWith (.fsumr o) (ofUF o) fun c a _ v fl =>
      let f := fmtOfCode c o.y.val
      (v, fl) = reduceF f (fun x y => rounded f c.mode (fvAdd c.mode (f.decode x) (f.decode y))) a) ∧
    (∀ o, FiresWith (.fmaxr o) (ofUF o) fun c a _ v fl =>
      let f := fmtOfCode c o.y.val
      (v, fl) = reduceF f (fmaxOp f c.mode) a) ∧
    (∀ o, FiresWith (.isumr o) (ofUF o) fun _ a _ v fl =>
      let z := ((List.range (256 / intBits o.y.val)).map fun k => intVal o.y.val (eltN (intBits o.y.val) a k)).foldl (· + ·) 0
      v = ((sat 64 (intSigned o.y.val) z).1).setWidth 256 ∧ fl = (sat 64 (intSigned o.y.val) z).2) ∧
    (∀ o, FiresWith (.imaxr o) (ofUF o) fun _ a _ v fl => fl = 0 ∧
      ∃ k, k < 256 / intBits o.y.val ∧
        v = BitVec.ofNat 256 (intCode (intBits o.y.val) (intVal o.y.val (eltN (intBits o.y.val) a k))) ∧
        ∀ j, j < 256 / intBits o.y.val →
          intVal o.y.val (eltN (intBits o.y.val) a j) ≤ intVal o.y.val (eltN (intBits o.y.val) a k)) ∧
    (∀ (g : Nat → Nat → Nat × Flags) (e0 e1 e2 e3 e4 e5 e6 e7 : Nat),
      (tree g 0 3 [e0, e1, e2, e3, e4, e5, e6, e7]).1 =
        (g (g (g e0 e1).1 (g e2 e3).1).1 (g (g e4 e5).1 (g e6 e7).1).1).1)) ∧
  (
    (∀ (o : OpKF) (s : State), o.y.val < 16 → (s.cell s.curCell).ready (ofKF o) = true →
      Answers (.pset o) s fun t => ∀ k < 8, (t.cell s.curCell).p.getLsbD k =
        if k = o.y.val % 8 then (if o.y.val < 8 then lane ((s.cell s.curCell).src o.a).pay 0 != 0 else lane ((s.cell s.curCell).src o.a).pay 0 == 0)
        else (s.cell s.curCell).p.getLsbD k) ∧
    (∀ (o : OpKF) (s : State), 16 ≤ o.y.val → (s.cell s.curCell).ready (ofKF o) = true →
      Answers (.pset o) s fun t => ∀ k < 8, (t.cell s.curCell).p.getLsbD k = (lane ((s.cell s.curCell).src o.a).pay k != 0)) ∧
    (∀ (o : OpPF) (s : State), Answers (.plog o) s fun t => ∀ k < 8, (t.cell s.curCell).p.getLsbD k =
      let x := (s.cell s.curCell).p.getLsbD (o.a.val % 8)
      let y := (s.cell s.curCell).p.getLsbD (o.b.val % 8)
      if k = o.y.val % 8 then
        (match o.a.val / 8 with
          | 0 => x && y
          | 1 => x || y
          | 2 => x != y
          | _ => x && !y) != (o.b.val / 8 % 2 == 1)
      else (s.cell s.curCell).p.getLsbD k) ∧
    (∀ o : OpI, FiresWith (.ptst o) (ofI o) fun c _ _ v fl => fl = 0 ∧
      v = if o.b.val < 8 then (if c.p.getLsbD o.b.val then 1 else 0) else c.p.setWidth 256))

/-! The end of a firing. -/

/-- 03 R68, 04 R102, 05 R120: what a firing writes in its cell. Flags are sticky; a wide register is replaced whole where a destination names it, and
keeps its value otherwise; pr takes bits 7:0 of lane 0; seqc advances under out-tag rule 11 alone. -/
def Obligations.FiringWritesItsDestinations : Prop :=
  ∀ (s : State) (f : Fire) (ps : List (Fin 4)) (v : Wide) (tag : Tag) (fl : BitVec 6),
    let c := s.cell s.curCell
    let d := (s.finish f ps v tag fl).cell s.curCell
    d.flags = c.flags ||| fl ∧
    (∀ i : Fin 8, d.w[i] = if f.x = .w i ∨ f.y = .w i then v else c.w[i]) ∧
    d.p = (if f.x = .pr ∨ f.y = .pr then v.setWidth 8 else c.p) ∧
    d.seqc = (if f.t = .next then c.seqc + 1 else c.seqc)

/-- 05 R120, R121: the frame of an instruction that only computes. Memory, pilots, quays and every other cell keep their state; the cell keeps its
contexts' images, its contexts that are not active, its abacus, its matrix state, its tag window, its memory counts and its handles but those of the
out ports written; nothing is scheduled or put on its way but for an out port, and no record is posted unless the cell stops. The rings of
the active context keep what they hold but for the ports popped, and their arrival counts where the slot does not count; of the store only
slots at the heads of popped ports change; only a pop of in0 counts toward a switch. -/
def Obligations.ComputeInstructionFrame : Prop :=
  ∀ (i : Instr) (f : Fire) (s t : State), computeForm i = some f → exec i s = .next t →
    let c := s.cell s.curCell
    let d := t.cell s.curCell
    OnlyCell s.curCell s t ∧
    (d.stop = c.stop → t.records = s.records ∧ d.dly = c.dly) ∧
    (isPort f.x = false → isPort f.y = false → Quiet s t ∧ t.seqNo = s.seqNo) ∧
    (∀ p : Fin 4, p ∉ f.popped → d.ctx.rings[p] = { c.ctx.rings[p] with arr := d.ctx.rings[p].arr }) ∧
    (trgCg s.trig = false → ∀ p : Fin 4, d.ctx.rings[p].arr = c.ctx.rings[p].arr) ∧
    (f.popped.Nodup → ∀ i, (∀ p ∈ f.popped, i ≠ c.headIdx c.actx p) → d.slot i = c.slot i) ∧
    (0 ∉ f.popped → d.swcnt = c.swcnt) ∧ d.lands = c.lands ∧ d.ctx.fan = c.ctx.fan ∧ d.ctx.fptr = c.ctx.fptr ∧
    d.region = c.region ∧ d.cfmt = c.cfmt ∧ d.ab = c.ab ∧ d.actx = c.actx ∧ d.swPend = c.swPend ∧ d.swTgt = c.swTgt ∧ d.mx = c.mx ∧
    d.road = c.road ∧ d.outside = c.outside ∧ d.bcred = c.bcred ∧ d.raceLatch = c.raceLatch ∧ d.raceCnt = c.raceCnt ∧
    d.tagNext = c.tagNext ∧ d.tagOld = c.tagOld ∧ d.tagSize = c.tagSize ∧ d.tagMap = c.tagMap ∧ d.evtBusy = c.evtBusy ∧
    d.arrBits = c.arrBits ∧ d.fw = c.fw ∧ d.coal = c.coal ∧ d.outOrd = c.outOrd ∧ d.outUnord = c.outUnord ∧ d.owned = c.owned ∧
    d.trans = c.trans ∧ d.flush = c.flush ∧ d.chwBusy = c.chwBusy ∧ d.chrBusy = c.chrBusy ∧
    (∀ x : Fin 4, SameImage c.ctxs[x] d.ctxs[x]) ∧
    (∀ x : Fin 4, x ≠ c.actx → d.ctxs[x] = c.ctxs[x]) ∧
    (∀ n : Fin 4, f.x ≠ .out n → f.y ≠ .out n → d.ctx.hands[n] = c.ctx.hands[n])

/-- 04 R103: an enabled flag that a firing sets, and that was clear, stops the cell after the firing with cause 1 and a record; the flags are set,
and the firing's writes are made (`FiringWritesItsDestinations`). A flag set before raises no trap. -/
def Obligations.ArithmeticTrapStopsTheCell : Prop :=
  ∀ (s : State) (f : Fire) (ps : List (Fin 4)) (v : Wide) (tag : Tag) (fl : BitVec 6),
    let c := s.cell s.curCell
    let t := s.finish f ps v tag fl
    let new := fl &&& ~~~c.flags
    c.stop.stopped = false →
    (new &&& hdrTraps (s.cellHdr s.curCell) = 0 → (t.cell s.curCell).stop = c.stop ∧ t.records = s.records) ∧
    (new &&& hdrTraps (s.cellHdr s.curCell) ≠ 0 →
      (t.cell s.curCell).stop = ⟨true, 1, 0⟩ ∧ (t.cell s.curCell).flags = c.flags ||| fl ∧
      ∃ r, t.records = s.records ++ [r] ∧ r.body.extractLsb' 0 8 = 6#8 ∧ r.body.extractLsb' 64 8 = 1#8 ∧
        r.body.extractLsb' 72 8 = new.setWidth 8)

/-! Berths, tokens, markers, routing, contexts and reports. -/

/-- 06 R146, 10 R262: CAST pops the heads it names and writes nothing. A pop of a data token lowers the slot's reader count by one; the last reader
frees the slot, whose bits empty, and the ring moves its head to the next slot that is held. 06 R143, R145: BERTH sends its request along the route;
PUT writes at its offset, and an offset beyond the berth stops the cell with cause 3 and no other effect. An ordinary write to out port n sends its
token to slot base + wr of the berth and counts the write; a handle whose berth is full is no longer valid after the end of the clk. -/
def Obligations.CastBerthAndPutResults : Prop :=
  (
    (∀ o : OpKB, FiresWith (.cast o) (ofKB o) fun _ _ _ v fl => v = 0 ∧ fl = 0) ∧
    (∀ (c : Cell) (p : Fin 4),
      let i := c.headIdx c.actx p
      let r := c.ctx.rings[p]
      let d := c.popPort p
      c.dataAt p = true →
      (1 < (c.slot i).rdr → (d.slot i).rdr + 1 = (c.slot i).rdr ∧ (d.slot i).fe = (c.slot i).fe ∧ d.ctx.rings[p] = r) ∧
      ((c.slot i).rdr ≤ 1 → (d.slot i).rdr = 0 ∧ (d.slot i).fe = 0 ∧ (d.slot i).pay = (c.slot i).pay) ∧
      ((c.slot i).rdr ≤ 1 → r.pad = none → 1 < r.held →
        (c.slot (bdBase c.ctx.binds[p] + (r.head + 1) % bdCap c.ctx.binds[p])).rdr ≠ 0 →
        (r.head + 1) % bdCap c.ctx.binds[p] ≠ r.head →
        d.ctx.rings[p] = { r with head := (r.head + 1) % bdCap c.ctx.binds[p], held := r.held - 1 }))) ∧
  (
    ((∀ (o : OpBN) (s : State), (cur s).ctx.hands[o.h].v = false → (cur s).ctx.hands[o.h].out = false →
      Answers (.berth o) s fun t =>
        (t.cell s.curCell).ctx.hands[o.h] = { (cur s).ctx.hands[o.h] with out := true } ∧
        ∃ p q, Schedules s t [p] ∧ p.due = s.clk + routeLat s.curCell (s.routeCell s.curCell (cur s).actx o.h) ∧
          Reaches s s.curCell (s.routeCell s.curCell (cur s).actx o.h)
            (.berthRequestArrival (.cell (s.routeCell s.curCell (cur s).actx o.h)) q) p.ev ∧ q.cnt = o.n.val + 1 ∧
          q.hnd = o.h.val ∧ q.src = s.curCell ∧ q.mrk = false ∧ q.dctx = (rtCtx (cur s).ctx.routes[o.h]).val ∧
          q.dport = (rtPort (cur s).ctx.routes[o.h]).val) ∧
    (∀ (o : OpPO) (s : State), (cur s).ready (ofPO o) = true →
      let off := (lane (payOf s o.b) 0).toNat % 512
      let h := (cur s).ctx.hands[o.x]
      (off ≤ h.len → Answers (.put o) s fun t =>
        Leaves s t [(o.x, off)] ⟨payOf s o.a, (cur s).outTag (ofPO o)⟩ ∧
        (t.cell s.curCell).ctx.hands[o.x] = { h with wr := h.wr + 1 }) ∧
      (h.len < off → (cur s).stop.stopped = false → Answers (.put o) s fun t =>
        (t.cell s.curCell).stop = ⟨true, 3, 0⟩ ∧ Quiet s t ∧ (t.cell s.curCell).ctxs = (cur s).ctxs ∧
          (t.cell s.curCell).store = (cur s).store))) ∧
    (∀ (s : State) (f : Fire) (ps : List (Fin 4)) (v : Wide) (tag : Tag) (fl : BitVec 6) (n : Fin 4),
      f.x = .out n → f.y = .nul →
      let h := (cur s).ctx.hands[n]
      let t := s.finish f ps v tag fl
      Leaves s t [(n, h.wr)] ⟨v, tag⟩ ∧ (t.cell s.curCell).ctx.hands[n] = { h with wr := h.wr + 1 }) ∧
    (∀ (c : Cell) (x n : Fin 4), c.endClk.ctxs[x].hands[n] =
      { c.ctxs[x].hands[n] with v := c.ctxs[x].hands[n].v && decide (c.ctxs[x].hands[n].wr ≤ c.ctxs[x].hands[n].len) }))

/-- 06 R147, 08 R202: GET and GETF read the slot that lane 0 of A addresses, of the own store or, for bit 31 in a quay cell, of the quay's berth
ways; GETF waits until all its full/empty bits are full. QLDF reads a berth-way slot once the words of its mask are full; QSTF's write waits for the
end of the clk. An address beyond the configured bytes stops the cell with cause 3. -/
def Obligations.SlotReadAndWriteResults : Prop :=
  (∀ (o : OpU) (s : State), (cur s).ready (ofU o) = true →
    let a := lane (payOf s o.a) 0
    let bw := isQuayCell s.curCell && a.getLsbD 31
    let sl := if bw then s.bwSlot s.curCell (a.toNat % 2 ^ 19) else (cur s).slot (a.toNat % 1024)
    let out := bw && bwOut s s.curCell (a.toNat % 2 ^ 19)
    (out = false → FiresTag (.get o) s (ofU o) sl.pay ((cur s).outTag (ofU o)) id) ∧
    (out = false → sl.fe = 0xFF → FiresTag (.getf o) s (ofU o) sl.pay ((cur s).outTag (ofU o)) id) ∧
    (out = false → sl.fe ≠ 0xFF → (cur s).snap = none → exec (.getf o) s = .next s) ∧
    (out = true → (cur s).stop.stopped = false →
      Answers (.get o) s fun t => (t.cell s.curCell).stop = ⟨true, 3, 0⟩ ∧ Quiet s t)) ∧
  (∀ (o : OpB) (s : State), (cur s).ready (ofB o) = true →
    let a := lane (payOf s o.a) 0
    let idx := a.toNat % 2 ^ 19
    let sl := s.bwSlot s.curCell idx
    let mask (l : Word) : BitVec 8 := if l.extractLsb' 0 8 = 0 then 0xFF else l.extractLsb' 0 8
    let m := mask (lane (payOf s o.b) 0)
    let q := quayOf s.curCell
    (bwOut s s.curCell idx = true → (cur s).stop.stopped = false → StopsWith (.qldf o) s 3 0 ∧ StopsWith (.qstf o) s 3 0) ∧
    (bwOut s s.curCell idx = false →
      (sl.fe &&& m = m → FiresTag (.qldf o) s (ofB o) sl.pay ((cur s).outTag (ofB o)) id) ∧
      (sl.fe &&& m ≠ m → exec (.qldf o) s = .next s) ∧
      Answers (.qstf o) s fun t => (t.quay q).slots = (s.quay q).slots ∧
        (t.quay q).qstf = (s.quay q).qstf ++ [(s.bwIdx s.curCell idx, mask (lane (payOf s o.a) 1), payOf s o.b)]))

/-- 06 R148 to R151: TAG, MARK, SEQ and ORD send A's payload with a tag of their own. SEQ draws the next tag of the window while it has room, and ORD
retires the oldest outstanding one when A's token carries it. -/
def Obligations.TagInstructionResults : Prop :=
  ∀ (s : State),
    (∀ o : OpB, (cur s).ready (ofB o) = true → FiresTag (.tag o) s (ofB o) (payOf s o.a)
      ⟨0, (lane (payOf s o.b) 0).getLsbD 12, (lane (payOf s o.b) 0).setWidth 12⟩ id) ∧
    (∀ o : OpUI, (cur s).ready (ofUI o) = true → FiresTag (.mark o) s (ofUI o) (payOf s o.a)
      ⟨BitVec.ofNat 3 o.b.val, false, ((cur s).outTag (ofUI o)).seq⟩ id) ∧
    (∀ o : OpU, (cur s).ready (ofU o) = true → ((cur s).tagNext - (cur s).tagOld).toNat < (cur s).tagSize →
      Answers (.seq o) s fun t => (t.cell s.curCell).tagNext = (cur s).tagNext + 1 ∧ (t.cell s.curCell).tagOld = (cur s).tagOld ∧
        (∀ n, o.x = .out n → o.y = .nul →
          Leaves s t [(n, (cur s).ctx.hands[n].wr)] ⟨payOf s o.a, ⟨0, false, (cur s).tagNext⟩⟩)) ∧
    (∀ o : OpU, (cur s).tagSize ≤ ((cur s).tagNext - (cur s).tagOld).toNat → exec (.seq o) s = .next s) ∧
    (∀ o : OpU, (cur s).ready (ofU o) = true → (tokOf s o.a).tag.seq = (cur s).tagOld → (cur s).tagNext ≠ (cur s).tagOld →
      Answers (.ord o) s fun t => (t.cell s.curCell).tagOld = (cur s).tagOld + 1 ∧ (t.cell s.curCell).tagNext = (cur s).tagNext) ∧
    (∀ o : OpU, (tokOf s o.a).tag.seq ≠ (cur s).tagOld → exec (.ord o) s = .next s)

/-- 06 R152, R153: STEER sends data to the masked port that lane 0 of B chooses, and a marker to every masked port; MERGE passes on the data token at
A's port, else the one at B's, and waits while neither holds one. 06 R155, R158, R159: SWITCH makes a switch pending; DLY schedules its write after
2^(y+1) − 1 − A<y:0> clk; RACE emits the first k latched indices and resets the count. A SWITCH to a context that the header does not mark stops the
cell with cause 4. -/
def Obligations.SteerMergeSwitchAndDelayResults : Prop :=
  (
    (∀ (o : OpSF) (s : State) (n : Fin 4), (cur s).ready (ofSF o) = true → (tokOf s o.a).tag.lvl = 0 →
      (lane (payOf s o.b) 0).toNat % 8 = n.val →
      (o.y.val / 2 ^ n.val % 2 = 1 → (cur s).ctx.hands[n].v = true → Answers (.steer o) s fun t =>
        Leaves s t [(n, (cur s).ctx.hands[n].wr)] ⟨payOf s o.a, (cur s).outTag (ofSF o)⟩) ∧
      (o.y.val / 2 ^ n.val % 2 = 0 → Answers (.steer o) s fun t => Quiet s t)) ∧
    (∀ (o : OpSF) (s : State), (cur s).ready (ofSF o) = true → (tokOf s o.a).tag.lvl = 0 → 4 ≤ (lane (payOf s o.b) 0).toNat % 8 →
      Answers (.steer o) s fun t => Quiet s t) ∧
    (∀ (o : OpSF) (s : State), (cur s).ready (ofSF o) = true → (tokOf s o.a).tag.lvl ≠ 0 →
      (∀ n : Fin 4, o.y.val / 2 ^ n.val % 2 = 1 → (cur s).ctx.hands[n].v = true) → Answers (.steer o) s fun t =>
        Leaves s t ((four.filter fun n => o.y.val / 2 ^ n.val % 2 == 1).map fun n => (n, (cur s).ctx.hands[n].wr))
          ⟨payOf s o.a, (cur s).outTag (ofSF o)⟩) ∧
    (∀ (o : OpB) (s : State) (p q : Fin 4), o.a = .inp p → o.b = .inp q → (cur s).dstOk o.x = true → (cur s).dstOk o.y = true →
      let f (x : Sel) : Fire := { ofB o with a := some x, b := some x, q := false }
      ((cur s).dataAt p = true →
        exec (.merge o) s = .next (s.finish (f o.a) (f o.a).popped (payOf s o.a) ((cur s).outTag (f o.a)) 0)) ∧
      ((cur s).dataAt p = false → (cur s).dataAt q = true →
        exec (.merge o) s = .next (s.finish (f o.b) (f o.b).popped (payOf s o.b) ((cur s).outTag (f o.b)) 0)) ∧
      ((cur s).dataAt p = false → (cur s).dataAt q = false → exec (.merge o) s = .next s))) ∧
  (
    (∀ (o : OpKU) (s : State), (cur s).ready (ofKU o) = true → (cur s).swPend = false →
      let a := lane (payOf s o.a) 0
      let g : Fin 4 := if a.getLsbD 2 then Fin.ofNat 4 (a.toNat % 4) else ctlNctx (cur s).ctx.ctl
      ((hdrCtxs (s.cellHdr s.curCell)).getLsbD g.val = true → Answers (.switch o) s fun t =>
        (t.cell s.curCell).swPend = true ∧ (t.cell s.curCell).swTgt = g ∧ (t.cell s.curCell).actx = (cur s).actx) ∧
      ((hdrCtxs (s.cellHdr s.curCell)).getLsbD g.val = false → (cur s).stop.stopped = false → Answers (.switch o) s fun t =>
        (t.cell s.curCell).stop = ⟨true, 4, 0⟩ ∧ (t.cell s.curCell).swPend = false)) ∧
    (∀ (o : OpUF) (s : State), (cur s).ready (ofUF o) = true → (cur s).dly.length < 64 → o.y.val < 8 →
      (cur s).stop.stopped = true ∨ hdrTraps (s.cellHdr s.curCell) = 0 → Answers (.dly o) s fun t =>
        ∃ d, (t.cell s.curCell).dly = (cur s).dly ++ [d] ∧ d.pay = payOf s o.a ∧
          d.due = s.clk + (2 ^ (o.y.val + 1) - 1 - (lane (payOf s o.a) 0).toNat % 2 ^ (o.y.val + 1))) ∧
    (∀ (o : OpUI) (s : State) (p : Fin 4), (cur s).ready (ofUI o) = true → o.a = .inp p → (cur s).dataAt p = true →
      (cur s).raceCnt = o.b.val % 8 + 1 → ∃ v, FiresTag (.race o) s (ofUI o) v ((cur s).outTag (ofUI o)) (fun c => { c with raceCnt := 0 }) ∧
        ∀ l : Fin 8, lane v l.val = if l.val < o.b.val % 8 + 1 then (cur s).raceLatch[l].setWidth 32 else 0))

/-- 06 R160 to R162: BSTAT's snapshots, EVT's record, and TRAP's stop after its firing. That BSTAT's tag takes its sequence number from seqc
under rule 11 is the model's choice (log 101; 06 R160 says that the tag is zero and cites the out-tag rule). -/
def Obligations.ReportInstructionResults : Prop :=
  (∀ (o : OpI) (s : State), (cur s).ready (ofI o) = true → (cur s).snap = none → ∃ v,
    FiresTag (.bstat o) s (ofI o) v ((cur s).outTag (ofI o)) id ∧
    (∀ n : Fin 4, o.b.val = n.val → lane v 1 = (if (cur s).ctx.hands[n].out then 1 else 0) ∧ lane v 2 = (cur s).ctx.hands[n].word) ∧
    (∀ p : Fin 4, o.b.val = 4 + p.val → bdEn (cur s).ctx.binds[p] = true →
      lane v 0 = BitVec.ofNat 32 (cur s).ctx.rings[p].held ∧
      lane v 1 = BitVec.ofNat 32 (bdCap (cur s).ctx.binds[p] - (cur s).ctx.rings[p].held) ∧
      lane v 2 = BitVec.ofNat 32 (cur s).ctx.rings[p].arr) ∧
    (o.b.val = 8 → lane v 0 = (cur s).flags.setWidth 32 ∧ lane v 1 = (cur s).cfmt.setWidth 32) ∧
    (o.b.val = 9 → lane v 0 = BitVec.ofNat 32 (cur s).actx.val ∧ lane v 2 = (cur s).swcnt.setWidth 32) ∧
    (o.b.val = 10 → lane v 0 = (cur s).tagNext.setWidth 32 ∧ lane v 1 = (cur s).tagOld.setWidth 32 ∧
      lane v 2 = BitVec.ofNat 32 ((cur s).tagNext - (cur s).tagOld).toNat) ∧
    (o.b.val = 11 → lane v 0 = BitVec.ofNat 32 (cur s).raceCnt) ∧
    (12 ≤ o.b.val → lane v 0 = BitVec.ofNat 32 (cur s).dly.length ∧ lane v 1 = BitVec.ofNat 32 (cur s).bcred.length)) ∧
  (∀ (o : OpKI) (s : State), (cur s).ready (ofKI o) = true → (cur s).evtBusy = false → Answers (.evt o) s fun t =>
    (t.cell s.curCell).evtBusy = true ∧ ∃ r, Records s t [r] ∧ r.part = s.cellPart s.curCell ∧ r.src = cellStrip s.curCell ∧
      r.cell = some s.curCell ∧ r.body.extractLsb' 0 8 = 4#8 ∧ r.body.extractLsb' 64 8 = BitVec.ofNat 8 o.b.val ∧
      r.body.extractLsb' 80 16 = s.place s.curCell ∧ r.body.extractLsb' 128 128 = (payOf s o.a).setWidth 128) ∧
  (∀ (o : OpKI) (s : State), (cur s).ready (ofKI o) = true → (cur s).stop.stopped = false → Answers (.trap o) s fun t =>
    (t.cell s.curCell).stop = ⟨true, 2, 0⟩ ∧ ∃ r, Records s t [r] ∧ r.body.extractLsb' 0 8 = 6#8 ∧
      r.body.extractLsb' 64 8 = 2#8 ∧ r.body.extractLsb' 72 8 = BitVec.ofNat 8 o.b.val ∧
      r.body.extractLsb' 128 64 = (payOf s o.a).setWidth 64)

/-! The beacon, the abacus and matrix mode. -/

/-- 06 R166 to R168, 14 R329, 16 R360: BCARR and BCRED set the arrival bit and send one arrival, which reaches the root 36 clk later; BCWT reads the
strip's generation, BCGET its broadcast value and count; BCPUT sends to every strip of the partition; a channel that is not assigned to the partition
stops the cell with cause 5 once every other condition of the slot holds, and until then the slot waits. -/
def Obligations.BeaconCellResults : Prop :=
  (∀ (s : State) (ch : Nat), ch < 32 → s.bcnOk (s.cellPart s.curCell) ch = true →
    let strip := cellStrip s.curCell
    let arrived (t : State) (a o m : Word) : Prop :=
      (∃ n, s.seqNo ≤ n ∧ Schedules s t [⟨s.clk + 36, clsBeacon, strip, n, .beaconArrivalAtRoot ⟨ch, strip, 1, a, o, m⟩, none⟩]) ∧
      ∀ k < 32, (t.cell s.curCell).arrBits.getLsbD k = (k == ch || (cur s).arrBits.getLsbD k)
    (∀ o : OpNIF, o.b.val = ch → (cur s).arrBits.getLsbD ch = false →
      o.y.val % 2 = 0 ∨ ((cur s).outOrd = 0 ∧ (cur s).outUnord = 0 ∧ (cur s).coal = []) →
      Answers (.bcarr o) s fun t => arrived t 0xFFFFFFFF 0 0) ∧
    (∀ o : OpI, o.b.val = ch → (cur s).ready (ofI o) = true → (cur s).arrBits.getLsbD ch = false →
      FiresTag (.bcwt o) s (ofI o) ((s.genOf ch strip).setWidth 256) ((cur s).outTag (ofI o)) id) ∧
    (∀ o : OpKI, o.b.val = ch → (cur s).ready (ofKI o) = true → Answers (.bcput o) s fun t =>
      ∃ l, Schedules s t l ∧ l.length = (s.part (s.cellPart s.curCell)).count ∧
        ∀ i < l.length, ∃ p, l[i]? = some p ∧ p.due = s.clk + 36 ∧
          p.ev = .broadcastAtStrip ch ((s.part (s.cellPart s.curCell)).first + i) ((payOf s o.a).setWidth 64)) ∧
    (∀ o : OpI, o.b.val = ch → (cur s).ready (ofI o) = true → ∃ v,
      FiresTag (.bcget o) s (ofI o) v ((cur s).outTag (ofI o)) id ∧ v.setWidth 64 = tblGet 0 (s.beacon ch).bval strip ∧
      lane v 2 = tblGet 0 (s.beacon ch).bcnt strip) ∧
    (∀ o : OpUIF, o.b.val = ch → (cur s).ready (ofUIF o) = true → (cur s).arrBits.getLsbD ch = false →
      Answers (.bcred o) s fun t => let v := lane (payOf s o.a) 0
        arrived t v v v ∧ ∃ w, (t.cell s.curCell).bcred = (cur s).bcred ++ [⟨ch, o.y.val % 4, w, none⟩] ∧
          w.tag = (cur s).outTag (ofUIF o))) ∧
  (∀ (s : State) (ch : Nat) (i : Instr) (f : Fire),
    (∃ o : OpNIF, i = .bcarr o ∧ f = ofZ ∧ o.b.val = ch) ∨ (∃ o : OpI, (i = .bcwt o ∨ i = .bcget o) ∧ f = ofI o ∧ o.b.val = ch) ∨
      (∃ o : OpKI, i = .bcput o ∧ f = ofKI o ∧ o.b.val = ch) ∨ (∃ o : OpUIF, i = .bcred o ∧ f = ofUIF o ∧ o.b.val = ch) →
    let waits : Prop := (cur s).ready f = false ∨
      ((cur s).arrBits.getLsbD ch = true ∧ ((∃ o, i = .bcarr o) ∨ (∃ o, i = .bcwt o) ∨ ∃ o, i = .bcred o)) ∨
      (((cur s).outOrd ≠ 0 ∨ (cur s).outUnord ≠ 0 ∨ (cur s).coal ≠ []) ∧ ∃ o : OpNIF, i = .bcarr o ∧ o.y.val % 2 = 1)
    (waits → exec i s = .next s) ∧
    (s.bcnOk (s.cellPart s.curCell) ch = false → ¬waits → (cur s).stop.stopped = false →
      Answers i s fun t => (t.cell s.curCell).stop = ⟨true, 5, 0⟩ ∧ Quiet s t ∧
        (t.cell s.curCell).arrBits = (cur s).arrBits ∧ ∃ r, Records s t [r] ∧ r.body.extractLsb' 64 8 = 5#8))

/-- 01 R14, 06 R163, R164: GEN emits the pending marker, else the identifier, and waits once the stream is exhausted; WID reads the abacus. One step
counts the rods up as a number of mixed radix. Where rods below k carry, they become 0, rod k goes up by one, and the pending level is k; a carry out
of the highest used rod ends the stream with level 7. Prev goes back one step. Only an abacus that is not exhausted steps. -/
def Obligations.AbacusInstructionResults : Prop :=
  ((∀ (o : OpO) (s : State), (cur s).ready (ofO o) = true →
    let a := (cur s).ab
    let q := ((cur s).outTag (ofO o)).seq
    let mark (c : Cell) : Cell := { c with ab := { c.ab with pending := 0 } }
    (a.pending = 0 → a.done = false →
      FiresTag (.gen o) s (ofO o) (a.ident.setWidth 256) ⟨0, false, q⟩ fun c => { c with ab := c.ab.step }) ∧
    (a.pending ≠ 0 → a.done = false →
      FiresTag (.gen o) s (ofO o) (a.prev.setWidth 256) ⟨BitVec.ofNat 3 a.pending, false, q⟩ mark) ∧
    (a.pending ≠ 0 → a.done = true →
      FiresTag (.gen o) s (ofO o) (a.limitsWord.setWidth 256) ⟨BitVec.ofNat 3 a.pending, false, q⟩ mark) ∧
    (a.pending = 0 → a.done = true → exec (.gen o) s = .next s)) ∧
  (∀ o : OpI, FiresWith (.wid o) (ofI o) fun c _ _ v fl => fl = 0 ∧
    (o.b.val = 0 → v.setWidth 64 = c.ab.ident ∧ lane v 2 = BitVec.ofNat 32 c.ab.pending ∧ lane v 3 = if c.ab.done then 1 else 0) ∧
    (0 < o.b.val → v = BitVec.ofNat 256 (rodVal c.ab c.ab.ident.toNat (o.b.val - 1))))) ∧
  (∀ (a : Abacus) (k : Nat),
    let v := rodVal a a.ident.toNat
    let w := rodVal a a.step.ident.toNat
    let top := rodTop a
    rodBase a 6 ≤ 64 → (∀ i < 6, 0 < rodLimit a i ∧ rodLimit a i ≤ 2 ^ rodWidth a i ∧ v i < rodLimit a i) →
    (a.done = false → k ≤ top → (∀ i < k, v i + 1 = rodLimit a i) → v k + 1 < rodLimit a k →
      (∀ i < 6, w i = if i < k then 0 else if i = k then v i + 1 else v i) ∧
      a.step.pending = (if k = 0 then a.pending else k) ∧ a.step.done = a.done ∧ a.step.prev = a.ident) ∧
    ((∀ i ≤ top, v i + 1 = rodLimit a i) → (∀ i ≤ top, w i = 0) ∧ a.step.pending = 7 ∧ a.step.done = true))

/-- 07 R176 to R178, R182: MXHDR applies a header to the weight side, MXLD replaces a column, MXCLR empties the tile, and MXCFG writes cfmt, the
tile's rows and passes, or both decoders. -/
def Obligations.MatrixConfigurationResults : Prop :=
  ∀ (s : State),
    let after (i : Instr) (f : Fire) (c : Cell) (fl : Flags) : Prop :=
      exec i s = .next ((s.setCell s.curCell c).finish f f.popped 0 .zero fl)
    (∀ o : OpKU, (cur s).ready (ofKU o) = true → ∃ r, HeaderApplied (cur s).mx.wgt (lane (payOf s o.a) 0) (some (cur s).mx.act.cls) r ∧
      after (.mxhdr o) (ofKU o) { cur s with mx := { (cur s).mx with wgt := r.1 } } r.2) ∧
    (∀ o : OpKI, o.b.val < 4 → (cur s).ready (ofKI o) = true → Answers (.mxld o) s fun t => ∀ k : Fin 4,
      (t.cell s.curCell).mx.blk[k] = if k.val = o.b.val then payOf s o.a else (cur s).mx.blk[k]) ∧
    ((cur s).mx.drain = none → Answers .mxclr s fun t => let m := (t.cell s.curCell).mx
      (∀ k, tblGet 0 m.acc k = 0) ∧ m.arow = 0 ∧ m.acnt = 0 ∧ m.latched = false ∧ m.act = (cur s).mx.act ∧ m.wgt = (cur s).mx.wgt ∧
        m.T = (cur s).mx.T ∧ m.P = (cur s).mx.P ∧ m.blk = (cur s).mx.blk) ∧
    (∀ o : OpKF, (cur s).ready (ofKF o) = true →
      let l := lane (payOf s o.a) 0
      let w := lane (payOf s o.a) 1
      let b8ok : Prop := l.extractLsb' 0 3 ≠ 0 ∧ l.extractLsb' 5 3 = 0
      let cls (x : Word) : Option Nat := if x.toNat % 16 ∈ [1, 2] then some 16 else if x.toNat % 16 ∈ [0, 8, 12] then some 8 else none
      (o.y.val = 0 → (b8ok → after (.mxcfg o) (ofKF o) { cur s with cfmt := (cur s).cfmt.extractLsb' 8 2 ++ l.extractLsb' 0 8 } 0) ∧
        (¬b8ok → after (.mxcfg o) (ofKF o) (cur s) flInvalid)) ∧
      (o.y.val = 1 → after (.mxcfg o) (ofKF o) { cur s with cfmt := l.extractLsb' 0 2 ++ (cur s).cfmt.extractLsb' 0 8 } 0) ∧
      (o.y.val = 2 → (b8ok → after (.mxcfg o) (ofKF o) { cur s with cfmt := l.extractLsb' 0 10 } 0) ∧
        (¬b8ok → after (.mxcfg o) (ofKF o) (cur s) flInvalid)) ∧
      (o.y.val = 3 → (cur s).mx.drain = none → after (.mxcfg o) (ofKF o)
        { cur s with mx := { (cur s).mx with T := l.toNat % 256 + 1, P := l.toNat / 256 % 256 + 1, arow := 0, acnt := 0 } } 0) ∧
      (o.y.val = 3 → (cur s).mx.drain ≠ none → exec (.mxcfg o) s = .next s) ∧
      (o.y.val = 4 → ∃ p q, HeaderApplied (cur s).mx.act l (cls w) p ∧ HeaderApplied (cur s).mx.wgt w (cls l) q ∧
        after (.mxcfg o) (ofKF o) { cur s with mx := { (cur s).mx with act := p.1, wgt := q.1 } } (p.2 ||| q.2)))

/-- 04 R107, R110, R111: a column's sum. While a side is bad it is NaN and sets no flag; a NaN term, a product of 0 and ∞, or infinities of both
signs give NaN, the last two with invalid (log 19: infinities of both signs also beside a NaN); one sign of infinity alone gives that infinity;
finite products and terms, and integer products, are summed exactly and rounded once. 07 R179 to R181: MXROW. A header firing sets the
activation side and is forwarded unchanged to y; a data firing forwards A's payload to y and sends the four rounded sums to x, or in the bottom
row adds them to the tile under the pair of scales latched at the tile's first row. -/
def Obligations.MatrixRowResults : Prop :=
  (
    ∀ (mx : Matrix) (a : Wide) (c : Fin 4) (more : List FV),
      (mx.act.bad = true ∨ mx.wgt.bad = true → columnSum mx a c more = (Fmt.a36.nan, 0)) ∧
      (mx.act.bad = false → mx.wgt.bad = false →
        let n := mx.act.cls
        let x (k : Nat) : FV := mx.act.dec (eltN n a k)
        let y (k : Nat) : FV := mx.wgt.dec (eltN n mx.blk[c] k)
        (∀ v ∈ more, v.isNan = true → (columnSum mx a c more).1 = Fmt.a36.nan) ∧
        (∀ k, k < 256 / n → (x k).isNan ∨ (y k).isNan → (columnSum mx a c more).1 = Fmt.a36.nan) ∧
        (∀ k g z e, k < 256 / n → x k = .inf g → y k = .fin z 0 e →
          (columnSum mx a c more).1 = Fmt.a36.nan ∧ (columnSum mx a c more).2.getLsbD 0 = true) ∧
        (.inf true ∈ more → .inf false ∈ more →
          (columnSum mx a c more).1 = Fmt.a36.nan ∧ (columnSum mx a c more).2.getLsbD 0 = true) ∧
        (let terms := ((List.range (256 / n)).map fun k => (fvMul (x k) (y k)).1) ++ more;
          (∀ g, .inf g ∈ terms → .inf (!g) ∉ terms → (∀ v ∈ terms, v.isNan = false) →
            columnSum mx a c more = (Fmt.a36.signed g Fmt.a36.infCode, 0)) ∧
          (∀ E : Int, (∀ v ∈ terms, ∃ g m e, v = .fin g m e ∧ E ≤ e) →
            columnSum mx a c more = Fmt.a36.flushPut 0 (ofUnits ((terms.map (unitsOf E)).foldl (· + ·) 0) E))) ∧
        (mx.act.efmt = 8 → mx.wgt.efmt = 8 → columnSum mx a c [] =
          Fmt.a36.flushPut 0 (ofUnits
            (((List.range 32).map fun k => (elt 8 a k).toInt * (elt 8 mx.blk[c] k).toInt).foldl (· + ·) 0) 0)))) ∧
  (
    ∀ (o : OpU) (s : State), (cur s).ready (ofU o) = true → (tokOf s o.a).tag.lvl = 0 →
      let m := (cur s).mx
      let A := payOf s o.a
      let top := s.topRow s.curCell
      let ps (k : Fin 4) : FV := if top then .fin false 0 0 else psum (payOf s (.inp 1)) k
      let wr (n : Fin 4) : Nat := (cur s).ctx.hands[n].wr
      let fwd : Token := ⟨A, (cur s).outTag (ofU o)⟩
      ((tokOf s o.a).tag.hdr = true → Answers (.mxrow o) s fun t => ∃ r,
        HeaderApplied m.act (lane A 0) (some m.wgt.cls) r ∧ (t.cell s.curCell).mx = { m with act := r.1 } ∧
        (t.cell s.curCell).flags = (cur s).flags ||| r.2 ∧ (∀ n, o.y = .out n → Leaves s t [(n, wr n)] (tokOf s o.a)) ∧
        (o.y = .nul → Quiet s t)) ∧
      ((tokOf s o.a).tag.hdr = false → m.drain = none → top = true ∨ (cur s).dataAt 1 = true →
        (s.bottomRow s.curCell = false → ∀ n, o.x = .out n → Answers (.mxrow o) s fun t => ∃ v,
          (t.cell s.curCell).mx = m ∧ (∀ k : Fin 4, eltN 64 v k = (columnSum m A k [ps k]).1) ∧
          (o.y = .nul → Leaves s t [(n, wr n)] ⟨v, (cur s).outTag (ofU o)⟩) ∧
          (∀ k, o.y = .out k → k ≠ n → OnWay s t n (wr n) ⟨v, (cur s).outTag (ofU o)⟩ ∧ OnWay s t k (wr k) fwd ∧
            t.pend.length + t.passes.length = s.pend.length + s.passes.length + 2)) ∧
        (s.bottomRow s.curCell = true → m.acnt < m.T * m.P → m.arow < m.T → Answers (.mxrow o) s fun t =>
          (o.y = .nul → Quiet s t) ∧ (∀ n, o.y = .out n → Leaves s t [(n, wr n)] fwd) ∧
          let u := (t.cell s.curCell).mx
          let sa := if m.latched then m.sa else m.act.scale
          let sb := if m.latched then m.sb else m.wgt.scale
          u.latched = true ∧ u.sa = sa ∧ u.sb = sb ∧ u.arow = (m.arow + 1) % m.T ∧ u.acnt = m.acnt + 1 ∧
          (∀ k : Fin 4, (tblGet 0 u.acc (4 * m.arow + k.val)).toNat =
            if m.act.scale = sa ∧ m.wgt.scale = sb then
              (columnSum m A k [ps k, Fmt.a36.decode (tblGet 0 m.acc (4 * m.arow + k.val)).toNat]).1 % 2 ^ 36
            else Fmt.a36.nan) ∧
          (∀ i, i / 4 ≠ m.arow → tblGet 0 u.acc i = tblGet 0 m.acc i))) ∧
      (s.bottomRow s.curCell = true → (tokOf s o.a).tag.hdr = false → m.T * m.P ≤ m.acnt → exec (.mxrow o) s = .next s))

/-- 07 R183, R184, 04 R114: MXDRN fires on a complete tile with room in the berth, counts its D tokens, and holds them; it waits otherwise; a port
with no route stops the cell with cause 6. Raw entries are the accumulators; others are their values times 2^(sa + sb), put into the format by
RoundFlush, with their flags. -/
def Obligations.DrainResults : Prop :=
  ∀ (o : OpKU) (s : State), (cur s).ready (ofKU o) = true →
    let m := (cur s).mx
    let l := lane (payOf s o.a) 0
    let n : Fin 4 := Fin.ofNat 4 (l.toNat % 4)
    let h := (cur s).ctx.hands[n]
    let z : Nat := if l.getLsbD 2 then 8 else match l.toNat / 8 % 4 with | 0 => 1 | 3 => 4 | _ => 2
    let D := (m.T * z + 7) / 8
    (m.acnt ≠ m.T * m.P → exec (.mxdrn o) s = .next s) ∧
    (m.acnt = m.T * m.P → m.drain = none → (tokOf s o.a).tag.lvl = 0 → (tokOf s o.a).tag.hdr = false →
      (rtV (cur s).ctx.routes[n] = false → (cur s).stop.stopped = false → Answers (.mxdrn o) s fun t =>
        (t.cell s.curCell).stop = ⟨true, 6, 0⟩ ∧ (t.cell s.curCell).mx = m) ∧
      (rtV (cur s).ctx.routes[n] = true → h.v = true → 0 < m.T → D ≤ h.len + 1 - h.wr →
        (cur s).stop.stopped = true ∨ hdrTraps (s.cellHdr s.curCell) = 0 → Answers (.mxdrn o) s fun t =>
        (t.cell s.curCell).ctx.hands[n] = { h with wr := h.wr + D } ∧
        (t.cell s.curCell).mx.acc = m.acc ∧ ∃ d, (t.cell s.curCell).mx.drain = some d ∧ d.toks.length = D ∧
          d.clr = l.getLsbD 5 ∧ d.seq = (tokOf s o.a).tag.seq ∧ d.port = n.val ∧
          d.dst = .out (s.routeCell s.curCell (cur s).actx n) (rtCtx (cur s).ctx.routes[n]).val (rtPort (cur s).ctx.routes[n]).val
            (h.base + h.wr) (routeLat s.curCell (s.routeCell s.curCell (cur s).actx n)) ∧
          (let g : Fmt := fmtOfCode (cur s) (l.toNat / 8 % 4)
            let r (i : Nat) : Nat × Flags :=
              match Fmt.a36.decode (tblGet 0 m.acc i).toNat with
              | .fin neg k e => g.flushPut (cur s).mode (.fin neg k (e + m.sa.toInt + m.sb.toInt))
              | x => g.put (cur s).mode x
            l.getLsbD 2 = false →
              (∀ i, i < 4 * m.T → eltN (8 * z) (d.toks.getD (i / (32 / z)) 0) (i % (32 / z)) = (r i).1 % 2 ^ (8 * z)) ∧
              ∀ b, (t.cell s.curCell).flags.getLsbD b =
                ((cur s).flags.getLsbD b || (List.range (4 * m.T)).any fun i => (r i).2.getLsbD b)) ∧
          (l.getLsbD 2 = true → ∀ i k, i < m.T → k < 4 →
            eltN 64 (d.toks.getD i 0) k = (tblGet 0 m.acc (4 * i + k)).toNat)))

/-! Quay instructions. -/

/-- 08 R193: the checks of a load, a store and an atomic through a handle, in their order, each with the cause with which it stops the cell before
the firing. 08 R195, R198, R199, R203: a load, a store and an atomic whose checks hold issue their request at the frame's address. A store that is
not ordered goes to the coalescing buffer (R197): the buffered bytes that its mask enables are its payload's. -/
def Obligations.QuayAccessResults : Prop :=
  (
    ∀ (i : Instr) (s : State) (f : Fire) (h : Word) (a : Span), accessOf s i = some (f, h, a) →
      (cur s).ready f = true → HasRoom s (h.getLsbD 30) → (cur s).stop.stopped = false →
      let e := fwOf s h
      (h.getLsbD 31 = true ∨ e.src = .none → StopsWith i s 0x12 0) ∧
      (h.getLsbD 31 = false → e.src ≠ .none → e.valid = true →
        (a.t % a.z ≠ 0 → StopsWith i s 0x14 0) ∧
        (a.t % a.z = 0 → e.len < a.t + a.z → StopsWith i s 0x15 0) ∧
        (a.t % a.z = 0 → a.t + a.z ≤ e.len → a.r = true → e.r = false → StopsWith i s 0x13 0) ∧
        (a.t % a.z = 0 → a.t + a.z ≤ e.len → (a.r = true → e.r = true) → a.w = true → e.w = false → StopsWith i s 0x13 1) ∧
        (a.t % a.z = 0 → a.t + a.z ≤ e.len → (a.r = true → e.r = true) → a.w = true → e.w = true →
          (e.dKnown = false → (cur s).trans = none → exec i s = .next s) ∧
          (e.dKnown = true → (∃ v, e.src = .page v) → s.ownOk s.curCell (e.va a.t) = false → StopsWith i s 0x16 0))) ∧
      (h.getLsbD 31 = false → e.src ≠ .none → e.valid = false → (cur s).trans = none → exec i s = .next s)) ∧
  (
    ∀ (i : Instr) (s : State) (f : Fire) (h : Word) (a : Span) (pa : Nat) (e : Fw), accessOf s i = some (f, h, a) →
      (cur s).ready f = true → HasRoom s (h.getLsbD 30) → s.chk s.curCell h a = .ok pa e →
      let ord := h.getLsbD 30
      pa = (fwOf s h).frame.toNat + a.t ∧ e = fwOf s h ∧
      (∀ o, i = .qld o → Answers i s fun t => ∃ w, Reserved s f w ∧ Asks s t .read pa e.key ord [(w, none)]) ∧
      (∀ o, i = .qatm o → Answers i s fun t => ∃ w v c, Reserved s f w ∧
        Asks s t (.atom (aopOf (o.y.val % 16)) (a.z == 8) v c) pa e.key ord [(w, none)] ∧
        (a.z = 4 → v = (lane (payOf s o.b) 0).setWidth 64 ∧ c = (lane (payOf s o.b) 2).setWidth 64) ∧
        (a.z = 8 → v = (payOf s o.b).extractLsb' 0 64 ∧ c = (payOf s o.b).extractLsb' 64 64)) ∧
      (∀ o, i = .qst o →
        let m := (lane (payOf s o.a) 1).toNat % 256
        let on (k : Nat) : Prop := m = 0 ∨ m / 2 ^ (k / 4) % 2 = 1
        (ord = true → Answers i s fun t => ∃ w bytes, Reserved s f w ∧ Asks s t (.write bytes) pa e.key true [(w, some 0)] ∧
          ∀ b v, (b, v) ∈ bytes ↔ ∃ k < 32, on k ∧ b = pa + k ∧ v = elt 8 (payOf s o.b) k) ∧
        (ord = false → Answers i s fun t => ∃ l ∈ (t.cell s.curCell).coal, l.line = pa / 128 ∧ l.last = s.clk ∧ l.key = e.key ∧
          (∃ w, Reserved s f w ∧ (w, 0) ∈ l.held) ∧ (∀ k < 32, on k → tblGet? l.bytes (pa + k) = some (elt 8 (payOf s o.b) k)) ∧
          t.mem = s.mem ∧ (t.cell s.curCell).outUnord = (cur s).outUnord + 1)))

/-- 08 R204, R205: QCPY checks its count, then its source, then its destination; a copy issues one request, whose order and count are those of the
source handle (log 88). QPF never stops the cell, and one that fails a check has no effect but its firing; it leaves the outstanding counts as
they were (log 61). -/
def Obligations.CopyAndPrefetchResults : Prop :=
  (∀ (o : OpBF) (s : State), (cur s).ready (ofBF o) = true → HasRoom s ((lane (payOf s o.a) 0).getLsbD 30) →
    let n := (lane (payOf s o.b) 1).toNat % 2 ^ 17
    let ok : Prop := 16 ≤ n ∧ n ≤ 65536 ∧ n % 16 = 0
    let src := s.chk s.curCell (lane (payOf s o.a) 0) ⟨(lane (payOf s o.a) 0).toNat % 65536, 16, n, true, false⟩
    let dst := s.chk s.curCell (lane (payOf s o.b) 0) ⟨(lane (payOf s o.b) 0).toNat % 65536, 16, n, false, true⟩
    (¬ok → (cur s).stop.stopped = false → StopsWith (.qcpy o) s 0x15 0) ∧
    (ok → 65536 < (s.quay (quayOf s.curCell)).copyBytes + n → exec (.qcpy o) s = .next s) ∧
    (ok → (s.quay (quayOf s.curCell)).copyBytes + n ≤ 65536 →
      (∀ c d v x, src = .bad c d v x → (cur s).stop.stopped = false → StopsWith (.qcpy o) s c d) ∧
      (∀ pa e c d v x, src = .ok pa e → dst = .bad c d v x → (cur s).stop.stopped = false → StopsWith (.qcpy o) s c d) ∧
      (∀ pa e pd d, src = .ok pa e → dst = .ok pd d → Answers (.qcpy o) s fun t => ∃ w, Reserved s (ofBF o) w ∧
        Asks s t (.copy pd d.key d.pol n (o.y.val % 2 == 1)) pa e.key ((lane (payOf s o.a) 0).getLsbD 30) [(w, some 0)] ∧
        (t.quay (quayOf s.curCell)).copyBytes = (s.quay (quayOf s.curCell)).copyBytes + n))) ∧
  (∀ (o : OpKB) (s : State), (cur s).ready (ofKB o) = true →
    let h := lane (payOf s o.a) 0
    let r := s.chk s.curCell h ⟨h.toNat % 65536, 16, 16, true, false⟩
    let n := (lane (payOf s o.b) 0).toNat % 2 ^ 17
    ((∀ pa e, r ≠ .ok pa e) ∨ n = 0 → exec (.qpf o) s = .next (s.finish (ofKB o) (ofKB o).popped 0 .zero 0)) ∧
    (∀ pa e, r = .ok pa e → n ≠ 0 → Answers (.qpf o) s fun t => t.mem = s.mem ∧
      (t.cell s.curCell).outUnord = (cur s).outUnord ∧ (t.cell s.curCell).outOrd = (cur s).outOrd ∧
      ∃ l q k, t.reqs = l ++ [q] ∧ q.kind = .prefetch k ∧ q.pa = pa / 128 * 128 ∧ q.res = [] ∧
        (h.toNat % 65536 < e.len → q.pa ≤ pa ∧ pa < q.pa + k)))

/-- 08 R200, R201: QLDS and QSTS emit the abacus's pending marker; a data firing accesses the address of the identifier's rods and steps the abacus,
once the address is translated; a misaligned address stops the cell with the abacus unstepped. -/
def Obligations.StreamResults : Prop :=
  (∀ (o : OpUI) (s : State), (cur s).ab.pending ≠ 0 → (cur s).dstOk o.x = true → (cur s).dstOk o.y = true →
    let a := (cur s).ab
    let f : Fire := { ofUI o with a := none, p := false }
    let pay : Wide := (if a.done then a.limitsWord else a.prev).setWidth 256
    let mark (c : Cell) : Cell := { c with ab := { c.ab with pending := 0 } }
    let tag : Tag := ⟨BitVec.ofNat 3 a.pending, false, ((cur s).outTag f).seq⟩
    FiresTag (.qlds o) s f pay tag mark ∧ FiresTag (.qsts o) s f pay tag mark) ∧
  (∀ (o : OpUI) (s : State), (cur s).ab.pending = 0 → (cur s).ab.done = false → (cur s).ready (ofUI o) = true →
    let l (k : Nat) : Word := (cur s).ctx.lits[Fin.ofNat 16 (o.b.val + k)]
    let ord := (l 6).getLsbD 2
    let base : DWord := (l 1 ++ l 0 : BitVec 64)
    let off : DWord := (lane (payOf s o.a) 0).signExtend 64
    let va (w : Bool) : DWord := (cur s).streamVa o w
    HasRoom s ord →
    ((l 6).toNat % 4 = 0 → va false = base + off +
        ((List.range 4).map fun k => BitVec.ofNat 64 (rodVal (cur s).ab (cur s).ab.ident.toNat k) * (l (2 + k)).signExtend 64).foldl (· + ·) 0 ∧
      va true + off = va false) ∧
    (∀ g, (va false).toNat % 32 ≠ 0 → (cur s).trans = some ⟨.stream (va false) false, .ok g⟩ → (cur s).stop.stopped = false →
      StopsWith (.qlds o) s 0x14 0 ∧
      Answers (.qlds o) s fun t => (t.cell s.curCell).ab = (cur s).ab ∧ (t.cell s.curCell).stop.off = (va false - base).setWidth 32) ∧
    (∀ a d, a ≠ 0x13 → (cur s).trans = some ⟨.stream (va false) false, .fail a d⟩ → (cur s).stop.stopped = false → StopsWith (.qlds o) s a d) ∧
    (∀ g, (va false).toNat % 32 = 0 → (cur s).trans = some ⟨.stream (va false) false, .ok g⟩ → Answers (.qlds o) s fun t =>
      (t.cell s.curCell).ab = (cur s).ab.step ∧ (t.cell s.curCell).trans = none ∧
      ∃ w, Reserved s (ofUI o) w ∧ Asks s t .read (g.pa (va false)) g.key ord [(w, none)]) ∧
    (∀ g p, (va true).toNat % 32 = 0 → (cur s).trans = some ⟨.stream (va true) true, .ok g⟩ → s.ownOk s.curCell (va true) = true →
      o.a = .inp p → (cur s).dataAt p = true → ord = true → Answers (.qsts o) s fun t =>
      (t.cell s.curCell).ab = (cur s).ab.step ∧ ∃ w bytes, Reserved s (ofUI o) w ∧
        Asks s t (.write bytes) (g.pa (va true)) g.key true [(w, some ((cur s).ab.ident.setWidth 256))]) ∧
    (∀ w g, (cur s).trans = some ⟨.stream (va w) w, .ok g⟩ → (va w).toNat % 32 = 0 → w = false ∨ s.ownOk s.curCell (va w) = true →
      w = false ∨ (∃ p, o.a = .inp p ∧ (cur s).dataAt p = true) →
      Answers (if w then .qsts o else .qlds o) s fun t => (t.cell s.curCell).ab = (cur s).ab.step))

/-- 08 R190 to R192, R215, R216: XLAT and BLKMAP, once their translation or lookup is over. Success fills the entry and gives its handle; a probe
that failed invalidates the entry and gives a fault handle with the cause; another failure stops the cell. A translation counts for XLAT only
while its token lies at A. BLKREF and BLKREL issue their request
where the lookup's checks hold; which failures are judged when it is served is the model's reading (log 24). -/
def Obligations.TranslationResults : Prop :=
  ((∀ (o : OpU) (s : State), (cur s).ready (ofU o) = true →
    let a := payOf s o.a
    let va : DWord := a.extractLsb' 0 64
    let i : Fin 16 := Fin.ofNat 16 ((lane a 2).toNat % 16)
    let fills (v : Wide) (e : Fw) : Prop := FiresTag (.xlat o) s (ofU o) v ((cur s).outTag (ofU o)) fun c =>
      { c with trans := none, fw := vset c.fw i e }
    (∀ g, (cur s).trans = some ⟨.xlat va ((cur s).srcAt o.a), .ok g⟩ →
      fills (inLane0 (BitVec.ofNat 32 (i.val * 65536 + va.toNat % 65536)))
        ⟨true, .page (va.extractLsb' 16 39), g.base, g.len, g.r, g.w, g.key, g.pol, g.d⟩) ∧
    (∀ v w st, (cur s).trans = some ⟨.xlat v w, st⟩ → v ≠ va ∨ w ≠ (cur s).srcAt o.a ∨ st = .running →
      exec (.xlat o) s = .next s) ∧
    (∀ c d, (cur s).trans = some ⟨.xlat va ((cur s).srcAt o.a), .fail c d⟩ →
      ((lane a 2).getLsbD 4 = true → fills (inLane0 (0x80000000#32 ||| BitVec.ofNat 32 (c % 256))) .invalid) ∧
      ((lane a 2).getLsbD 4 = false → (cur s).stop.stopped = false → StopsWith (.xlat o) s c d)) ∧
    ((cur s).trans = none → exec (.xlat o) s = .next s)) ∧
  (∀ (o : OpB) (s : State), (cur s).ready (ofB o) = true →
    let a := payOf s o.a
    let hdr : DWord := a.extractLsb' 0 64
    let wr := (lane a 2).getLsbD 4
    let blk := lane (payOf s o.b) 0
    let i : Fin 16 := Fin.ofNat 16 ((lane a 2).toNat % 16)
    let fills (v : Wide) (e : Fw) : Prop := FiresTag (.blkmap o) s (ofB o) v ((cur s).outTag (ofB o)) fun c =>
      { c with trans := none, fw := vset c.fw i e }
    (∀ g, (cur s).trans = some ⟨.block hdr blk wr, .ok g⟩ →
      fills (inLane0 (BitVec.ofNat 32 (i.val * 65536))) ⟨true, .block hdr blk wr, g.base, g.len, g.r, g.w, g.key, g.pol, g.d⟩) ∧
    (∀ c d, (cur s).trans = some ⟨.block hdr blk wr, .fail c d⟩ →
      ((lane a 2).getLsbD 5 = true → fills (inLane0 (0x80000000#32 ||| BitVec.ofNat 32 (c % 256))) .invalid) ∧
      ((lane a 2).getLsbD 5 = false → (cur s).stop.stopped = false → StopsWith (.blkmap o) s c d)) ∧
    ((cur s).trans = none → exec (.blkmap o) s = .next s))) ∧
  (∀ (o : OpU) (s : State) (rel : Bool), (cur s).ready (ofU o) = true → HasRoom s false →
    let i : Instr := if rel then .blkrel o else .blkref o
    let hdr : DWord := (payOf s o.a).extractLsb' 0 64
    let blk := lane (payOf s o.a) 2
    (hdr.toNat % 64 ≠ 0 → (cur s).stop.stopped = false → StopsWith i s 0x14 0) ∧
    (∀ h m b, (s.named (quayOf s.curCell) (s.cellVd s.curCell) true hdr blk.toNat).1 = .ok (h, m) →
      ((s.named (quayOf s.curCell) (s.cellVd s.curCell) true hdr blk.toNat).2.blkFind (quayOf s.curCell) (s.cellVd s.curCell) true hdr
        blk.toNat).1 = .ok b →
      (b.barred rel ≠ none → (cur s).stop.stopped = false → StopsWith i s 0x13 1) ∧ (b.barred rel = none →
      Answers i s fun t => ∃ l r w, t.reqs = l ++ [r] ∧ r.kind = .blkop hdr blk rel ∧ r.cell = s.curCell ∧ r.pa = m.pa ∧
        r.res = [(w, none)] ∧ Reserved s (ofU o) w ∧ (t.cell s.curCell).outUnord = (cur s).outUnord + 1)))

/-- 08 R207 to R209: HAND gives up its descriptor at the firing, and stops the cell where it does not hold it or the target is no quay cell of its
region; HAND, QFLS and QCMPL send the coalescing buffer, and their result waits for what was issued before. -/
def Obligations.OwnershipAndFlushResults : Prop :=
  let waits (s t : State) (f : Fire) (k : FlushKind) (v : Wide) : Prop :=
    (t.cell s.curCell).coal = [] ∧ ∃ w n, Reserved s f w ∧ (t.cell s.curCell).flush = (cur s).flush ++ [⟨k, n, w, v⟩] ∧ s.seqNo ≤ n
  (∀ (o : OpUI) (s : State), (cur s).ready (ofUI o) = true →
    let r : Fin 16 := Fin.ofNat 16 o.b.val
    let a := payOf s o.a
    let tgt := s.atPlace (s.cellPart s.curCell) ((lane a 0).toNat % 65536)
    let fits : Prop := isQuayCell tgt = true ∧ (s.cell tgt).region = (cur s).region
    ((cur s).owned[r].getLsbD 63 = false → (cur s).stop.stopped = false → StopsWith (.hand o) s 0x16 0) ∧
    ((cur s).owned[r].getLsbD 63 = true → ¬fits → (cur s).stop.stopped = false → StopsWith (.hand o) s 0x16 1) ∧
    ((cur s).owned[r].getLsbD 63 = true → fits → Answers (.hand o) s fun t =>
      (t.cell s.curCell).owned[r].getLsbD 63 = false ∧ ∃ d, d.getLsbD 63 = true ∧ waits s t (ofUI o) (.hand tgt r d) a)) ∧
  (∀ (o : OpU) (s : State), (cur s).ready (ofU o) = true →
    (Answers (.qfls o) s fun t => waits s t (ofU o) .stores (payOf s o.a)) ∧
    (Answers (.qcmpl o) s fun t => waits s t (ofU o) .all (payOf s o.a)))

/-- 08 R210 to R214: the channel instructions of the registered cells. A fault stops the cell with cause 0x19 and its detail. Each sends a request to
the home quay; CHCL closes the channel when its request is served there, and for the writer's later CHW at once (log 67). -/
def Obligations.ChannelCellResults : Prop :=
  ∀ (s : State) (A : Sel) (ch : Nat), s.chanOf (payOf s A) = ch →
    let k := s.chan ch
    let mine : Prop := s.partOf (ch / 128) = some (s.cellPart s.curCell) ∧ k.opened = true ∧ k.vd = (s.cellRegion s.curCell).vd
    let party (v : Word) : Prop := v.toNat / 2 ^ 30 = 0 ∧ v.toNat % 65536 = (s.place s.curCell).toNat
    let pos := s.chanPos ch
    let shut : Prop := k.closed = true ∨ ∃ r ∈ s.reqs, r.kind = .chcl ch ∧ r.served = false
    let req (t : State) (x : ReqKind) (res : List (DefW × Option Wide)) : Prop := Asks s t x 0 0 false res
    (∀ o : OpB, o.a = A → (cur s).ready (ofB o) = true → (cur s).chwBusy = false → HasRoom s false →
      let t : Token := ⟨payOf s o.b, (tokOf s o.b).tag⟩
      (k.opened = false → (cur s).stop.stopped = false → StopsWith (.chw o) s 0x19 0) ∧
      (mine → ¬party k.writer → (cur s).stop.stopped = false → StopsWith (.chw o) s 0x19 2) ∧
      (mine → party k.writer → shut → (cur s).stop.stopped = false → StopsWith (.chw o) s 0x1A 0) ∧
      (mine → party k.writer → ¬shut → t.tag.lvl ≠ 0 → pos ≠ 0 → (cur s).stop.stopped = false → StopsWith (.chw o) s 0x19 3) ∧
      (mine → party k.writer → ¬shut → t.tag.lvl = 0 ∨ pos = 0 → Answers (.chw o) s fun u =>
        (u.cell s.curCell).chwBusy = (pos == 0) ∧
        (t.tag.lvl ≠ 0 ∨ pos + 1 = k.e → ∃ w, Reserved s (ofB o) w ∧ req u (.chw ch t (pos == 0)) [(w, none)]) ∧
        (t.tag.lvl = 0 → pos + 1 ≠ k.e → req u (.chw ch t (pos == 0)) []))) ∧
    (∀ o : OpU, o.a = A → (cur s).ready (ofU o) = true → HasRoom s false →
      (mine → party k.reader → (cur s).chrBusy = false → Answers (.chr o) s fun u => (u.cell s.curCell).chrBusy = true ∧
        ∃ w, Reserved s (ofU o) w ∧ req u (.chr ch) [(w, none)]) ∧
      (mine → ¬party k.reader → (cur s).chrBusy = false → (cur s).stop.stopped = false → StopsWith (.chr o) s 0x19 2) ∧
      ((cur s).chrBusy = true → exec (.chr o) s = .next s) ∧
      (mine → Answers (.chst o) s fun u => ∃ w, Reserved s (ofU o) w ∧ req u (.chst ch) [(w, none)]) ∧
      (s.partOf (ch / 128) = some (s.cellPart s.curCell) → k.opened = true → k.vd ≠ (s.cellRegion s.curCell).vd →
        (cur s).stop.stopped = false → StopsWith (.chst o) s 0x19 1)) ∧
    (∀ o : OpKU, o.a = A → (cur s).ready (ofKU o) = true → mine → party k.writer →
      (pos ≠ 0 → HasRoom s false → (cur s).stop.stopped = false → StopsWith (.chcl o) s 0x19 4) ∧
      (¬HasRoom s false → exec (.chcl o) s = .next s) ∧
      (pos = 0 → HasRoom s false → Answers (.chcl o) s fun u => u.chan ch = k ∧ req u (.chcl ch) [])) ∧
    (∀ r : Req, r.kind = .chcl ch → ((s.serveChan r).chan ch) = { k with closed := true })

/-! Pilots. -/

/-- 09 R220: a result goes to gd, g0 reads as zero and keeps no write, the pc moves on, and nothing else of the machine changes. -/
def Obligations.PilotRegisterWrites : Prop :=
  ∀ (s : State) (d : Fin 32) (v : DWord),
    let p := s.curPilot
    let t := s.ret d v
    (∀ q : Pilot, q.reg 0 = 0) ∧
    (∀ j : Fin 32, (t.pilot p).reg j = if j = d ∧ d ≠ 0 then v else (s.pilot p).reg j) ∧
    t.pilot p = { s.pilot p with g := (t.pilot p).g, pc := (s.pilot p).pc + 4, wait := .no } ∧
    (∀ q, q ≠ p → t.pilot q = s.pilot q) ∧ { t with pilots := s.pilots } = s

/-- 03 R80, 09 R228, R229: the integer functions, none of which traps, and the immediate instructions with their immediates extended. -/
def Obligations.PilotIntegerResults : Prop :=
  (∀ s : State,
    let op (i : OpR3 → Instr) (g : DWord → DWord → DWord) : Prop :=
      ∀ o, exec (i o) s = .next (s.ret o.d (g (s.g o.a) (s.g o.b)))
    let un (i : OpR2 → Instr) (R : DWord → Nat → Prop) : Prop :=
      ∀ o, ∃ n ≤ 64, exec (i o) s = .next (s.ret o.d (BitVec.ofNat 64 n)) ∧ R (s.g o.a) n
    let num (b : Bool) : DWord := if b then 1 else 0
    op .aluAdd (fun x y => BitVec.ofNat 64 (x.toNat + y.toNat)) ∧ op .aluSub (fun x y => BitVec.ofInt 64 (x.toInt - y.toInt)) ∧
    op .aluAnd (· &&& ·) ∧ op .aluOr (· ||| ·) ∧ op .aluXor (· ^^^ ·) ∧ op .aluAndn (fun x y => x &&& ~~~y) ∧
    op .aluSll (fun x y => BitVec.ofNat 64 (x.toNat * 2 ^ (y.toNat % 64))) ∧
    op .aluSrl (fun x y => BitVec.ofNat 64 (x.toNat / 2 ^ (y.toNat % 64))) ∧
    op .aluSra (fun x y => BitVec.ofInt 64 (x.toInt / (2 ^ (y.toNat % 64) : Nat))) ∧
    op .aluSlt (fun x y => num (decide (x.toInt < y.toInt))) ∧ op .aluSltu (fun x y => num (decide (x.toNat < y.toNat))) ∧
    op .aluMin (fun x y => BitVec.ofInt 64 (min x.toInt y.toInt)) ∧ op .aluMax (fun x y => BitVec.ofInt 64 (max x.toInt y.toInt)) ∧
    op .aluMinu (fun x y => BitVec.ofNat 64 (min x.toNat y.toNat)) ∧ op .aluMaxu (fun x y => BitVec.ofNat 64 (max x.toNat y.toNat)) ∧
    op .aluMul (fun x y => BitVec.ofNat 64 (x.toNat * y.toNat)) ∧
    op .aluMulh (fun x y => BitVec.ofInt 64 (x.toInt * y.toInt / (2 ^ 64 : Nat))) ∧
    op .aluMulhu (fun x y => BitVec.ofNat 64 (x.toNat * y.toNat / 2 ^ 64)) ∧
    (∀ o, ∃ q r : DWord, exec (.aluDiv o) s = .next (s.ret o.d q) ∧ exec (.aluRem o) s = .next (s.ret o.d r) ∧
      let x := s.g o.a
      let y := s.g o.b
      (y = 0 → q = BitVec.allOnes 64 ∧ r = x) ∧ (x.toInt = -(2 ^ 63 : Nat) → y.toInt = -1 → q = x ∧ r = 0) ∧
      (y ≠ 0 → ¬(x.toInt = -(2 ^ 63 : Nat) ∧ y.toInt = -1) → x.toInt = q.toInt * y.toInt + r.toInt ∧
        r.toInt.natAbs < y.toInt.natAbs ∧ (r.toInt = 0 ∨ (r.toInt < 0 ↔ x.toInt < 0)))) ∧
    (∀ o, ∃ q r : DWord, exec (.aluDivu o) s = .next (s.ret o.d q) ∧ exec (.aluRemu o) s = .next (s.ret o.d r) ∧
      let x := s.g o.a
      let y := s.g o.b
      (y = 0 → q = BitVec.allOnes 64 ∧ r = x) ∧ (y ≠ 0 → x.toNat = q.toNat * y.toNat + r.toNat ∧ r.toNat < y.toNat)) ∧
    un .aluClz (fun x n => (∀ j < 64, 64 - n ≤ j → x.getLsbD j = false) ∧ (n < 64 → x.getLsbD (63 - n) = true)) ∧
    un .aluCtz (fun x n => (∀ j < n, x.getLsbD j = false) ∧ (n < 64 → x.getLsbD n = true)) ∧
    un .aluPopc (fun x n => n = (List.range 64).countP fun j => x.getLsbD j)) ∧
  (∀ s : State,
    let op (i : OpI14 → Instr) (g : DWord → BitVec 14 → DWord) : Prop := ∀ o, exec (i o) s = .next (s.ret o.d (g (s.g o.a) o.i))
    let num (b : Bool) : DWord := if b then 1 else 0
    op .addi (fun x i => BitVec.ofInt 64 (x.toInt + i.toInt)) ∧
    op .andi (fun x i => x &&& BitVec.ofNat 64 i.toNat) ∧ op .ori (fun x i => x ||| BitVec.ofNat 64 i.toNat) ∧
    op .xori (fun x i => x ^^^ BitVec.ofNat 64 i.toNat) ∧ op .slti (fun x i => num (decide (x.toInt < i.toInt))) ∧
    op .sltiu (fun x i => num (decide (x.toNat < i.toNat))) ∧
    (∀ o, exec (.shi o) s = .next (s.ret o.d (match o.k with
      | .sll => BitVec.ofNat 64 ((s.g o.a).toNat * 2 ^ o.n.val)
      | .srl => BitVec.ofNat 64 ((s.g o.a).toNat / 2 ^ o.n.val)
      | .sra => BitVec.ofInt 64 ((s.g o.a).toInt / (2 ^ o.n.val : Nat))))) ∧
    (∀ o, exec (.lui o) s = .next (s.ret o.d (BitVec.ofInt 64 (o.i.toInt * 16384)))) ∧
    (∀ o, exec (.adpc o) s = .next (s.ret o.d (BitVec.ofInt 64 (s.me.pc.toNat / 16384 * 16384 + o.i.toInt * 16384)))))

/-- 09 R230: branches and jumps. JALR raises trap 3 on a misaligned target, with gd unchanged; a target that cannot be fetched raises trap 2 at the
target. -/
def Obligations.BranchesAndJumps : Prop :=
  (∀ s : State,
    let br (i : OpBr → Instr) (c : DWord → DWord → Bool) : Prop := ∀ o, exec (i o) s = .next (s.modMe fun m =>
      { m with pc := if c (s.g o.a) (s.g o.b) then BitVec.ofInt 64 (m.pc.toInt + o.o.toInt * 4) else m.pc + 4 })
    br .beq (fun x y => x == y) ∧ br .bne (fun x y => x != y) ∧ br .blt (fun x y => x.toInt < y.toInt) ∧
    br .bge (fun x y => x.toInt ≥ y.toInt) ∧ br .bltu (fun x y => x.toNat < y.toNat) ∧ br .bgeu (fun x y => x.toNat ≥ y.toNat) ∧
    (∀ o, exec (.jal o) s = .next (s.modMe fun m =>
      { m.setReg o.d (m.pc + 4) with pc := BitVec.ofInt 64 (m.pc.toInt + o.i.toInt * 4) })) ∧
    (∀ o, let t := s.g o.a + o.i.signExtend 64
      (t.toNat % 4 = 0 → exec (.jalr o) s = .next (s.modMe fun m => { m.setReg o.d (m.pc + 4) with pc := t })) ∧
      (t.toNat % 4 ≠ 0 → exec (.jalr o) s = .next (s.trap 3 t)))) ∧
  (∀ (s : State) (p : Nat), (s.pilot p).online = true → (s.pilot p).wait = .no → (s.pilot p).evTaken = false →
    ({ s with curPilot := p }.ptrans p (s.pilot p).pc .x).1 = .bad →
    Answers' (s.turn (.pilot p)) fun t =>
      (t.pilot p).cause = 2 ∧ (t.pilot p).tval = (s.pilot p).pc ∧ (t.pilot p).epc = (s.pilot p).pc &&& ~~~3#64 ∧
      (t.pilot p).pc = (s.pilot p).tvec)

/-- 09 R231, R232: loads and stores check alignment, then translation, and wait for a walk. A load is answered from a held L1 line (LD alone;
whether the L1 still holds a line is a free choice, log 11) or by an access to the home slice, and ends when the answer has come, with the extended
bytes in gd. The slice gives memory's bytes, and for LD fills the L1 with the line, unless the load shares the answer of an older read (log 12);
a poisoned sector takes the pilot offline. A store is sent, is acknowledged later, and changes the pilot's own L1 copy; memory is as it was, and
after a FENCE.REL a store waits until those before the fence are acknowledged. That accesses take these two steps is log 59. -/
def Obligations.PilotLoadsAndStores : Prop :=
  (∀ (o : OpMem) (s : State),
    let n := match o.z with | .b | .bu => 1 | .h | .hu => 2 | .w | .wu => 4 | .d => 8 | .q => 16
    let va := s.g o.a + o.o.signExtend 64
    let p := s.curPilot
    let begins : Prop := s.me.wait ≠ .mem ∧ ∀ k v, s.me.wait ≠ .got k v
    let low (k : Nat) (v : BitVec 128) : DWord := match o.z with
      | .b => (v.extractLsb' 0 8).signExtend 64 | .h => (v.extractLsb' 0 16).signExtend 64
      | .w => (v.extractLsb' 0 32).signExtend 64 | .bu => (v.extractLsb' 0 8).setWidth 64
      | .hu => (v.extractLsb' 0 16).setWidth 64 | .wu => (v.extractLsb' 0 32).setWidth 64
      | _ => v.extractLsb' (64 * k) 64
    let gives (v : BitVec 128) (t : State) : Prop := (t.pilot p).pc = s.me.pc + 4 ∧ (t.pilot p).wait = .no ∧ t.mem = s.mem ∧
      ∀ j : Fin 32, (t.pilot p).reg j = if j = 0 then 0 else if o.z = .q ∧ j.val = (o.d.val + 1) % 32 then low 1 v
        else if j = o.d then low 0 v else s.me.reg j
    let under (s1 t : State) (f : Frame) (fill : Bool) : Prop := (t.pilot p).wait = .mem ∧ (t.pilot p).pc = s.me.pc ∧
      (t.pilot p).g = s.me.g ∧ t.mem = s1.mem ∧
      ∃ id, (t.pilot p).acc = some ⟨id, f.base.toNat + va.toNat % 65536, f.key, f.pol, s1.pilotVd p, .load fill n, []⟩
    (begins → va.toNat % n ≠ 0 → exec (.ld o) s = .next (s.trap 4 va) ∧ exec (.ldx o) s = .next (s.trap 4 va)) ∧
    (va.toNat % n ≠ 0 → exec (.st o) s = .next (s.trap 5 va)) ∧
    (∀ s1, va.toNat % n = 0 →
      (begins → s.ptrans p va .r = (.bad, s1) →
        exec (.ld o) s = .next (s1.trap 6 va) ∧ exec (.ldx o) s = .next (s1.trap 6 va)) ∧
      (begins → s.ptrans p va .r = (.wait, s1) →
        exec (.ld o) s = .next (s1.waits .walk) ∧ exec (.ldx o) s = .next (s1.waits .walk)) ∧
      (s.ptrans p va .w = (.bad, s1) → exec (.st o) s = .next (s1.trap 7 va)) ∧
      (s.ptrans p va .w = (.wait, s1) → exec (.st o) s = .next (s1.waits .walk))) ∧
    (∀ f s1, begins → va.toNat % n = 0 → s.ptrans p va .r = (.ok f, s1) → f.base.toNat % 65536 = 0 →
      let pa := f.base.toNat + va.toNat % 65536
      (Answers (.ldx o) s fun t => under s1 t f false) ∧
      (tblGet? (s1.pilot p).l1d (pa / 128) = none → Answers (.ld o) s fun t => under s1 t f true) ∧
      (∀ c, tblGet? (s1.pilot p).l1d (pa / 128) = some c → Answers (.ld o) s fun t =>
        ((t.pilot p).wait = .got (s.clk + 2) ((c >>> (8 * (pa % 128))).setWidth 128) ∧ (t.pilot p).pc = s.me.pc ∧ t.mem = s1.mem) ∨
          under s1 t f true)) ∧
    (s.me.wait = .mem → exec (.ld o) s = .next s ∧ exec (.ldx o) s = .next s) ∧
    (∀ k v, s.me.wait = .got k v →
      (k ≤ s.clk → Answers (.ld o) s (gives v) ∧ Answers (.ldx o) s (gives v)) ∧
      (s.clk < k → exec (.ld o) s = .next s ∧ exec (.ldx o) s = .next s)) ∧
    (∀ f s1, va.toNat % n = 0 → s.ptrans p va .w = (.ok f, s1) → f.base.toNat % 65536 = 0 →
      let pa := f.base.toNat + va.toNat % 65536
      ((∃ x ∈ s.me.stores, x.id < s.me.rel) → exec (.st o) s = .next (s1.waits .again)) ∧
      (s.me.lateAt pa = true → exec (.st o) s = .next (s1.waits .again)) ∧
      ((∀ x ∈ s.me.stores, s.me.rel ≤ x.id) → s.me.lateAt pa = false → Answers (.st o) s fun t =>
        ∃ bs id, bs.length = n ∧ (t.pilot p).stores = (s1.pilot p).stores ++ [⟨id, pa, f.key, f.pol, s1.myVd, bs⟩] ∧
        (∀ i < n, bs.getD i 0 = ((if i < 8 then s.g o.d else s.g (Fin.ofNat 32 (o.d.val + 1))).extractLsb' (8 * (i % 8)) 8)) ∧
        (t.pilot p).pc = s.me.pc + 4 ∧ (t.pilot p).g = s.me.g ∧ t.mem = s1.mem ∧
        (∀ l, l ≠ pa / 128 → tblGet? (t.pilot p).l1d l = tblGet? (s1.pilot p).l1d l) ∧
        (tblGet? (s1.pilot p).l1d (pa / 128) = none → tblGet? (t.pilot p).l1d (pa / 128) = none) ∧
        ∀ c, tblGet? (s1.pilot p).l1d (pa / 128) = some c → ∃ d, tblGet? (t.pilot p).l1d (pa / 128) = some d ∧
          ∀ i < 128, d.extractLsb' (8 * i) 8 =
            if pa % 128 ≤ i ∧ i < pa % 128 + n then bs.getD (i - pa % 128) 0 else c.extractLsb' (8 * i) 8))) ∧
  (∀ (s : State) (p : Nat) (a : PAcc) (fill : Bool) (n : Nat), a.what = .load fill n → a.pa % 16 + n ≤ 16 → 0 < n →
    let t := s.serveAcc p a
    (s.poisonedAt a.pa n = true → (t.pilot p).online = false ∧ t.mem = s.mem) ∧
    (s.poisonedAt a.pa n = false → fill = false ∨ (s.joined p a = none ∧ a.pre = []) →
      ∃ v, (t.pilot p).wait = .got (s.clk + 1) v ∧ (t.pilot p).acc = none ∧ t.mem = s.mem ∧
        (∀ i < n, v.extractLsb' (8 * i) 8 = s.byteAt a.key (a.pa + i)) ∧
        (fill = true → s.poisonedAt (a.pa / 128 * 128) 128 = false → ∃ l, tblGet? (t.pilot p).l1d (a.pa / 128) = some l ∧
          ∀ i < 128, l.extractLsb' (8 * i) 8 = s.byteAt a.key (a.pa / 128 * 128 + i)) ∧
        (fill = false → (t.pilot p).l1d = (s.pilot p).l1d)))

/-- 08 R203, 09 R233: an AMO checks alignment, then translation, and goes to its home slice, with `.rel` once every earlier store is acknowledged.
The slice writes its new value and changes no other byte of memory as it is read under any key outside its sector, or under its own key, and
drops the pilot's own copy of the line; the result goes to gd when it has come, and `.acq` empties the L1 (two steps: log 59). Then what an
atomic operation writes and returns, for 32 and 64 bits. -/
def Obligations.PilotAtomicResults : Prop :=
  (∀ (o : OpAmo) (s : State),
    let n := if o.dw then 8 else 4
    let va := s.g o.a
    let p := s.curPilot
    let begins : Prop := s.me.wait ≠ .mem ∧ ∀ k v, s.me.wait ≠ .got k v
    let behind (x : PStore) : Prop := x.id < if o.rel then s.seqNo else s.me.rel
    (begins → va.toNat % n ≠ 0 → exec (.amo o) s = .next (s.trap 5 va)) ∧
    (∀ s1, begins → va.toNat % n = 0 →
      (s.ptrans p va .w = (.bad, s1) → exec (.amo o) s = .next (s1.trap 7 va)) ∧
      (s.ptrans p va .w = (.wait, s1) → exec (.amo o) s = .next (s1.waits .walk)) ∧
      ∀ f, s.ptrans p va .w = (.ok f, s1) →
        ((∃ x ∈ s.me.stores, behind x) → exec (.amo o) s = .next (s1.waits .again)) ∧
        ((∀ x ∈ s.me.stores, ¬behind x) → Answers (.amo o) s fun t => (t.pilot p).wait = .mem ∧ (t.pilot p).pc = s.me.pc ∧
          (t.pilot p).g = s.me.g ∧ t.mem = s1.mem ∧ ∃ id, (t.pilot p).acc =
            some ⟨id, f.base.toNat + va.toNat % 65536, f.key, f.pol, s1.pilotVd p, .amo o.op o.dw (s.g o.b) (s.g o.d), []⟩)) ∧
    (s.me.wait = .mem → exec (.amo o) s = .next s) ∧
    (∀ k v, s.me.wait = .got k v →
      (s.clk < k → exec (.amo o) s = .next s) ∧
      (k ≤ s.clk → Answers (.amo o) s fun t => (t.pilot p).pc = s.me.pc + 4 ∧ t.mem = s.mem ∧
        (∀ j : Fin 32, j ≠ o.d → (t.pilot p).reg j = s.me.reg j) ∧
        (o.d ≠ 0 → (t.pilot p).reg o.d = if o.dw = true ∨ o.op = .tas then v.extractLsb' 0 64 else (v.extractLsb' 0 32).signExtend 64) ∧
        (t.pilot p).l1d = if o.acq then [] else s.me.l1d))) ∧
  (∀ (s : State) (p : Nat) (a : PAcc) (op : Aop) (dw : Bool) (v c : DWord), a.what = .amo op dw v c →
    let n := if dw then 8 else 4
    let t := s.serveAcc p a
    let m : DWord := s.valAt 64 a.key a.pa n
    MemOk s → a.pa % n = 0 →
    (s.poisonedAt a.pa n = true → (t.pilot p).online = false ∧ t.mem = s.mem) ∧
    (s.poisonedAt a.pa n = false →
      (dw = true → t.valAt 64 a.key a.pa 8 = atomNew 64 op m v c ∧
        ∃ r, (t.pilot p).wait = .got (s.clk + 1) r ∧ r.extractLsb' 0 64 = atomRes 64 op m v) ∧
      (dw = false →
        t.valAt 32 a.key a.pa 4 = atomNew 32 op (m.extractLsb' 0 32) (v.extractLsb' 0 32) (c.extractLsb' 0 32) ∧
        ∃ r, (t.pilot p).wait = .got (s.clk + 1) r ∧ r.extractLsb' 0 32 = atomRes 32 op (m.extractLsb' 0 32) (v.extractLsb' 0 32)) ∧
      (∀ b k, b / 16 ≠ a.pa / 16 → t.byteAt k b = s.byteAt k b) ∧
      (∀ b, b < a.pa ∨ a.pa + n ≤ b → t.byteAt a.key b = s.byteAt a.key b) ∧
      tblGet? (t.pilot p).l1d (a.pa / 128) = none)) ∧
  (∀ (n : Nat) (m v c : BitVec n), n = 32 ∨ n = 64 →
    atomNew n .add m v c = BitVec.ofNat n (m.toNat + v.toNat) ∧
    (atomNew n .min m v c).toInt = min m.toInt v.toInt ∧ (atomNew n .max m v c).toInt = max m.toInt v.toInt ∧
    (atomNew n .minu m v c).toNat = min m.toNat v.toNat ∧ (atomNew n .maxu m v c).toNat = max m.toNat v.toNat ∧
    (∀ j, j < n → (atomNew n .and m v c).getLsbD j = (m.getLsbD j && v.getLsbD j) ∧
      (atomNew n .or m v c).getLsbD j = (m.getLsbD j || v.getLsbD j) ∧ (atomNew n .xor m v c).getLsbD j = (m.getLsbD j != v.getLsbD j)) ∧
    atomNew n .xchg m v c = v ∧ (atomNew n .cas m v m = v) ∧ (m ≠ c → atomNew n .cas m v c = m) ∧
    (∀ j, j < n → (atomNew n .tas m v c).getLsbD j = (m.getLsbD j || j == v.toNat % n)) ∧
    (atomNew n .incw m v c).toNat = (if v.toNat ≤ m.toNat then 0 else m.toNat + 1) ∧
    (∀ op, op ≠ .tas → atomRes n op m v = m) ∧
    (atomRes n .tas m v).toNat = if m.getLsbD (v.toNat % n) then 1 else 0)

/-- 09 R235, R236, R238: the fences and the system instructions that are not traps. FENCE.REL only marks the stores that later ones wait for;
the others wait until what they name is acknowledged. TLBINV removes the entries that it hits at every quay of the partition, and no other. -/
def Obligations.FencesAndSystemResults : Prop :=
  ∀ s : State,
    let p := s.curPilot
    let m := s.me
    let after (i : Instr) (P : Pilot → Prop) : Prop := Answers i s fun t => P (t.pilot p) ∧ (t.pilot p).g = m.g
    after .fenceAcq (fun q => q.l1d = [] ∧ q.pc = m.pc + 4 ∧ q.stores = m.stores ∧ q.join = s.seqNo) ∧
    after .fenceRel (fun q => q.stores = m.stores ∧ q.pc = m.pc + 4 ∧ q.l1d = m.l1d ∧ q.rel = s.seqNo) ∧
    (m.stores = [] → after .fenceFull (fun q => q.stores = [] ∧ q.l1d = [] ∧ q.pc = m.pc + 4) ∧
      (m.async = [] → after .fenceIo fun q => q.stores = [] ∧ q.l1d = [] ∧ q.l1i = [] ∧ q.pc = m.pc + 4)) ∧
    (m.stores ≠ [] → exec .fenceFull s = .next (s.waits .again)) ∧
    (m.stores ≠ [] ∨ m.async ≠ [] → exec .fenceIo s = .next (s.waits .again)) ∧
    (m.evPending = true → after .sysWfe fun q => q.pc = m.pc + 4 ∧ q.wait = .no) ∧
    (m.evPending = false → m.wait = .no → after .sysWfe fun q => q.pc = m.pc ∧ q.wait = .wfe (s.clk + 65535) ∧ q.woke = false) ∧
    (∀ d, m.evPending = false → m.wait = .wfe d → m.woke = true → after .sysWfe fun q => q.pc = m.pc + 4 ∧ q.wait = .no) ∧
    (∀ d, m.evPending = false → m.wait = .wfe d → m.woke = false → exec .sysWfe s = .next s) ∧
    (m.sup = true →
      (m.evPending = true → after .sysIdle fun q => q.pc = m.pc + 4 ∧ q.wait = .no) ∧
      (m.evPending = false → after .sysIdle fun q => q.pc = m.pc ∧ q.wait = .idle) ∧
      (m.stores = [] → m.async = [] → after .sysHalt fun q => q.online = false ∧ q.stores = []) ∧
      (m.stores ≠ [] ∨ m.async ≠ [] → exec .sysHalt s = .next (s.waits .again)) ∧
      ∀ o : OpRAB,
        let vd := 8 * s.myPart + (s.g o.b).toNat % 8
        let hit (e : Tlb) : Prop := e.vd = vd ∧ ((s.g o.b).getLsbD 3 = true ∨ Tlb.hit vd (s.g o.a) e = true) ∧
          ((s.g o.b).getLsbD 4 = true ∨ e.pte.getLsbD 5 = false)
        (m.wait = .no → after (.sysTlbinv o) (fun q => q.pc = m.pc ∧ ∃ k, q.wait = .tlbinv k vd) ∧
          Answers (.sysTlbinv o) s fun t => ∀ q, (q ∈ s.quaysOf s.myPart → ∀ e, e ∈ (t.quay q).tlb ↔ e ∈ (s.quay q).tlb ∧ ¬hit e) ∧
            (q ∉ s.quaysOf s.myPart → (t.quay q).tlb = (s.quay q).tlb)) ∧
        (∀ k d, m.wait = .tlbinv k d → s.tlbinvWaits k d = true → exec (.sysTlbinv o) s = .next s) ∧
        (∀ k d, m.wait = .tlbinv k d → s.tlbinvWaits k d = false → after (.sysTlbinv o) fun q => q.pc = m.pc + 4 ∧ q.wait = .no))

/-- 09 R225, R227, R236: taking a trap, SYS TRAP, and returning from one. -/
def Obligations.TrapEntryAndReturn : Prop :=
  ∀ s : State,
    (∀ cause tval : DWord, let t := s.trap cause tval
      t.me.cause = cause ∧ t.me.tval = tval ∧ t.me.pc = s.me.tvec ∧ (s.me.pc.toNat % 4 = 0 → t.me.epc = s.me.pc) ∧
      (∀ j < 8, t.me.status.getLsbD (8 + j) = s.me.status.getLsbD j) ∧ t.me.status.getLsbD 0 = true ∧
      t.me.status.getLsbD 1 = false ∧
      t.me =
        { s.me with
          epc := t.me.epc, cause := cause, tval := tval, status := t.me.status, pc := s.me.tvec, wait := .no, ans := none, walk := none
          acc := none } ∧
      (∀ q, q ≠ s.curPilot → t.pilot q = s.pilot q) ∧ { t with pilots := s.pilots } = s) ∧
    (∀ o, exec (.sysTrap o) s = .next (s.trap (if s.me.sup then 0xA else 9) (s.g o.a))) ∧
    (s.me.sup = true → Answers .sysEret s fun t => t.me.pc = s.me.epc ∧
      (∀ j < 8, t.me.status.getLsbD j = s.me.status.getLsbD (8 + j)) ∧
      (∀ j < 8, t.me.status.getLsbD (8 + j) = s.me.status.getLsbD (8 + j)) ∧ t.me.g = s.me.g ∧ t.me.epc = s.me.epc ∧
      { t with pilots := s.pilots } = s) ∧
    (s.me.sup = false → ∃ w, encode .sysEret = some w ∧ exec .sysEret s = .next (s.trap 1 (w.setWidth 64)))

/-- 03 R87, 09 R223, R236, R239: a word that is no instruction, and an instruction that user mode may not execute, raise trap 1 with the word in
tval, and have no other effect. -/
def Obligations.IllegalInstructionsTrap : Prop :=
  (∀ (s : State) (p : Nat) (w : Word), (decodePilot w.toNat).toOption = none → s.curPilot = p → s.pilotWord p w = .next (s.trap 1 (w.setWidth 64))) ∧
  (∀ (s : State) (i : Instr) (w : Word), supervisorOnly i = true → s.me.sup = false → encode i = some w →
    exec i s = .next (s.trap 1 (w.setWidth 64))) ∧
  (∀ (s : State) (o : OpCsrR) (w : Word), o.c ≠ 0x300 → o.c ≠ 0x400 → s.me.sup = false → encode (.csrRd o) = some w →
    exec (.csrRd o) s = .next (s.trap 1 (w.setWidth 64))) ∧
  (∀ (s : State) (o : OpCsrW) (i : Instr) (w : Word), i = .csrWr o ∨ i = .csrSet o ∨ i = .csrClr o →
    o.c = 0x300 ∨ o.c = 0x301 ∨ o.c = 0x400 → encode i = some w → exec i s = .next (s.trap 1 (w.setWidth 64))) ∧
  (∀ (s : State) (o : OpR3) (w : Word), (s.g o.a).getLsbD 8 = true → s.me.sup = false → encode (.bcnCast o) = some w →
    exec (.bcnCast o) s = .next (s.trap 1 (w.setWidth 64)))

/-- 09 R221 to R223: reads of the CSRs, and the writes: whole, set and clear. Reserved bits of status and of evqbase keep zero; epc and tvec have
<1:0> zero; the event queue's registers take writes under their conditions. -/
def Obligations.CsrResults : Prop :=
  ∀ s : State,
    let m := s.me
    let reads (c : BitVec 12) (v : DWord) : Prop := ∀ o : OpCsrR, o.c = c →
      (m.sup = true ∨ c = 0x300 ∨ c = 0x400 → exec (.csrRd o) s = .next (s.ret o.d v))
    reads 0x100 m.status ∧ reads 0x101 m.cause ∧ reads 0x102 m.epc ∧ reads 0x103 m.tval ∧ reads 0x104 m.tvec ∧
    reads 0x105 m.scratch ∧ reads 0x200 m.evqbase ∧ reads 0x201 (m.evqhead.setWidth 64) ∧ reads 0x202 (m.evqtail.setWidth 64) ∧
    reads 0x300 (m.vdid.setWidth 64) ∧ reads 0x301 (BitVec.ofNat 64 s.myPart) ∧ reads 0x400 m.cycles ∧
    (m.sup = true → ∀ o : OpCsrW,
      let g := s.g o.a
      let writes (c : BitVec 12) (old : DWord) (f : DWord → Pilot) : Prop := o.c = c →
        exec (.csrWr o) s = .next (s.modMe fun _ => (f g).next) ∧ exec (.csrSet o) s = .next (s.modMe fun _ => (f (old ||| g)).next) ∧
        exec (.csrClr o) s = .next (s.modMe fun _ => (f (old &&& ~~~g)).next)
      writes 0x100 m.status (fun v => { m with status := v &&& 0x303 }) ∧ writes 0x101 m.cause (fun v => { m with cause := v }) ∧
      writes 0x102 m.epc (fun v => { m with epc := v &&& ~~~3#64 }) ∧ writes 0x103 m.tval (fun v => { m with tval := v }) ∧
      writes 0x104 m.tvec (fun v => { m with tvec := v &&& ~~~3#64 }) ∧ writes 0x105 m.scratch (fun v => { m with scratch := v }) ∧
      writes 0x200 m.evqbase (fun v => { m with evqbase := v &&& 0x000FFFFFFFFFF00F, evqhead := m.evqtail }) ∧
      writes 0x201 (m.evqhead.setWidth 64) (fun v =>
        { m with evqhead := if evqEntries m.evqbase < (m.evqtail - v.setWidth 32).toNat then m.evqtail else v.setWidth 32 }) ∧
      writes 0x202 (m.evqtail.setWidth 64) (fun v =>
        if m.evqhead = m.evqtail then { m with evqhead := v.setWidth 32, evqtail := v.setWidth 32 } else m))

/-! Commands. A command is sent once every earlier store of the pilot is acknowledged. -/

/-- 09 R239 to R242: the FAB commands, and that every command of supervisor mode waits while a store of the pilot is not acknowledged. A region of a
virtual device that the partition does not have is not its own (log 46); a command wakes the strips of the region that it names, and RPLACE those of the new origin (log 96); a state
that a command does not accept gives −3; else each has its effect. RSTART acts at once, and its region runs from the next clk (log 48); RLOAD's
work ends after a fixed time (log 9); RPLACE moves the region alone (log 50). -/
def Obligations.FabricCommandResults : Prop :=
  (∀ (s : State) (i : Instr), isCommand i = true → s.me.sup = true → s.me.stores ≠ [] → exec i s = .next (s.waits .again)) ∧
  ∀ (s : State), s.me.sup = true → s.me.wait = .no → s.me.stores = [] →
    let part := s.myPart
    let rid (a : Fin 32) : Nat := (s.g a).toNat % 2048
    let key (a : Fin 32) : Nat := 2048 * part + rid a
    let st (a : Fin 32) : RState := (s.region (key a)).st
    let mine (a : Fin 32) : Prop := (tblGet? s.vds (8 * part + rid a / 256)).isSome
    let woken (a : Fin 32) : State := s.wakeRegion (key a)
    let gives (i : Instr) (d : Fin 32) (v : Int) (P : State → Prop) : Prop := ∃ t : State, exec i s = .next (t.ret d (BitVec.ofInt 64 v)) ∧ P t
    let refuses (i : Instr) (d a : Fin 32) (v : Int) : Prop := exec i s = .next ((woken a).ret d (BitVec.ofInt 64 v))
    let onlyWakes (i : Instr) (d : Fin 32) (v : Int) : Prop :=
      gives i d v fun t => { t with host := s.host } = s ∧ (Sorted s.host.power → ∀ k, s.powerOf k = .p0 → t.powerOf k = .p0)
    (∀ a, { woken a with host := s.host } = s ∧
      (st a ≠ .free → Sorted s.host.power → ∀ k < hdrSpan (s.region (key a)).hdr (s.region (key a)).col,
        (woken a).powerOf ((s.part (s.region (key a)).part).first + (s.region (key a)).strip + k) = .p0)) ∧
    (∀ i d a, regionCommand i = some (d, a) →
      (¬mine a → exec i s = .next (s.ret d (BitVec.ofInt 64 (-2)))) ∧
      (mine a → acceptedIn i (st a) = false → (∀ o, i ≠ .fabRplace o) → refuses i d a (-3)) ∧
      (mine a → acceptedIn i (st a) = false → onlyWakes i d (-3))) ∧
    (∀ o : OpR2, mine o.a → st o.a = .loaded ∨ st o.a = .stopped →
      let u := woken o.a
      (u.unreached (key o.a) = true → refuses (.fabRstart o) o.d o.a (-3)) ∧
      (u.unreached (key o.a) = false → (s.region (key o.a)).started = true ∨ u.stitchFail (key o.a) = none →
        gives (.fabRstart o) o.d 0 fun t => let g := t.region (key o.a)
          g.st = .running ∧ g.gated = false ∧ g.runs = s.clk + 1 ∧ g.counter = g.quantum.toNat ∧ g.hdr = (s.region (key o.a)).hdr) ∧
      (∀ f, u.unreached (key o.a) = false → (s.region (key o.a)).started = false → u.stitchFail (key o.a) = some f →
        gives (.fabRstart o) o.d (-8) fun t => t.regions = s.regions ∧ ∃ r, Records s t [r])) ∧
    (∀ o : OpR2, mine o.a → st o.a = .running → (s.region (key o.a)).halt = none → Answers (.fabRstop o) s fun t =>
      t.me.wait = .region (key o.a) ∧ t.me.pc = s.me.pc ∧ (t.region (key o.a)).halt = some (.rstop s.curPilot) ∧
      (t.region (key o.a)).haltAt = s.clk) ∧
    (∀ o : OpR3, mine o.a → st o.a = .stopped → (woken o.a).reachedBy (key o.a) = false → (s.g o.b).toNat % 4096 = 0 →
      let g := s.region (key o.a)
      ((s.g o.b).toNat + saveSize g.hdr + 65536 ≤ (s.vd (8 * g.part + g.vd)).saveSize.toNat → gives (.fabRsave o) o.d 0 fun t =>
        (t.region (key o.a)).st = .saving ∧ (t.region (key o.a)).saveOff = (s.g o.b).toNat ∧ key o.a ∈ t.me.async) ∧
      ((s.vd (8 * g.part + g.vd)).saveSize.toNat < (s.g o.b).toNat + saveSize g.hdr + 65536 → refuses (.fabRsave o) o.d o.a (-7))) ∧
    (∀ o : OpR3, mine o.a → st o.a = .stopped → (woken o.a).reachedBy (key o.a) = false → (s.g o.b).toNat % 4096 ≠ 0 →
      refuses (.fabRsave o) o.d o.a (-1)) ∧
    (∀ o : OpR3, mine o.a → st o.a = .saved →
      let g := s.region (key o.a)
      let u := woken o.a
      (u.fits g.part g.hdr g.strip g.row g.col = false → refuses (.fabRrest o) o.d o.a (-5)) ∧
      (u.fits g.part g.hdr g.strip g.row g.col = true → gives (.fabRrest o) o.d 0 fun t =>
        (t.region (key o.a)).st = .restoring ∧ key o.a ∈ t.me.async)) ∧
    (∀ o : OpR2, mine o.a → st o.a ≠ .free → st o.a ≠ .killing → (woken o.a).reachedBy (key o.a) = false →
      gives (.fabRkill o) o.d 0 fun t => key o.a ∈ t.me.async ∧
        ((t.region (key o.a)).st = .killing ∨ (st o.a = .loading ∧ (t.region (key o.a)).kill = true))) ∧
    (∀ o : OpR3, mine o.a → st o.a = .saved →
      let v := (s.g o.b).toNat
      let g := s.region (key o.a)
      let first := (s.part g.part).first
      let oneDie : Prop := (first + v % 64) / 12 = (first + v % 64 + hdrSpan g.hdr (v / 8192 % 8) - 1) / 12
      (65536 ≤ v ∨ 95 < v / 64 % 128 ∨ 96 < v / 64 % 128 + hdrRows g.hdr ∨ (s.part g.part).count < v % 64 + hdrSpan g.hdr (v / 8192 % 8) ∨
        ¬oneDie → onlyWakes (.fabRplace o) o.d (-1)) ∧
      (v < 65536 → v / 64 % 128 + hdrRows g.hdr ≤ 96 → v / 64 % 128 ≤ 95 → v % 64 + hdrSpan g.hdr (v / 8192 % 8) ≤ (s.part g.part).count →
        oneDie → gives (.fabRplace o) o.d 0 fun t => t.region (key o.a) =
          { g with strip := v % 64, row := v / 64 % 128, col := v / 8192 % 8 } ∧
          (Sorted s.host.power → ∀ k < hdrSpan g.hdr (v / 8192 % 8), t.powerOf (first + v % 64 + k) = .p0))) ∧
    (∀ o : OpR2, mine o.a → ∃ v : DWord, exec (.fabRstat o) s = .next ((woken o.a).ret o.d v) ∧
      v.toNat % 65536 = (st o.a).code ∧
      (v.toNat / 2 ^ 16 % 2 ^ 16 = if st o.a = .free ∨ st o.a = .saved then 0
        else ((s.regCells (key o.a)).filter fun c => isQuayCell c && (s.cell c).stop.stopped).length % 2 ^ 16) ∧
      (v.toNat / 2 ^ 32 = if st o.a = .free ∨ st o.a = .loading then 0 else saveSize (s.region (key o.a)).hdr / 4096 % 2 ^ 32)) ∧
    (∀ o : OpR3, (s.g o.b).toNat % 32 ≠ 0 → exec (.fabRload o) s = .next (s.trap 0xB (s.g o.b))) ∧
    (∀ (o : OpR3) (db hb : List Byte) (s1 s2 : State), (s.g o.b).toNat % 32 = 0 → (s.g o.a).toNat % 64 = 0 →
      s.pbytes s.curPilot false (s.g o.b) 32 = (.ok db, s1) → s1.pbytes s1.curPilot false (s.g o.a) 64 = (.ok hb, s2) →
      let desc : Wide := ofBytes 256 db
      let h : BitVec 512 := ofBytes 512 hb
      let id := desc.toNat % 2048
      let r := 2048 * part + id
      desc.toNat / 2048 % 32 = 0 → desc.toNat / 2 ^ 18 % 2 ^ 14 = 0 → desc.toNat / 2 ^ 128 = 0 →
      (tblGet? s2.vds (8 * part + id / 256)).isSome → (s2.region r).st = .free →
      headerFail h (s2.berthBytes part h) (s2.part part).first = none → s2.fits part h (hdrStrip h) (hdrRow h) (hdrCol h) = true →
      gives (.fabRload o) o.d id fun t => (t.region r).st = .loading ∧ (t.region r).hdr = h ∧ (t.region r).hdrVa = s.g o.a ∧
        (t.region r).prio = desc.extractLsb' 16 2 ∧ (t.region r).quantum = desc.extractLsb' 32 32 ∧ r ∈ t.me.async ∧
        ∃ p ∈ t.pend, p.due = s2.clk + Config.workClk ∧ p.ev = .loadingEnd r)

/-- 09 R237, R243, R244: the CHN commands. CHPUT, CHTAKE and CHSTAT judge their memory operand first, and one that is misaligned or faults raises
trap 0x0B and never gives a status (log 53). A request of CHPUT comes to the home quay in the next clk (log 9). -/
def Obligations.ChannelCommandResults : Prop :=
  ∀ (s : State), s.me.stores = [] →
    let p := s.part s.myPart
    let num (a : Fin 32) : Nat := (s.g a).toNat % 8192
    let ch (a : Fin 32) : Nat := num a + 128 * p.first
    let k (a : Fin 32) : Chan := s.chan (ch a)
    let gives (i : Instr) (d : Fin 32) (v : Int) (P : State → Prop) : Prop := ∃ t : State, exec i s = .next (t.ret d (BitVec.ofInt 64 v)) ∧ P t
    let refuses (i : Instr) (d : Fin 32) (v : Int) : Prop := exec i s = .next (s.ret d (BitVec.ofInt 64 v))
    let mine (a : Fin 32) : Prop := num a / 64 < 2 * p.count ∧ (k a).opened = true ∧ (s.me.sup = true ∨ (k a).vd = s.me.vdid.toNat % 8)
    let party (v : Word) : Prop := v.toNat / 2 ^ 30 = 1 ∧ v.toNat % 64 + p.first = s.curPilot
    let can (acc : Acc) (b : Fin 32) (n : Nat) : Prop := (s.g b).toNat % 32 = 0 ∧ ∃ fs, (s.opFrames acc (s.g b) n).1 = .ok fs
    let begins : Prop := ∀ c, s.me.wait ≠ .chput c ∧ s.me.wait ≠ .chtake c
    (∀ o : OpR3, (s.me.sup = true → 2 * p.count ≤ num o.a / 64 → refuses (.chnChclose o) o.d (-2) ∧ refuses (.chnChcloseFree o) o.d (-2)) ∧
      (s.me.sup = true → num o.a / 64 < 2 * p.count → (k o.a).opened = false →
        refuses (.chnChclose o) o.d (-3) ∧ refuses (.chnChcloseFree o) o.d (-3))) ∧
    (∀ o : OpR3, s.me.sup = true → mine o.a → (s.g o.b).getLsbD 0 = false →
      (s.chanPos (ch o.a) = 0 → gives (.chnChclose o) o.d 0 fun t => t.chan (ch o.a) = { k o.a with closed := true }) ∧
      (s.chanPos (ch o.a) ≠ 0 → refuses (.chnChclose o) o.d (-3))) ∧
    (∀ (o : OpR3) (i : Instr), s.me.sup = true → mine o.a → ((s.g o.b).getLsbD 0 = true ∧ i = .chnChclose o) ∨ i = .chnChcloseFree o →
      ((k o.a).closed = false ∨ (k o.a).nr + (k o.a).nb ≠ 0 → refuses i o.d (-3)) ∧
      ((k o.a).closed = true → (k o.a).nr + (k o.a).nb = 0 → s.chanBusy (ch o.a) = false → (k o.a).splice = false →
        gives i o.d 0 fun t => t.vd (s.chanVd (ch o.a)) = { s.vd (s.chanVd (ch o.a)) with
          quota := (s.vd (s.chanVd (ch o.a))).quota + BitVec.ofNat 32 (k o.a).eg } ∧ (t.chan (ch o.a)).opened = false ∧
          (t.quay (ch o.a / 64)).areas = (s.quay (ch o.a / 64)).areas.filter fun a => a.owner != .inr (ch o.a))) ∧
    (∀ o : OpR3, begins →
      ((s.g o.b).toNat % 32 ≠ 0 → exec (.chnChput o) s = .next (s.trap 0xB (s.g o.b)) ∧
        exec (.chnChtake o) s = .next (s.trap 0xB (s.g o.b)) ∧ exec (.chnChstat o) s = .next (s.trap 0xB (s.g o.b))) ∧
      ∀ a, (s.g o.b).toNat % 32 = 0 →
        ((s.opFrames .r (s.g o.b) (if mine o.a then (k o.a).e else 1)).1 = .error a → exec (.chnChput o) s = .next (s.trap 0xB a)) ∧
        ((s.opFrames .w (s.g o.b) 1).1 = .error a → exec (.chnChtake o) s = .next (s.trap 0xB a) ∧
          exec (.chnChstat o) s = .next (s.trap 0xB a))) ∧
    (∀ o : OpR3, begins → num o.a / 64 < 2 * p.count → (k o.a).opened = false →
      (can .r o.b 1 → refuses (.chnChput o) o.d (-3)) ∧
      (can .w o.b 1 → refuses (.chnChtake o) o.d (-3) ∧ refuses (.chnChstat o) o.d (-3))) ∧
    (∀ o : OpR3, begins → 2 * p.count ≤ num o.a / 64 →
      (can .r o.b 1 → refuses (.chnChput o) o.d (-2)) ∧
      (can .w o.b 1 → refuses (.chnChtake o) o.d (-2) ∧ refuses (.chnChstat o) o.d (-2))) ∧
    (∀ o : OpR3, mine o.a → begins → can .r o.b (k o.a).e →
      (¬party (k o.a).writer → refuses (.chnChput o) o.d (-2)) ∧
      (party (k o.a).writer → (k o.a).closed = true → refuses (.chnChput o) o.d (-6)) ∧
      (∀ bs s1, party (k o.a).writer → (k o.a).closed = false →
        s.pbytes s.curPilot (!s.me.sup) (s.g o.b) (32 * (k o.a).e) = (.ok bs, s1) → Answers (.chnChput o) s fun t =>
        t.me.wait = .chput (ch o.a) ∧ t.me.pc = s.me.pc ∧ ∃ e r, t.pend = s1.pend ++ [e] ∧
          e.ev = .berthRequestArrival (.quay (ch o.a / 64)) r ∧ e.due = s1.clk + 1 ∧ r.chan = ch o.a ∧ r.kind = 1 ∧
          r.toks.length = (k o.a).e ∧ ∀ x ∈ r.toks, x.tag = .zero)) ∧
    (∀ (o : OpR3) (v : DWord) (c : Nat), s.me.wait = .chput c → s.me.ans = some v → ∃ t : State, exec (.chnChput o) s = .next (t.ret o.d v)) ∧
    (∀ (o : OpR3) (c : Nat), s.me.wait = .chput c → s.me.ans = none → exec (.chnChput o) s = .next s) ∧
    (∀ (o : OpR3) (c : Nat), s.me.wait = .chtake c → s.me.ans = none → exec (.chnChtake o) s = .next s) ∧
    (∀ o : OpR3, mine o.a → begins → can .w o.b 1 →
      let tok (i : Nat) : Token := s.ringTok (ch o.a) (k o.a).rRd i
      let lvl := (tok (k o.a).rpos).tag.lvl.toNat
      (¬party (k o.a).reader → refuses (.chnChtake o) o.d (-2)) ∧
      (party (k o.a).reader → (k o.a).readable = true →
        (∀ f s1, lvl ≠ 0 → s.opFrames .w (s.g o.b) 1 = (.ok [f], s1) →
          gives (.chnChtake o) o.d ((k o.a).rIdx.toNat + lvl * 2 ^ 32 : Nat) fun t => (t.chan (ch o.a)).rIdx = (k o.a).rIdx + 1 ∧
            t.mem = (s1.write s1.myVd f.1.key f.1.pol f.2 (toBytes (tok (k o.a).rpos).pay 32)).mem) ∧
        (∀ fs s1, (k o.a).rpos = 0 → 0 < (k o.a).e → (∀ i < (k o.a).e, (tok i).tag.lvl = 0) →
          s.opFrames .w (s.g o.b) (k o.a).e = (.ok fs, s1) →
          gives (.chnChtake o) o.d (k o.a).rIdx.toNat fun t => (t.chan (ch o.a)).rIdx = (k o.a).rIdx + 1 ∧
            t.mem = (fs.zipIdx.foldl (fun u f => u.write s1.myVd f.1.1.key f.1.1.pol f.1.2 (toBytes (tok f.2).pay 32)) s1).mem) ∧
        (∀ a s1, lvl = 0 → s.opFrames .w (s.g o.b) (k o.a).e = (.error a, s1) → exec (.chnChtake o) s = .next (s1.trap 0xB a))) ∧
      (party (k o.a).reader → (k o.a).readable = false → s.chanSpent (ch o.a) = true → gives (.chnChtake o) o.d (-6) fun t =>
        t.mem = s.mem ∧ t.quays = s.quays) ∧
      (party (k o.a).reader → (k o.a).readable = false → s.chanSpent (ch o.a) = false → Answers (.chnChtake o) s fun t =>
        t.me.wait = .chtake (ch o.a) ∧ t.me.pc = s.me.pc ∧ (t.chan (ch o.a)).chrWait = some (.pilot s.curPilot))) ∧
    (∀ (o : OpR3) (f : Frame × Nat) (s1 : State), mine o.a → (s.g o.b).toNat % 32 = 0 → s.opFrames .w (s.g o.b) 1 = (.ok [f], s1) →
      gives (.chnChstat o) o.d 0 fun t => t.mem = ((s1.write s1.myVd f.1.key f.1.pol f.2 (toBytes (s1.chstatBytes (ch o.a)) 32)).mem)) ∧
    (∀ (o : OpR2) (bs : List Byte) (s1 : State), s.me.sup = true → (s.g o.a).toNat % 32 = 0 →
      s.pbytes s.curPilot false (s.g o.a) 32 = (.ok bs, s1) →
      let d : Wide := ofBytes 256 bs
      let q := d.toNat % 256
      let e := d.toNat / 256 % 4 + 1
      let nr := d.toNat / 65536 % 65536
      let u := s1.quay (2 * p.first + q)
      let owner : Prop := q < 2 * p.count ∧ (tblGet? s1.vds (8 * s.myPart + d.toNat / 2 ^ 192 % 8)).isSome
      (openBad p.count d = true → exec (.chnChopen o) s = .next (s1.ret o.d (BitVec.ofInt 64 (-1)))) ∧
      (openBad p.count d = false → ¬owner → exec (.chnChopen o) s = .next (s1.ret o.d (BitVec.ofInt 64 (-2)))) ∧
      (openBad p.count d = false → owner → u.freeEntry = none ∨ u.findRun (nr * e) = none ∨ 2 * p.first + q ∈ s1.host.fused →
        exec (.chnChopen o) s = .next (s1.ret o.d (BitVec.ofInt 64 (-5)))) ∧
      (∀ n base, openBad p.count d = false → owner → 2 * p.first + q ∉ s1.host.fused → u.freeEntry = some n → u.findRun (nr * e) = some base →
      gives (.chnChopen o) o.d (64 * q + n : Nat) fun t => let c := t.chan (64 * (2 * p.first + q) + n)
        c.opened = true ∧ c.closed = false ∧ c.e = e ∧ c.base = base ∧ c.nr0 = nr ∧ c.nr = 0 ∧ c.nb = 0 ∧ c.wIdx = 0 ∧ c.rIdx = 0 ∧
          c.writer = d.extractLsb' 128 32 ∧ c.reader = d.extractLsb' 160 32 ∧ c.limit = d.toNat / 2 ^ 32 % 2 ^ 32)) ∧
    (∀ o : OpR2, s.me.sup = true → (s.g o.a).toNat % 32 ≠ 0 → exec (.chnChopen o) s = .next (s.trap 0xB (s.g o.a)))

/-- 09 R245: the BCN commands. A channel that is not assigned to the partition raises trap 8. CAST sends to every strip of the partition. Where gd and
gb are one register, WAIT and READ leave the second result in it (log 51); PREEMPT counts the regions at its issue (log 48). -/
def Obligations.BeaconCommandResults : Prop :=
  ∀ (s : State), s.me.stores = [] →
    let p := s.curPilot
    let ch (a : Fin 32) : Nat := (s.g a).toNat % 32
    let ok (a : Fin 32) : Prop := s.bcnOk s.myPart (ch a) = true
    let arrives (i : Instr) (a : Fin 32) (op : Option (Fin 3)) (va vo vm : Word) : Prop :=
      (s.me.arr.getLsbD (ch a) = false → Answers i s fun t =>
        (∀ j < 32, t.me.arr.getLsbD j = (j == ch a || s.me.arr.getLsbD j)) ∧ (op ≠ none → tblGet? t.me.redOp (ch a) = op) ∧
        t.me.pc = s.me.pc + 4 ∧
        Schedules s t [⟨s.clk + 36, clsBeacon, p, s.seqNo, .beaconArrivalAtRoot ⟨ch a, p, 1, va, vo, vm⟩, none⟩]) ∧
      (s.me.arr.getLsbD (ch a) = true → Answers i s fun t => t.me.pc = s.me.pc ∧ t.me.wait = .again ∧ Quiet s t)
    (∀ (i : Instr) (a : Fin 32), beaconCommand i = some a → s.me.sup = true → ¬ok a → exec i s = .next (s.trap 8 (BitVec.ofNat 64 (ch a)))) ∧
    (∀ o : OpRA, ok o.a → arrives (.bcnArrive o) o.a none 0xFFFFFFFF 0 0) ∧
    (∀ o : OpRAB, ok o.a → let v : Word := (s.g o.b).setWidth 32
      arrives (.bcnReduceAnd o) o.a (some 0) v v v ∧ arrives (.bcnReduceOr o) o.a (some 1) v v v ∧
      arrives (.bcnReduceMax o) o.a (some 2) v v v) ∧
    (∀ o : OpR3, ok o.a →
      (s.me.arr.getLsbD (ch o.a) = false → exec (.bcnWait o) s =
        .next (s.ret2 o.d o.b ((s.genOf (ch o.a) p).setWidth 64) ((tblGet 0 s.me.latched (ch o.a)).setWidth 64))) ∧
      (s.me.arr.getLsbD (ch o.a) = true → Answers (.bcnWait o) s fun t => t.me.pc = s.me.pc ∧ t.me.wait = .again) ∧
      exec (.bcnRead o) s = .next (s.ret2 o.d o.b (tblGet 0 (s.beacon (ch o.a)).bval p)
        ((tblGet 0 (s.beacon (ch o.a)).bcnt p).setWidth 64)) ∧
      ((s.g o.a).getLsbD 8 = false → ∃ t : State, exec (.bcnCast o) s = .next (t.ret o.d 0) ∧ ∃ l, Schedules s t l ∧
        l.length = (s.part s.myPart).count ∧ ∀ j < l.length, ∃ e, l[j]? = some e ∧ e.due = s.clk + 36 ∧
          e.ev = .broadcastAtStrip (ch o.a) ((s.part s.myPart).first + j) (s.g o.b))) ∧
    (∀ (o : OpR3) (i : Instr), ok o.a → s.me.sup = true → ((s.g o.a).getLsbD 8 = true ∧ i = .bcnCast o) ∨ i = .bcnCastConfigure o →
      ((s.beacon (ch o.a)).arrivals ≠ 0 → exec i s = .next (s.ret o.d (BitVec.ofInt 64 (-3)))) ∧
      ((s.beacon (ch o.a)).arrivals = 0 → ∃ t : State, exec i s = .next (t.ret o.d 0) ∧
        (t.beacon (ch o.a)).P = (s.g o.b).setWidth 16 ∧
        (∀ c, s.partOf (cellStrip c) = some s.myPart → (t.cell c).arrBits.getLsbD (ch o.a) = false) ∧ (s.partOf p = some s.myPart → t.me.arr.getLsbD (ch o.a) = false))) ∧
    (∀ o : OpR3, ok o.a → s.me.sup = true → s.me.wait = .no →
      let rs := s.runningOf (8 * s.myPart + (s.g o.b).toNat % 8)
      (rs = [] → exec (.bcnPreempt o) s = .next (s.ret o.d 0)) ∧
      (rs ≠ [] → (∀ r ∈ rs, (s.region r).st = .running) → Answers (.bcnPreempt o) s fun t => t.me.pc = s.me.pc ∧
        t.me.wait = .preempt (ch o.a) (8 * s.myPart + (s.g o.b).toNat % 8) rs.length ∧
        ∀ r ∈ rs, (t.region r).halt ≠ none)) ∧
    (∀ (o : OpR3) (c vd n : Nat), ok o.a → s.me.sup = true → s.me.wait = .preempt c vd n →
      (∀ r ∈ s.runningOf vd, (s.region r).halt = none) → exec (.bcnPreempt o) s = .next (s.ret o.d (BitVec.ofNat 64 n)))

/-- 09 R246 to R250: the MAP, QOS and EVQ commands. POP and PEEK judge their memory operand first (log 53) and read the queue under key id 0
(log 60); the checks of BLKREF and BLKREL, and their order, are the model's `blkChange` (logs 24, 53). -/
def Obligations.MapQosAndQueueCommandResults : Prop :=
  ∀ (s : State), s.me.stores = [] →
    let q := s.pilotQuay s.curPilot
    let user := !s.me.sup
    let refuses (i : Instr) (d : Fin 32) (v : Int) : Prop := exec i s = .next (s.ret d (BitVec.ofInt 64 v))
    (∀ o : OpR3,
      let hdr := s.g o.a
      let b := (s.g o.b).toNat
      (∀ n x s1, s.blkChange q s.myVd user hdr b false = (.ok (n, x), s1) → exec (.mapBlkref o) s = .next (s1.ret o.d (BitVec.ofNat 64 n))) ∧
      (∀ n s1, s.me.wait = .no → s.blkChange q s.myVd user hdr b true = (.ok (n, none), s1) →
        exec (.mapBlkrel o) s = .next (s1.ret o.d (BitVec.ofNat 64 n))) ∧
      (∀ n c t s1, s.me.wait = .no → s.blkChange q s.myVd user hdr b true = (.ok (n, some (c, t)), s1) →
        Answers (.mapBlkrel o) s fun u => u.me.wait = .push ∧ u.me.pc = s.me.pc ∧ ∃ e r, u.pend = s1.pend ++ [e] ∧
          e.ev = .berthRequestArrival (.quay (c / 64)) r ∧ r.kind = 4 ∧ r.chan = c ∧ r.toks = [t]) ∧
      (∀ v, s.me.wait = .push → s.me.ans = some v → ∃ t : State, exec (.mapBlkrel o) s = .next (t.ret o.d v)) ∧
      (∀ d s1, s.blkChange q s.myVd user hdr b false = (.error (0x18, d), s1) →
        exec (.mapBlkref o) s = .next (s1.ret o.d (BitVec.ofInt 64 (if d = 1 then -1 else -3))))) ∧
    (∀ (o : OpR3) (bs : List Byte) (s1 : State), (s.g o.b).toNat % 32 = 0 → s.pbytes s.curPilot user (s.g o.b) 32 = (.ok bs, s1) →
      let r : Wide := ofBytes 256 bs
      let b := r.toNat % 2 ^ 64
      (∀ h e s2, s.me.sup = true → s1.named q s.myVd user (s.g o.a) b = (.ok (h, e), s2) →
        (e.page.w = false → exec (.mapBlkset o) s = .next (s2.trap 0xB e.va)) ∧
        (e.page.w = true → r.toNat / 2 ^ 80 % 2 ^ 48 ≠ 0 → exec (.mapBlkset o) s = .next (s2.ret o.d (BitVec.ofInt 64 (-1)))) ∧
        (e.page.w = true → r.toNat / 2 ^ 80 % 2 ^ 48 = 0 → exec (.mapBlkset o) s = .next ((if entCount e.e = r.toNat / 2 ^ 64 % 65536 then
            (s2.translate q s.myVd user e.va .w).2.qwrite q s.myVd e.page.key e.page.pol e.pa (toBytes (r.extractLsb' 128 128) 16)
          else s2).ret o.d (BitVec.ofNat 64 (entCount e.e))))) ∧
      (∀ d s2, s.me.sup = true → s1.named q s.myVd user (s.g o.a) b = (.error (0x18, d), s2) →
        exec (.mapBlkset o) s = .next (s2.ret o.d (BitVec.ofInt 64 (-1)))) ∧
      (∀ f h e s2 s3, s1.opFrames .w (s.g o.b) 1 = (.ok [f], s2) → s2.named q s.myVd user (s.g o.a) b = (.ok (h, e), s3) →
        ∃ t : State, exec (.mapBlkget o) s = .next (t.ret o.d (BitVec.ofNat 64 (entCount e.e))) ∧
          t.mem = (s3.write s.myVd f.1.key f.1.pol f.2 (toBytes (e.e ++ r.extractLsb' 0 128 : BitVec 256) 32)).mem)) ∧
    (∀ (o : OpR3) (c : Fin 5),
      let v := (s.g o.a).toNat % 8
      let n := 8 * s.myPart + v
      let own : Prop := (s.g o.a).toNat / 16 % 8 = c.val ∧ (tblGet? s.vds n).isSome ∧ (s.me.sup = true ∨ v = s.me.vdid.toNat % 8)
      let x := (s.vd n).sl[c]
      let rate := (s.g o.b).toNat % 2 ^ 32
      let depth := (s.g o.b).toNat / 2 ^ 32
      let X := Config.classX c.val
      (5 ≤ (s.g o.a).toNat / 16 % 8 → refuses (.qosSlget ⟨o.d, o.a⟩) o.d (-1)) ∧
      (own → exec (.qosSlget ⟨o.d, o.a⟩) s = .next (s.ret o.d (BitVec.ofNat 64 (x.depth * 2 ^ 32 + x.rate)))) ∧
      (own → s.me.sup = true → depth < X ∨ 2 ^ 24 * X < depth ∨ Config.classCap c.val < rate → refuses (.qosSlset o) o.d (-1)) ∧
      (own → s.me.sup = true → X ≤ depth → depth ≤ 2 ^ 24 * X → rate ≤ Config.classCap c.val →
        ((s.part s.myPart).allot.getD c.val 0 < s.ratesOf s.myPart n c + rate → refuses (.qosSlset o) o.d (-7)) ∧
        (s.ratesOf s.myPart n c + rate ≤ (s.part s.myPart).allot.getD c.val 0 → ∃ t : State, exec (.qosSlset o) s = .next (t.ret o.d 0) ∧
          (t.vd n).sl[c] = { x with rate := rate, depth := depth } ∧ ∀ k : Fin 5, k ≠ c → (t.vd n).sl[k] = (s.vd n).sl[k])) ∧
      (own → s.me.sup = true → ∃ t : State, exec (.qosLend o) s =
          .next (t.ret o.d (BitVec.ofNat 64 ((if x.lend then 1 else 0) + (if x.borrow then 2 else 0)))) ∧
        (t.vd n).sl[c] = { x with lend := (s.g o.b).getLsbD 0, borrow := (s.g o.b).getLsbD 1 })) ∧
    (s.me.sup = true → ∀ o : OpR2,
      let m := s.me
      ((s.g o.a).toNat % 32 ≠ 0 → exec (.evqPop o) s = .next (s.trap 0xB (s.g o.a)) ∧ exec (.evqPeek o) s = .next (s.trap 0xB (s.g o.a))) ∧
      (∀ a, (s.g o.a).toNat % 32 = 0 → (s.opFrames .w (s.g o.a) 1).1 = .error a →
        exec (.evqPop o) s = .next (s.trap 0xB a) ∧ exec (.evqPeek o) s = .next (s.trap 0xB a)) ∧
      (∀ fs, (s.g o.a).toNat % 32 = 0 → (s.opFrames .w (s.g o.a) 1).1 = .ok fs → m.evqhead = m.evqtail →
        refuses (.evqPop o) o.d (-4) ∧ refuses (.evqPeek o) o.d (-4)) ∧
      (∀ f s1, m.evqhead ≠ m.evqtail → (s.g o.a).toNat % 32 = 0 → s.opFrames .w (s.g o.a) 1 = (.ok [f], s1) → s1.poison = [] →
        let v : Wide := s1.valAt 256 0 (recAddr m.evqbase m.evqhead) 32
        let stored : List Host.Cell := (s1.write s1.myVd f.1.key f.1.pol f.2 (toBytes v 32)).mem
        (∃ t : State, exec (.evqPop o) s = .next (t.ret o.d (v.extractLsb' 0 64)) ∧ t.me.evqhead = m.evqhead + 1 ∧ t.mem = stored) ∧
        (∃ t : State, exec (.evqPeek o) s = .next (t.ret o.d (v.extractLsb' 0 64)) ∧ t.me.evqhead = m.evqhead ∧ t.mem = stored)) ∧
      (let n := min (s.g o.a).toNat (m.evqtail - m.evqhead).toNat
        ∃ t : State, exec (.evqAck o) s = .next (t.ret o.d (BitVec.ofNat 64 n)) ∧ t.me.evqhead = m.evqhead + BitVec.ofNat 32 n))

/-! Events. What the hardware does without an instruction; each event is an instruction of the opcode table too. -/

/-- 01 R12, R17, R18, R22 to R24, R26; 06 R155, R156, R158; 07 R184, R185; 08 R195: what happens in a cell without an instruction. Every one of them
completes; a frozen cell (stopped, or its region gated or not yet in its first clk) joins, forwards, switches and drains nothing, and only the
answers of its requests land in it. In the model's reading: a cell that any cause stopped keeps its delayed tokens and BCRED results (log 112), the
result of a HAND is held while a halted cell does not run (log 110), the handle of a full berth ends with the clk (log 54), a delayed or drained
token adds the latency of its route (log 56), a join that is forwarding goes on during a drain (log 102), and a cell that stopped in
the clk writes no drain token in it (log 90). -/
def Obligations.CellEventResults : Prop :=
  ∀ (s : State) (c : Nat),
    let k := s.cell c
    (s.frozen c = true → ∀ i ∈ [Instr.drainTokenWrite c, .hardwareMarkerForward c, .markerJoin c, .switchCompletion c], exec i s = .next s) ∧
    -- a token arrives in a slot that a berth holds, and is counted; in one that a pop of the clk freed it comes first, and is gone with the pop
    (∀ (x p : Fin 4) (n : Nat) (t : Token), Answers (.tokenArrival c x.val p.val n t) s fun u =>
      (∀ d, d ≠ c → u.cell d = s.cell d) ∧ u.mem = s.mem ∧
      (k.region = none ∨ ((k.slot n).rdr = 0 ∧ n ∉ k.freed) → (u.cell c) = k) ∧
      (k.region ≠ none → (k.slot n).rdr = 0 → n ∈ k.freed → (u.cell c).slot n = ⟨t.pay, t.tag, (k.slot n).fe, 0⟩ ∧
        (t.tag.lvl = 0 → k.ctxs[x].race p = none → (u.cell c).ctxs[x].rings[p].arr = min 65535 (k.ctxs[x].rings[p].arr + 1))) ∧
      (k.region ≠ none → (k.slot n).rdr ≠ 0 → (u.cell c).slot n = ⟨t.pay, t.tag, 0xFF, (k.slot n).rdr⟩ ∧
        (∀ m, m ≠ n → (u.cell c).slot m = k.slot m) ∧ (u.cell c).w = k.w ∧ (u.cell c).ctxs[x].hands = k.ctxs[x].hands ∧
        (t.tag.lvl ≠ 0 → (u.cell c).ctxs = k.ctxs) ∧
        (∀ j, k.ctxs[x].race p = some j → t.tag.lvl = 0 →
          (u.cell c).ctxs[x].rings[p].arr = (k.ctxs[x].rings[p].arr + 1) % bdDcnt k.ctxs[x].binds[p]) ∧
        (t.tag.lvl = 0 → k.ctxs[x].race p = none →
          (u.cell c).ctxs[x].rings[p].arr = min 65535 (k.ctxs[x].rings[p].arr + 1) ∧
          (u.cell c).ctxs[x].rings[p].head = k.ctxs[x].rings[p].head ∧ (u.cell c).ctxs[x].rings[p].held = k.ctxs[x].rings[p].held))) ∧
    -- a join that no slot claims is taken by the hardware: the marker copies the head of the lowest port of the marker set
    (∀ l, s.frozen c = false → k.join = some l → k.claims = false → k.ctx.fan = none → Answers (.markerJoin c) s fun u =>
      ∃ tok, (u.cell c).ctx.fan = some ⟨l, tok, k.ctx.ctl.extractLsb' 5 4⟩ ∧ tok.tag.lvl = l ∧ tok.tag.hdr = false ∧
        ∀ p : Fin 4, ctlMset k.ctx.ctl p = true → (∀ q : Fin 4, q < p → ctlMset k.ctx.ctl q = false) →
          ∃ h, k.headTok k.actx p = some h ∧ tok.pay = h.pay ∧ tok.tag.seq = h.tag.seq) ∧
    (k.join = none ∨ k.claims = true ∨ k.ctx.fan ≠ none → Answers (.markerJoin c) s fun u => u.cell c = k) ∧
    -- the fan is written, each port at the next slot of its berth; the join then ends
    (k.ctx.fan = none → exec (.hardwareMarkerForward c) s = .next s) ∧
    (∀ f : Fan, s.frozen c = false → k.ctx.fan = some f →
      ((∀ n : Fin 4, f.left.getLsbD n = true → k.ctx.hands[n].v = true ∧ k.ctx.hands[n].wr ≤ k.ctx.hands[n].len) →
        Answers (.hardwareMarkerForward c) s fun u =>
        (u.cell c).ctx.fan = none ∧ (u.cell c).ctx.join7 = (k.ctx.join7 || f.lvl == 7) ∧
        (∀ n : Fin 4, (u.cell c).ctx.hands[n] =
          if f.left.getLsbD n then { k.ctx.hands[n] with wr := k.ctx.hands[n].wr + 1 } else k.ctx.hands[n]) ∧
        (∀ (p : Fin 4) (h : Token), ctlMset k.ctx.ctl p = true → k.headTok k.actx p = some h → h.tag.lvl = f.lvl →
          ((u.cell c).slot (k.headIdx k.actx p)).rdr = 0) ∧
        Leaves { s with curCell := c } u ((four.filter fun n => f.left.getLsbD n.val).map fun n => (n, k.ctx.hands[n].wr)) f.tok) ∧
      (∀ n : Fin 4, f.left.getLsbD n = true → k.ctx.hands[n].v = false → Answers (.hardwareMarkerForward c) s fun u =>
        (u.cell c).ctx.hands[n].out = true ∧ ∃ g, (u.cell c).ctx.fan = some g ∧ g.left.getLsbD n = true ∧ g.lvl = f.lvl ∧ g.tok = f.tok) ∧
      (∀ n : Fin 4, f.left.getLsbD n = true → k.ctx.hands[n].v = true → k.ctx.hands[n].len < k.ctx.hands[n].wr →
        Answers (.hardwareMarkerForward c) s fun u => (u.cell c).ctx.hands[n] = k.ctx.hands[n] ∧
          ∃ g, (u.cell c).ctx.fan = some g ∧ g.left.getLsbD n = true)) ∧
    -- the count trigger and the switch
    (Answers (.countTrigger c) s fun u =>
      (ctlCtv k.ctx.ctl = 0 ∨ k.swcnt.toNat < ctlCtv k.ctx.ctl → u = s) ∧
      (ctlCtv k.ctx.ctl ≠ 0 → ctlCtv k.ctx.ctl ≤ k.swcnt.toNat → (u.cell c).swPend = true ∧ (u.cell c).swcnt = 0 ∧
        (u.cell c).swTgt = if k.swPend then k.swTgt else ctlNctx k.ctx.ctl)) ∧
    (s.frozen c = false →
      let emptyPorts : Prop := ∀ p : Fin 4, bdEn k.ctx.binds[p] = true → ∀ i < bdCap k.ctx.binds[p],
        (k.slot (bdBase k.ctx.binds[p] + i)).rdr = 0 ∨ (k.slot (bdBase k.ctx.binds[p] + i)).fe = 0
      let joined : Prop := (∀ p : Fin 4, ctlMset k.ctx.ctl p = false) ∨ k.ctx.join7 = true
      let done : Prop := k.dly = [] ∧ k.bcred = [] ∧ k.mx.drain = none
      Answers (.switchCompletion c) s fun u =>
        (¬(k.swPend = true ∧ joined ∧ emptyPorts ∧ done) → u = s) ∧
        (k.swPend = true → joined → emptyPorts → done → (u.cell c).actx = k.swTgt ∧ (u.cell c).swPend = false ∧ (u.cell c).swcnt = 0 ∧
          (u.cell c).p = ctlPinit k.ctxs[k.swTgt].ctl ∧
          (∀ x : Fin 4, (u.cell c).ctxs[x].hands = k.ctxs[x].hands ∧ (u.cell c).ctxs[x].rings = k.ctxs[x].rings ∧
            (u.cell c).ctxs[x].fptr = k.ctxs[x].fptr) ∧
          (u.cell c).w = k.w)) ∧
    -- deferred writes and drain tokens
    (Answers (.dlyDeferredWrite c) s fun u =>
      (u.cell c).lands = k.lands.filter (fun l => l.hold && s.halted c) ∧
      (s.frozen c = true → (u.cell c).dly = k.dly ∧ (u.cell c).bcred = k.bcred ∧
        (∀ (l : Landing) (i : Fin 8), k.lands = [l] → l.w.x = .reg i → l.w.y = .none →
          (u.cell c).w[i] = if l.hold && s.halted c then k.w[i] else l.pay)) ∧
      (s.frozen c = false → (u.cell c).dly = k.dly.filter (fun d => s.clk < d.due) ∧
        (u.cell c).bcred = k.bcred.filter (fun b => b.val.isNone) ∧
        ((∀ b ∈ k.bcred, b.val = none) → k.lands = [] →
          (∀ (d : Dly) (i : Fin 8), k.dly = [d] → d.due ≤ s.clk → d.w.x = .reg i → d.w.y = .none →
            (u.cell c).w[i] = d.pay ∧ ∀ j, j ≠ i → (u.cell c).w[j] = k.w[j]) ∧
          (∀ (d : Dly) (t : Nat) (x p : Fin 4) (n l : Nat), k.dly = [d] → d.due ≤ s.clk → d.w.x = .out t x.val p.val n l → d.w.y = .none →
            Flies s u c t l (.tokenArrival t x.val p.val n ⟨d.pay, d.w.tag⟩) d.pay)) ∧
        -- results of one clk take effect in the order of their firings
        (∀ (d : Dly) (b : Bcred) (v : Wide) (i : Fin 8), k.dly = [d] → k.bcred = [b] → k.lands = [] → d.due ≤ s.clk → b.val = some v →
          d.w.x = .reg i → d.w.y = .none → b.w.x = .reg i → b.w.y = .none →
            (d.w.seq < b.w.seq → (u.cell c).w[i] = v) ∧ (b.w.seq < d.w.seq → (u.cell c).w[i] = d.pay)))) ∧
    (k.mx.drain = none → exec (.drainTokenWrite c) s = .next s) ∧
    (∀ (d : Drain) (t : Nat) (x p : Fin 4) (n l : Nat) (v : Wide) (rest : List Wide), s.frozen c = false → k.mx.drain = some d →
      d.toks = v :: rest → d.dst = .out t x.val p.val n l → Answers (.drainTokenWrite c) s fun u =>
        Flies s u c t l (.tokenArrival t x.val p.val n ⟨v, ⟨0, false, d.seq⟩⟩) v ∧
        (rest ≠ [] → (u.cell c).mx = { k.mx with drain := some { d with toks := rest, dst := .out t x.val p.val (n + 1) l } }) ∧
        (rest = [] → (u.cell c).mx = if d.clr then { k.mx.clear with drain := none } else { k.mx with drain := none }))

/-- 10 R256 to R263: berth requests, the roadstead, the allocators and their grants. That requests which become first on their links in one
clk enter by the order of their links is 10 R260; that a grant also waits while its requester is RESTORING is the model's reading (log 74). -/
def Obligations.BerthEventResults : Prop :=
  ∀ (s : State),
    -- a request takes a place, or waits on its link where the roadstead is full or others wait
    (∀ (c : Nat) (r : BReq), ((s.cell c).region = none → exec (.berthRequestArrival (.cell c) r) s = .next s) ∧
      ((s.cell c).region ≠ none → Answers (.berthRequestArrival (.cell c) r) s fun u =>
        ((s.cell c).road.length < 16 → (s.cell c).outside = [] →
          (u.cell c).road = (s.cell c).road ++ [r] ∧ (u.cell c).outside = []) ∧
        (16 ≤ (s.cell c).road.length ∨ (s.cell c).outside ≠ [] →
          (u.cell c).road = (s.cell c).road ∧ (u.cell c).outside = (s.cell c).outside ++ [r]))) ∧
    (∀ (q : Nat) (r : BReq), Answers (.berthRequestArrival (.quay q) r) s fun u =>
      ((s.quay q).road.length < 64 → (s.quay q).outside = [] →
        (u.quay q).road = (s.quay q).road ++ [r] ∧ (u.quay q).outside = []) ∧
      (64 ≤ (s.quay q).road.length ∨ (s.quay q).outside ≠ [] → (u.quay q).road = (s.quay q).road ∧ (u.quay q).outside = (s.quay q).outside ++ [r])) ∧
    -- entries that free: those that wait enter, none is lost, and no more than the roadstead has entries
    (∀ c : Nat, Answers (.roadsteadEntry (.cell c)) s fun u =>
      ((u.cell c).road ++ (u.cell c).outside).Perm ((s.cell c).road ++ (s.cell c).outside) ∧
      (∃ l, (u.cell c).road = (s.cell c).road ++ l) ∧ ((s.cell c).road.length ≤ 16 → (u.cell c).road.length ≤ 16) ∧
      (∀ r rest, (s.cell c).outside = r :: rest → (s.cell c).road.length < 16 → r ∈ (u.cell c).road)) ∧
    (∀ q : Nat, Answers (.roadsteadEntry (.quay q)) s fun u =>
      ((u.quay q).road ++ (u.quay q).outside).Perm ((s.quay q).road ++ (s.quay q).outside) ∧
      (∃ l, (u.quay q).road = (s.quay q).road ++ l) ∧ ((s.quay q).road.length ≤ 64 → (u.quay q).road.length ≤ 64) ∧
      (∀ r rest, (s.quay q).outside = r :: rest → (s.quay q).road.length < 64 → r ∈ (u.quay q).road)) ∧
    -- the allocator grants the oldest request of a ring at its tail, or at slot 0 behind a pad
    (∀ (c : Nat) (x p : Fin 4) (r : BReq),
      let k := s.cell c
      let g := k.ctxs[x].rings[p]
      let b := k.ctxs[x].binds[p]
      let atTail : Prop := g.held ≠ bdCap b ∧ ((g.head ≤ g.tail ∧ r.cnt ≤ bdCap b - g.tail) ∨ (g.tail < g.head ∧ r.cnt ≤ g.head - g.tail))
      let padded : Prop := g.held ≠ bdCap b ∧ g.head ≤ g.tail ∧ bdCap b - g.tail < r.cnt ∧ r.cnt ≤ g.head
      let grants (u : State) (start : Nat) : Prop :=
        (u.cell c).road = k.road.erase r ∧ (u.cell c).ctxs[x].rings[p].tail = (start + r.cnt) % bdCap b ∧
        (u.cell c).ctxs[x].rings[p].head = g.head ∧
        (∀ j < r.cnt, ((u.cell c).slot (bdBase b + start + j)).rdr = bdRdc b ∧ ((u.cell c).slot (bdBase b + start + j)).fe = 0) ∧
        ∃ e a, Schedules s u [e] ∧ e.due = s.clk + r.lat ∧ e.ev = .grantArrival a ∧ a.dst = r.src ∧ a.ctx = r.fctx ∧ a.hnd = r.hnd ∧
          a.base = bdBase b + start ∧ a.len = r.cnt - 1 ∧ a.rd = bdRdc b - 1 ∧ a.owner = r.owner
      k.road.find? (fun q => q.dctx == x.val && q.dport == p.val) = some r →
        (atTail → Answers (.allocatorGrant c x.val p.val) s fun u => grants u g.tail ∧
          (u.cell c).ctxs[x].rings[p].held = g.held + r.cnt ∧ (u.cell c).ctxs[x].rings[p].pad = g.pad) ∧
        (padded → Answers (.allocatorGrant c x.val p.val) s fun u => grants u 0 ∧
          (u.cell c).ctxs[x].rings[p].held = g.held + (bdCap b - g.tail) + r.cnt ∧ (u.cell c).ctxs[x].rings[p].pad = some g.tail) ∧
        (¬atTail → ¬padded → exec (.allocatorGrant c x.val p.val) s = .next s)) ∧
    -- a grant makes the handle valid; held while its region is saved; without its region the slots are abandoned
    (∀ (g : Grant) (x n : Fin 4), g.ctx = x.val → g.hnd = n.val → (s.cell g.dst).region = some g.owner →
      ((s.region g.owner).st = .running ∨ (s.region g.owner).st = .stopped → Answers (.grantArrival g) s fun u =>
        (u.cell g.dst).ctxs[x].hands[n] = ⟨true, g.rd, 0, g.len, g.base, false⟩ ∧
        ∀ m, m ≠ n → (u.cell g.dst).ctxs[x].hands[m] = (s.cell g.dst).ctxs[x].hands[m])) ∧
    (∀ g : Grant, (s.region g.owner).st = .saved ∨ (s.region g.owner).st = .restoring → Answers (.grantArrival g) s fun u =>
      u.cells = s.cells ∧ ∃ e, Schedules s u [e] ∧ e.due = s.clk + 1 ∧ e.ev = .grantArrival g) ∧
    (∀ (g : Grant) (x p : Fin 4), (s.region g.owner).st = .free → g.tctx = x.val → g.tport = p.val →
      let hd := bdBase (s.cell g.tgt).ctxs[x].binds[p] + (s.cell g.tgt).ctxs[x].rings[p].head
      (∀ v ∈ s.saves, v.live = true → g.tgt ∉ v.places) → hd ≤ g.base ∨ g.base + g.len < hd → Answers (.grantArrival g) s fun u =>
        (∀ d, d ≠ g.tgt → u.cell d = s.cell d) ∧
        ∀ j ≤ g.len, ((s.cell g.tgt).slot (g.base + j)).fe = 0 → ((u.cell g.tgt).slot (g.base + j)).rdr = 0)

/-- 06 R165 to R169, 14 R329, R330; 09 R245; 13 R303: the beacon's messages at the root and at the strips, and the posting of records. A release
gives the deferred results their values, which are written as deferred writes (CellEventResults); it reaches saved cells too. The model writes
records under key id 0 (log 60). -/
def Obligations.BeaconAndRecordEventResults : Prop :=
  ∀ (s : State),
    let meets (r : BcnRel) (op : Nat) : Word := if op = 0 then r.vand else if op = 1 then r.vor else r.vmax
    -- an arrival at the root counts, and its values are met with the partial results
    (∀ m : BcnMsg, let b := s.beacon m.ch
      (b.P ≠ 0 → Answers (.beaconArrivalAtRoot m) s fun u => u.pend = s.pend ∧ u.beacon m.ch = { b with
        arrivals := b.arrivals + m.count, pAnd := b.pAnd &&& m.vand, pOr := b.pOr ||| m.vor,
        pMax := if b.pMax.toNat ≤ m.vmax.toNat then m.vmax else b.pMax }) ∧
      (b.P = 0 → Answers (.beaconArrivalAtRoot m) s fun u => u.beacon m.ch = { b with gen := b.gen + 1 } ∧
        ∀ p, s.bcnOwner m.ch = some p → ∃ l, Schedules s u l ∧ l.length = (s.part p).count ∧
          ∀ e ∈ l, e.due = s.clk + 36 ∧ ∃ t, (s.part p).first ≤ t ∧ t < (s.part p).first + (s.part p).count ∧
            e.ev = .releaseAtStrip t ⟨m.ch, b.gen + 1, m.vand, m.vor, m.vmax⟩)) ∧
    -- the end of the clk in which the arrivals reach P
    (∀ ch : Nat, let b := s.beacon ch
      (b.arrivals = 0 ∨ b.arrivals < b.P.toNat → s.releaseFull ch = s) ∧
      (b.arrivals ≠ 0 → b.P.toNat ≤ b.arrivals → (s.releaseFull ch).beacon ch =
        { b with gen := b.gen + 1, arrivals := 0, pAnd := 0xFFFFFFFF, pOr := 0, pMax := 0 })) ∧
    -- a release at a strip
    (∀ (strip : Nat) (r : BcnRel), Answers (.releaseAtStrip strip r) s fun u =>
      tblGet? (u.beacon r.ch).copy strip = some r.gen ∧ u.mem = s.mem ∧
      (∀ c, cellStrip c ≠ strip → u.cell c = s.cell c) ∧
      (∀ c, cellStrip c = strip → (∀ j < 32, (u.cell c).arrBits.getLsbD j = ((s.cell c).arrBits.getLsbD j && j != r.ch)) ∧
        (u.cell c).bcred = ((s.cell c).bcred.map fun b =>
          if b.ch = r.ch ∧ b.val = none then { b with val := some (inLane0 (meets r b.op)) } else b) ∧ (u.cell c).w = (s.cell c).w) ∧
      (∀ (v : Save) (p : Nat) (k : Cell), s.saves = [v] → v.live = true → v.places = [p] → v.cells = [k] →
        ∃ k', u.saves = [{ v with cells := [k'] }] ∧ (cellStrip p ≠ strip → k' = k) ∧
          (cellStrip p = strip → k'.arrBits.getLsbD r.ch = false ∧ ∀ b ∈ k'.bcred, b.ch = r.ch → b.val ≠ none)) ∧
      (u.pilot strip).woke = true ∧ (∀ j < 32, (u.pilot strip).arr.getLsbD j = ((s.pilot strip).arr.getLsbD j && j != r.ch)) ∧
      ((s.pilot strip).arr.getLsbD r.ch = true → tblGet? (u.pilot strip).latched r.ch =
        some (match tblGet? (s.pilot strip).redOp r.ch with | some op => meets r op.val | none => 0))) ∧
    (∀ (ch strip : Nat) (v : DWord), Answers (.broadcastAtStrip ch strip v) s fun u =>
      tblGet? (u.beacon ch).bval strip = some v ∧ tblGet? (u.beacon ch).bcnt strip = some (tblGet 0 (s.beacon ch).bcnt strip + 1) ∧
      (u.pilot strip).woke = true ∧ (u.beacon ch).gen = (s.beacon ch).gen ∧ u.cells = s.cells) ∧
    -- a record is posted at the tail of the supervisor pilot's queue while that has room
    (∀ part : Nat, let q := s.pilot (s.part part).sup
      (q.takesRec = false → exec (.eventRecordPost part) s = .next s) ∧
      (∀ r : Rec, MemOk s → q.takesRec = true → s.records = [r] → r.part = part → r.about (s.part part).sup = false →
        Answers (.eventRecordPost part) s fun u => u.records = [] ∧ (u.pilot (s.part part).sup).evqtail = q.evqtail + 1 ∧
          u.valAt 256 0 (recAddr q.evqbase q.evqtail) 32 = r.body ||| BitVec.ofNat 256 ((q.cycles.setWidth 32).toNat * 2 ^ 32) ∧
          ∀ c, r.cell = some c → (u.cell c).evtBusy = false))

/-- 08 R191 to R193, R201, R215; 12 R298; 15 R339; 16 R353 to R356: translations of quay cells, their walks, refills and block-map lookups. `fails`
says that the cell's translation ends with a cause and a detail, which the slot that needs it then stops on. An address whose leaf may not
be read has the permission cause (log 57). -/
def Obligations.TranslationEventResults : Prop :=
  ∀ (s : State),
    let starts (c : Nat) (what : TransFor) (va : DWord) (acc : Acc) (t : Nat) (k : BitVec 6) (u : State) : Prop :=
      let q := quayOf c
      (u.cell c).trans = some ⟨what, .running⟩ ∧ u.mem = s.mem ∧
      ((s.quay q).walks.length < 16 → ∃ w, (u.quay q).walks = (s.quay q).walks ++ [w] ∧ w.who = .cell c ∧ w.vd = s.cellVd c ∧ w.va = va ∧
        w.level = 2 ∧ w.table = t ∧ w.key = k ∧ w.acc = acc ∧ w.user = true ∧
        Sends s u w.vd (t + 8 * vaIndex va 2) (.walkReadReply q w.id)) ∧
      (16 ≤ (s.quay q).walks.length → (u.quay q).walks = (s.quay q).walks ∧ Quiet s u ∧
        ∃ w, (u.quay q).queue = (s.quay q).queue ++ [w] ∧ w.who = .cell c ∧ w.va = va)
    -- a translation starts: at the root table, in one of the sixteen walks of its quay
    (∀ (c : Nat) (what : TransFor) (va : DWord) (wr : Bool), s.toStart c = some what →
      ((∃ a, what = .xlat va a) ∧ wr = false) ∨ what = .stream va wr →
      let q := quayOf c
      let keys := (s.vd (s.cellVd c)).keys &&& ~~~1#64
      (keys = 0 → Answers (.translationStart c) s fun u => (u.cell c).trans = some ⟨what, .fail 0x11 0⟩) ∧
      (keys ≠ 0 → canonical va = false → Answers (.translationStart c) s fun u => (u.cell c).trans = some ⟨what, .fail 0x10 0x30⟩) ∧
      (∀ t k, s.tlbServes q (s.cellVd c) true va wr = none → s.walkRoot (s.cellVd c) va = .ok (t, k) →
        Answers (.translationStart c) s fun u => starts c what va (if wr then .w else .r) t k u)) ∧
    (∀ c, s.toStart c = none → exec (.translationStart c) s = .next s ∧ exec (.blockMapLookup c) s = .next s) ∧
    -- an entry is read and judged
    (∀ (q k c : Nat) (w : Walk) (what : TransFor), (s.quay q).walk? k = some w → w.level < 3 → w.who = .cell c →
      (s.cell c).trans = some ⟨what, .running⟩ →
      let va := w.va
      let n := w.level
      let a := w.table + 8 * vaIndex va n
      let p : DWord := s.valAt 64 w.key a 8
      let fails (cause detail : Nat) : Prop := Answers (.walkReadReply q k) s fun u =>
        (u.cell c).trans = some ⟨what, .fail cause detail⟩ ∧ u.mem = s.mem ∧ (u.cell c).fw = (s.cell c).fw
      -- the end of a walk: a refill or a write's update renews its frame-window entry
      let ends (f : Frame) (u : State) : Prop :=
        (∀ i : Fin 16, what = .refill i.val ∨ what = .dirty i.val → (u.cell c).trans = none ∧ (u.cell c).fw[i] = (s.cell c).fw[i].filled f ∧
          ∀ j, j ≠ i → (u.cell c).fw[j] = (s.cell c).fw[j]) ∧
        ((∀ i, what ≠ .refill i ∧ what ≠ .dirty i) → (u.cell c).trans = some ⟨what, .ok f⟩ ∧ (u.cell c).fw = (s.cell c).fw)
      let leaf : Prop := p.extractLsb' 1 3 ≠ 0
      let pa : Nat := if leaf then leafPa n va p else pteFrame p
      let sound : Prop := s.poisonedAt a 8 = false ∧ p.getLsbD 0 = true ∧ pteReserved n p = false ∧
        (leaf → w.user = true → p.getLsbD 4 = true)
      let permitted : Prop := pteKey p ≠ 0 ∧ (s.vd w.vd).keys.getLsbD (pteKey p).toNat = true
      let good : Prop := sound ∧ permitted ∧ s.inRanges (w.vd / 8) pa = true
      let used := p ||| (if w.acc = .w then 0xC0 else 0x40)
      let allows : Bool := p.getLsbD (match w.acc with | .r => 1 | .w => 2 | .x => 3)
      (s.poisonedAt a 8 = true → fails 0x20 0) ∧
      (s.poisonedAt a 8 = false → p.getLsbD 0 = false → fails 0x10 (1 + 16 * n)) ∧
      (s.poisonedAt a 8 = false → p.getLsbD 0 = true → pteReserved n p = true → fails 0x10 (2 + 16 * n)) ∧
      (s.poisonedAt a 8 = false → p.getLsbD 0 = true → pteReserved n p = false → leaf → w.user = true → p.getLsbD 4 = false →
        fails 0x10 (3 + 16 * n)) ∧
      (sound → ¬permitted → fails 0x11 0) ∧ (sound → permitted → s.inRanges (w.vd / 8) pa = false → fails 0x11 1) ∧
      (good → leaf → allows = false → fails 0x13 (if w.acc = .w then 1 else 0)) ∧
      (good → ¬leaf → Answers (.walkReadReply q k) s fun u => u.mem = s.mem ∧ u.cells = s.cells ∧
        Sends s u w.vd (pteFrame p + 8 * vaIndex va (n - 1)) (.walkReadReply q w.id) ∧
        ∀ x, x ∈ (u.quay q).walks → x.id = k → x = { w with level := n - 1, table := pteFrame p, key := pteKey p }) ∧
      (good → leaf → allows = true →
        (used = p → Answers (.walkReadReply q k) s fun u => u.mem = s.mem ∧ ends (leafFrame n va p) u) ∧
        (used ≠ p → Answers (.walkReadReply q k) s fun u => u.mem = s.mem ∧ u.cells = s.cells ∧
          Sends s u w.vd a (.accessedDirtyUpdate q w.id))) ∧
      -- the A and D bits are set if the entry is still what was read
      (∀ (a : Nat) (p : DWord) (f : Frame), w.old = some (a, p, f) → s.valAt 64 w.key a 8 = p → MemOk s →
        Answers (.accessedDirtyUpdate q k) s fun u => u.valAt 64 w.key a 8 = p ||| (if w.acc = .w then 0xC0 else 0x40) ∧ ends f u)) ∧
    -- else the walk starts again from the root; so does one that a TLBINV caught
    (∀ (q k t : Nat) (w : Walk) (key : BitVec 6), (s.quay q).walk? k = some w → s.walkRoot w.vd w.va = .ok (t, key) →
      let restarts (i : Instr) : Prop := Answers i s fun u => u.mem = s.mem ∧ u.cells = s.cells ∧
        Sends s u w.vd (t + 8 * vaIndex w.va 2) (.walkReadReply q w.id) ∧
        ∀ x, x ∈ (u.quay q).walks → x.id = k → x = { w with level := 2, table := t, key := key, old := none }
      (∀ (a : Nat) (p : DWord) (f : Frame), w.old = some (a, p, f) → s.valAt 64 w.key a 8 ≠ p → restarts (.accessedDirtyUpdate q k)) ∧
      (w.old = none → restarts (.accessedDirtyUpdate q k)) ∧ (w.level = 3 → restarts (.walkReadReply q k))) ∧
    -- a frame-window entry is filled again: from the page tables, at once or by a walk, or from the block map
    (∀ (c : Nat) (i : Fin 16), let e := (s.cell c).fw[i]
      let fills (r : Except Fail Frame × State) : Prop := Answers (.frameWindowRefill c i.val) s fun u => u.mem = r.2.mem ∧
        (∀ f, r.1 = .ok f → (u.cell c).trans = none ∧ (u.cell c).fw[i] = e.filled f ∧
          ∀ j, j ≠ i → (u.cell c).fw[j] = (r.2.cell c).fw[j]) ∧
        (∀ a d, r.1 = .error (a, d) → (u.cell c).trans = some ⟨.refill i.val, .fail a d⟩ ∧ (u.cell c).fw = (r.2.cell c).fw)
      (∀ v, e.src = .page v →
        (∀ r, s.begin (quayOf c) (s.cellVd c) true (granuleVa v 0) .r = .done r → fills (r, s)) ∧
        (∀ t k, s.begin (quayOf c) (s.cellVd c) true (granuleVa v 0) .r = .walk t k →
          Answers (.frameWindowRefill c i.val) s fun u => starts c (.refill i.val) (granuleVa v 0) .r t k u ∧ (u.cell c).fw = (s.cell c).fw)) ∧
      (∀ hdr blk wr, e.src = .block hdr blk wr → fills (s.blkLookup c hdr blk wr))) ∧
    -- a lookup of the block map; a write of a shared copy-on-write block fails
    (∀ (c : Nat) (hdr : DWord) (blk : Word) (wr : Bool), s.toStart c = some (.block hdr blk wr) →
      let r := s.blkFind (quayOf c) (s.cellVd c) true hdr blk.toNat
      (∀ a d, r.1 = .error (a, d) → Answers (.blockMapLookup c) s fun u => (u.cell c).trans = some ⟨.block hdr blk wr, .fail a d⟩) ∧
      (∀ b, r.1 = .ok b → wr = true → entCow b.owner.e = true → 1 < entCount b.owner.e → Answers (.blockMapLookup c) s fun u =>
        (u.cell c).trans = some ⟨.block hdr blk wr, .fail 0x17 0⟩) ∧
      (∀ b, r.1 = .ok b → wr = false ∨ entCow b.owner.e = false ∨ entCount b.owner.e ≤ 1 → Answers (.blockMapLookup c) s fun u =>
        ∃ f, (u.cell c).trans = some ⟨.block hdr blk wr, .ok f⟩ ∧ f.base = BitVec.ofNat 52 (entAddr b.owner.e) ∧ f.len = b.hdr.size ∧
          f.r = true ∧ f.w = wr ∧ f.key = b.hdr.key ∧ f.pol = b.hdr.pol))

/-- 08 R194 to R197, R208 to R213, R216; 12 R287, R291; 16 R362, R373: requests are served at their home slice and complete at their cell, where their
results land at the end of the clk (CellEventResults). A request is served at once where nothing else is under way at its sectors; where something is, at
least one sector is served, and how many more is free (log 86). The model's choices: a read may take what an older read of its sector was given (log 12), a
request of CHW is at its channel one clk later (log 9), a prefetch is not counted (log 61), of a halted cell a HAND's result is held where a flush's lands
(log 110), and which failures of a count change are judged at the home slice (log 24). -/
def Obligations.RequestEventResults : Prop :=
  ∀ (s : State),
    (∀ (id : Nat) (r : Req), s.req? id = some r → r.toServe = true →
      (s.behind r = true → ∀ i ∈ [Instr.sliceServe id, .blockMapOpServe id], Answers i s fun u => u.reqs = s.reqs ∧ u.mem = s.mem ∧
        ∃ e, Schedules s u [e] ∧ e.due = s.clk + 1 ∧ e.ev = i) ∧
      -- a slice serves whole sectors, one or more at a time
      (s.behind r = false → s.contended r = true → r.kind = .read → r.done = 0 → r.pre = [] → r.ans = 0 → r.poison = false → s.poisonedAt r.pa 32 = false →
        Answers (.sliceServe id) s fun u => u.mem = s.mem ∧ ∃ x, u.req? id = some x ∧ x.poison = false ∧
          ((x.served = true ∧ x.ans = s.valAt 256 r.key r.pa 32) ∨
            (x.served = false ∧ x.done = 1 ∧ x.ans = (s.valAt 128 r.key r.pa 16 : BitVec 128).setWidth 256))) ∧
      (s.behind r = false → (r.kind.isRead = true ∨ (∃ b, r.kind = .write b) → s.contended r = false ∧ r.done = 0 ∧ r.pre = [] ∧ r.ans = 0 ∧ r.poison = false) →
        let answers (i : Instr) (v : Wide) (P : State → Prop) : Prop := Answers i s fun u => P u ∧
          ∃ x, u.req? id = some x ∧ x.served = true ∧ x.ans = v ∧ x.poison = false ∧ x.cell = r.cell ∧ x.res = r.res
        (r.kind = .read → s.poisonedAt r.pa 32 = false → answers (.sliceServe id) (s.valAt 256 r.key r.pa 32) fun u => u.mem = s.mem) ∧
        (r.kind = .read → s.poisonedAt r.pa 32 = true → Answers (.sliceServe id) s fun u => u.mem = s.mem ∧
          ∃ x, u.req? id = some x ∧ x.served = true ∧ x.poison = true) ∧
        (∀ bytes, r.kind = .write bytes → MemOk s → bytes.Pairwise (fun x y => x.1 ≠ y.1) → answers (.sliceServe id) 0 fun u =>
          (∀ x ∈ bytes, u.byteAt r.key x.1 = x.2) ∧
          ∀ a, (∀ x ∈ bytes, x.1 / 16 ≠ a / 16) → ∀ k, u.byteAt k a = s.byteAt k a) ∧
        (∀ op (v c : DWord), r.kind = .atom op true v c → s.poisonedAt r.pa 8 = false → MemOk s →
          let m : DWord := s.valAt 64 r.key r.pa 8
          answers (.sliceServe id) ((atomRes 64 op m v).setWidth 256) fun u => u.valAt 64 r.key r.pa 8 = atomNew 64 op m v c) ∧
        (∀ op (v c : DWord), r.kind = .atom op false v c → s.poisonedAt r.pa 4 = false → MemOk s →
          let m : Word := s.valAt 32 r.key r.pa 4
          answers (.sliceServe id) (((atomRes 32 op m (v.setWidth 32)).setWidth 64).setWidth 256) fun u =>
            u.valAt 32 r.key r.pa 4 = atomNew 32 op m (v.setWidth 32) (c.setWidth 32)) ∧
        (∀ n, r.kind = .prefetch n → Answers (.sliceServe id) s fun u => u.req? id = none ∧ u.mem = s.mem ∧ u.cells = s.cells) ∧
        (∀ ch, r.kind = .chst ch → answers (.sliceServe id) (ofLanes (s.chanSnap ch)) fun u => u.quays = s.quays) ∧
        (∀ ch, r.kind = .chcl ch → answers (.sliceServe id) 0 fun u => u.chan ch = { s.chan ch with closed := true }) ∧
        (∀ ch, r.kind = .chr ch → Answers (.sliceServe id) s fun u => (u.chan ch).chrWait = some (.cell r.id)) ∧
        (∀ ch t, r.kind = .chw ch t false → Answers (.sliceServe id) s fun u =>
          (u.chan ch).wtoks = (s.chan ch).wtoks ++ [(t, .req r.id)]) ∧
        (∀ ch t, r.kind = .chw ch t true → Answers (.sliceServe id) s fun u => ∃ e q, Schedules s u [e] ∧ e.due = s.clk + 1 ∧
          e.ev = .berthRequestArrival (.quay (ch / 64)) q ∧ q.kind = 0 ∧ q.chan = ch ∧ q.src = r.cell ∧ q.toks = [t] ∧ q.cnt = (s.chan ch).e) ∧
        (∀ hdr blk rel n s1, r.kind = .blkop hdr blk rel → s.blkChange (quayOf r.cell) r.vd true hdr blk.toNat rel = (.ok (n, none), s1) →
          s1.reqs = s.reqs → answers (.blockMapOpServe id) (inLane0 (BitVec.ofNat 32 n)) fun u => u.mem = s1.mem) ∧
        (∀ hdr blk rel a d s1, r.kind = .blkop hdr blk rel → s.blkChange (quayOf r.cell) r.vd true hdr blk.toNat rel = (.error (a, d), s1) →
          s1.reqs = s.reqs → (s1.cell r.cell).stop.stopped = false → Answers (.blockMapOpServe id) s fun u =>
            (u.cell r.cell).stop.stopped = true ∧ (u.cell r.cell).stop.cause = BitVec.ofNat 8 a ∧
            ∃ x, u.req? id = some x ∧ x.held = true))) ∧
    -- BLKREF and BLKREL at the block map (08 R216)
    (∀ (q vd b : Nat) (hdr : DWord) (k : Blk) (s1 : State), s.blkFind q vd true hdr b = (.ok k, s1) →
      let n := entCount k.owner.e
      let stores (v : Bool) (m : Nat) : State := (s1.translate q vd true k.owner.va .w).2.qwrite q vd k.owner.page.key k.owner.page.pol k.owner.pa
        (toBytes (entSet k.owner.e v m) 16)
      (∀ rel, k.owner.page.w = false → s.blkChange q vd true hdr b rel = (.error (0x13, 1), s1)) ∧
      (k.owner.page.w = true → 1 ≤ n → n ≤ 65534 → s.blkChange q vd true hdr b false = (.ok (n + 1, none), stores true (n + 1))) ∧
      (k.owner.page.w = true → n = 0 ∨ n = 65535 → s.blkChange q vd true hdr b false = (.error (0x18, 2), s1)) ∧
      (k.owner.page.w = true → k.named.page.w = true → n = 0 → s.blkChange q vd true hdr b true = (.error (0x18, 2), s1)) ∧
      (k.owner.page.w = true → 2 ≤ n → entInd k.named.e = false → s.blkChange q vd true hdr b true = (.ok (n - 1, none), stores true (n - 1)))) ∧
    -- a completed request leaves with its results; poisoned data stops the cell and the request waits for the restart
    (∀ (id : Nat) (r : Req), s.req? id = some r → r.served = true → r.held = false →
      (r.poison = true → (s.cell r.cell).stop.stopped = false → Answers (.requestCompletion id) s fun u =>
        (u.cell r.cell).stop.stopped = true ∧ (u.cell r.cell).stop.cause = 0x20 ∧ (u.cell r.cell).w = (s.cell r.cell).w ∧
        ∃ x, u.req? id = some x ∧ x.held = true ∧ x.served = false) ∧
      (r.poison = false → Answers (.requestCompletion id) s fun u =>
        u.reqs = s.reqs.filter (fun x => x.id != r.id) ∧ u.mem = s.mem ∧
        (u.cell r.cell).outOrd = (s.cell r.cell).outOrd - (if r.ord ∧ r.kind.counted then max 1 r.res.length else 0) ∧
        (u.cell r.cell).outUnord = (s.cell r.cell).outUnord - (if ¬r.ord ∧ r.kind.counted then max 1 r.res.length else 0) ∧
        (u.cell r.cell).w = (s.cell r.cell).w ∧
        (u.cell r.cell).lands = (s.cell r.cell).lands ++ r.res.map fun x => ⟨x.1, x.2.getD r.ans, false⟩)) ∧
    -- a line of the coalescing buffer whose last store is 256 clk old is sent
    (∀ (c : Nat) (l : Coal), (s.cell c).coal.find? (fun x => x.line == l.line) = some l →
      (l.last + 256 ≤ s.clk → Answers (.coalesceTimeout c l.line) s fun u =>
        (u.cell c).coal = (s.cell c).coal.filter (fun x => x.line != l.line) ∧ u.mem = s.mem ∧
        ∃ r ∈ u.reqs, r.cell = c ∧ r.kind = .write l.bytes ∧ r.pa = l.line * 128 ∧ r.key = l.key ∧ r.ord = false ∧
          r.res = l.held.map fun h => (h.1, some h.2)) ∧
      (s.clk < l.last + 256 → (s.cell c).coal = [l] → exec (.coalesceTimeout c l.line) s = .next s)) ∧
    -- flushes: a HAND's descriptor is installed, and the results land, a HAND's when its cell runs, once the requests before them have completed
    (∀ (c : Nat) (f : Flush), (s.cell c).flush = [f] →
      let ready : Prop := ∀ r ∈ s.reqs, f.waitsFor c r = false
      (∀ t x d, f.kind = .hand t x d → ready → Answers (.handInstall c) s fun u => (u.cell t).owned[x] = d ∧ (u.cell c).flush = [] ∧
        (u.cell c).lands = (s.cell c).lands ++ [⟨f.w, f.pay, true⟩]) ∧
      (f.kind = .stores ∨ f.kind = .all → ready → Answers (.flushResult c) s fun u => (u.cell c).flush = [] ∧
        (u.cell c).lands = (s.cell c).lands ++ [⟨f.w, f.pay, false⟩]) ∧
      (¬ready → ∀ i ∈ [Instr.handInstall c, .flushResult c], Answers i s fun u => u.cell c = s.cell c ∧ u.reqs = s.reqs))

/-- 08 R211, R212; 11 R272 to R277; 15 R341: what a home quay does with its channels. 11 R276, R280 to R283: the dredger's rounds, samples and
actions. In the model's reading nothing is allocated in the basin of a broken channel (log 22), the frame that a release pushes is padded to a whole
element (log 24), a growth is held with the accesses that fault (log 28), and the marker of a closed and exhausted channel has a clear header bit
and sequence number 0 (log 87). -/
def Obligations.ChannelAndDredgerEventResults : Prop :=
  (
    ∀ (s : State) (ch : Nat),
      let c := s.chan ch
      let ring : Prop := c.nr + c.moves.length < c.nr0 ∧ c.nb = 0
      let basin : Prop := c.nb < c.eg * c.pe ∧ c.splice = false ∧ c.paused = false ∧ c.broken = false
      let idle : Prop := c.cur = none ∧ c.wtoks = []
      -- closed, with nothing complete, nothing partial, and no allocation that waits in or outside the roadstead or is about to enter it
      let spent : Prop := c.closed = true ∧ c.nr = 0 ∧ c.nb = 0 ∧ c.cur = none ∧ s.chanWaits ch (fun _ => true) = false
      -- the oldest request of a channel is granted the next element: in the ring while the basin is empty, else in the basin
      (∀ i ∈ [Instr.channelAllocation ch, .freeFramePush ch],
        (s.chanReq? ch = none ∨ ¬idle ∨ (¬ring ∧ ¬basin) → exec i s = .next s) ∧
        (∀ r, s.chanReq? ch = some r → idle → ring → Answers i s fun u =>
          let d := u.chan ch
          d.cur = some (.inl c.rWr) ∧ d.rWr = (c.rWr + 1) % c.nr0 ∧ d.nr = c.nr + 1 ∧ d.wIdx = c.wIdx + 1 ∧ d.wpos = 0 ∧ d.nb = 0 ∧
            (u.quay (ch / 64)).road = (s.quay (ch / 64)).road.erase r ∧
            (∀ j < c.e, ∃ x, tblGet? (u.quay (ch / 64)).slots (c.base + c.rWr * c.e + j) = some x ∧ x.rdr = 1 ∧ x.fe = 0) ∧
            (r.kind = 1 → d.wtoks.map (·.1) = r.toks) ∧ (r.kind = 0 → c.closed = false → d.wtoks.map (·.1) = r.toks) ∧
            (r.kind = 4 → d.wtoks.map (·.1) = r.toks ++ List.replicate (c.e - r.toks.length) ⟨0, .zero⟩)) ∧
        (∀ r, s.chanReq? ch = some r → idle → ¬ring → basin → c.bWr.2 + 1 < c.pe → Answers i s fun u =>
          let d := u.chan ch
          d.cur = some (.inr c.bWr) ∧ d.bWr = (c.bWr.1, c.bWr.2 + 1) ∧ d.nb = c.nb + 1 ∧ d.wIdx = c.wIdx + 1 ∧ d.nr = c.nr ∧
            (u.quay (ch / 64)).road = (s.quay (ch / 64)).road.erase r)) ∧
      -- a token of the element is written, and its writer told its index; the last, or a marker, completes the element
      (c.wtoks = [] ∨ c.cur = none → exec (.channelWriteToken ch) s = .next s) ∧
      (∀ (t : Token) (who : Teller) (rest : List (Token × Teller)) (n : Nat), c.wtoks = (t, who) :: rest → c.cur = some (.inl n) →
        Answers (.channelWriteToken ch) s fun u =>
          let done : Prop := c.wpos + 1 = c.e ∨ t.tag.lvl ≠ 0
          tblGet? (u.quay (ch / 64)).slots (c.base + n * c.e + c.wpos) = some ⟨t.pay, t.tag, 0xFF, 1⟩ ∧ (u.chan ch).wtoks = rest ∧
          (done → (u.chan ch).cur = none ∧ (u.chan ch).wpos = 0 ∧ ∀ p, s.readerPilot ch = some p → (u.pilot p).woke = true) ∧
          (¬done → (u.chan ch).cur = c.cur ∧ (u.chan ch).wpos = c.wpos + 1) ∧
          (∀ p, who = .pilot p → (u.pilot p).ans = some ((c.wIdx - 1).setWidth 64)) ∧
          (∀ id r, who = .req id → s.req? id = some r → r.served = false → ∃ x, u.req? id = some x ∧ x.served = true ∧ x.ans = inLane0 (c.wIdx - 1))) ∧
      -- the waiting reader is served; a closed and exhausted channel answers a marker of level 7
      (∀ id r, c.chrWait = some (.cell id) → s.req? id = some r →
        let t := s.ringTok ch c.rRd c.rpos
        (c.readable = true → Answers (.channelReadServe ch) s fun u => (u.chan ch).chrWait = none ∧
          (∃ x, u.req? id = some x ∧ x.served = true ∧ x.ans = t.pay ∧ x.res.map (fun w => w.1.tag) = r.res.map fun _ => t.tag) ∧
          (t.tag.lvl ≠ 0 ∨ c.rpos + 1 = c.e → (u.chan ch).rRd = (c.rRd + 1) % c.nr0 ∧ (u.chan ch).nr = c.nr - 1 ∧
            (u.chan ch).rIdx = c.rIdx + 1 ∧ (u.chan ch).rpos = 0) ∧
          (t.tag.lvl = 0 → c.rpos + 1 ≠ c.e → (u.chan ch).rpos = c.rpos + 1 ∧ (u.chan ch).nr = c.nr)) ∧
        (c.readable = false → spent → Answers (.channelReadServe ch) s fun u => (u.chan ch).chrWait = none ∧
          ∃ x, u.req? id = some x ∧ x.served = true ∧ x.ans = 0 ∧ ∀ w ∈ x.res, w.1.tag = ⟨7, false, 0⟩) ∧
        (c.readable = false → ¬spent → exec (.channelReadServe ch) s = .next s)) ∧
      (∀ p, c.chrWait = some (.pilot p) → c.readable = true ∨ spent → Answers (.channelReadServe ch) s fun u =>
        (u.chan ch).chrWait = none ∧ (u.pilot p).ans = some 0) ∧
      (c.chrWait = none → exec (.channelReadServe ch) s = .next s) ∧
      -- elements move from the basin to the ring in order
      (c.canMove = false → exec (.basinMoveStart ch) s = .next s) ∧
      (∀ f s1 toks s2, c.canMove = true → c.moves = [] → s.extFrame ch c.bRd.1 (c.elemOff c.bRd.2) = (some f, s1) →
        (s1.moveSend ch f c.bRd).basinGet ch c.bRd = (some toks, s2) → s2.chan ch = c →
        Answers (.basinMoveStart ch) s fun u =>
          (∃ n, (1 ≤ c.e → 1 ≤ n) ∧ (s.traffic none = false → s.reqs = [] → n = 2 * c.e) ∧
            u.chan ch = { c with moves := [⟨c.rWr, toks, n⟩], rWr := (c.rWr + 1) % c.nr0 }) ∧ u.passes = s2.passes ∧
          ∃ p ∈ (s1.moveSend ch f c.bRd).passes, p.ev = some (.basinMoveLand ch) ∧ p.vd = s1.chanVd ch ∧ p.rclass = 0 ∧ p.since = s1.clk ∧
            p.queued = false) ∧
      (c.moves = [] → exec (.basinMoveLand ch) s = .next s) ∧
      (∀ m rest, c.moves = m :: rest → c.paused = true → Answers (.basinMoveLand ch) s fun u => u.quays = s.quays ∧
        ∃ e, Schedules s u [e] ∧ e.due = s.clk + 1 ∧ e.ev = .basinMoveLand ch) ∧
      (∀ m rest, c.moves = m :: rest → c.paused = false → c.bRd.2 + 1 < c.pe → 2 * c.e ≤ m.done → Answers (.basinMoveLand ch) s fun u =>
        u.chan ch = { c with moves := rest, nr := c.nr + 1, nb := c.nb - 1, bRd := (c.bRd.1, c.bRd.2 + 1) } ∧
        ∀ j < m.toks.length, u.ringTok ch m.ring j = m.toks.getD j ⟨0, .zero⟩) ∧
      -- after a TLBINV what waited on an access goes on, a growth among it
      (let d := { c with paused := false, growHeld := false }
       (c.growHeld = false ∨ (s.vd (s.chanVd ch)).quota = 0 → Answers (.basinAccessReissue ch) s fun u => u.chan ch = d) ∧
       (∀ f t, c.growHeld = true → (s.vd (s.chanVd ch)).quota ≠ 0 → c.eg = 0 → (s.setChan ch d).extFrame ch 0 65504 = (some f, t) →
         Answers (.basinAccessReissue ch) s fun u => (u.chan ch).eg = 1 ∧ (u.chan ch).bRd = (0, 0) ∧ (u.chan ch).bWr = (0, 0))) ∧
      Answers (.spliceComplete ch) s (fun u => u.chan ch = { c with splice := false })) ∧
  (
    ∀ (s : State) (part : Nat),
      Answers (.dredgerRound part) s (fun u => u.cells = s.cells ∧ u.mem = s.mem ∧ ∃ e f, Schedules s u [e, f] ∧
        e.due = s.clk + 36 ∧ e.ev = .dredgerSample part ∧ f.due = s.clk + 72 ∧ f.ev = .dredgerResult part) ∧
      Answers (.dredgerSample part) s (fun u =>
        (∀ v, v ∈ (u.part part).sActive ↔ v ∈ s.vdsOf part ∧ ∃ t ∈ s.stripsOf part, s.active t v = true) ∧
        (∀ v, v ∈ (u.part part).sStalled ↔ v ∈ s.vdsOf part ∧ ∀ t ∈ s.stripsOf part, s.stalled t v = true) ∧
        (∀ c, cellStrip c ∈ s.stripsOf part → (u.cell c).acted = false) ∧ (∀ t ∈ s.stripsOf part, (u.quay (2 * t)).granted = [])) ∧
      -- the counts; two rounds of stall call for an action
      ((∀ v ∈ s.vdsOf part, v ∉ (s.part part).sActive ∨ v ∉ (s.part part).sStalled) → Answers (.dredgerResult part) s fun u =>
        (∀ v ∈ s.vdsOf part, (u.vd v).dredge = 0) ∧ u.regions = s.regions ∧ u.quays = s.quays) ∧
      (∀ v, Sorted s.regions → s.vdsOf part = [v] → v ∈ (s.part part).sActive → v ∈ (s.part part).sStalled →
        let waiting := (s.chansOf v).filter s.writerWaits
        let stops (why : Nat) : Prop := Answers (.dredgerResult part) s fun u => (u.vd v).dredge = 0 ∧ (u.vd v).trap = some why ∧
          ∀ r ∈ s.runningOf v, (u.region r).halt ≠ none
        ((s.vd v).dredge = 0 → Answers (.dredgerResult part) s fun u => (u.vd v).dredge = 1 ∧ u.regions = s.regions ∧ u.quays = s.quays) ∧
        (1 ≤ (s.vd v).dredge → waiting = [] → stops 0) ∧
        (∀ ch, 1 ≤ (s.vd v).dredge → waiting = [(ch, s.chan ch)] → (s.chan ch).limit ≤ (s.chan ch).eg → stops 2) ∧
        (∀ ch, 1 ≤ (s.vd v).dredge → waiting = [(ch, s.chan ch)] → (s.chan ch).eg < (s.chan ch).limit → (s.vd v).quota = 0 → stops 1) ∧
        (∀ (ch : Nat) (f : Frame) (s1 : State), 1 ≤ (s.vd v).dredge → waiting = [(ch, s.chan ch)] → s.chanVd ch = v → (s.chan ch).eg = 0 → 0 < (s.chan ch).limit →
          (s.vd v).quota ≠ 0 → (s.modVd v fun d => { d with dredge := d.dredge + 1 }).extFrame ch 0 65504 = (some f, s1) → Answers (.dredgerResult part) s fun u =>
            (u.chan ch).eg = 1 ∧ (u.chan ch).bRd = (0, 0) ∧ (u.chan ch).bWr = (0, 0) ∧ (u.vd v).quota = (s.vd v).quota - 1 ∧
            u.regions = s.regions)))

/-- 01 R20; 09 R241, R242; 13 R304 to R312; 16 R364 to R368: what happens to a region without an instruction. A halt completes at its bound and the
other durations are the model's (log 9); a save's image stands for the state beside it (log 13); no image is written without a permitted key
(log 106); a restore whose routes fail ends SAVED (log 49); an EVT record that found the queue full waits on at its source, and its cell may fire
EVT again (log 95); a discard region whose reload fails its checks goes back to SAVED (log 107); a fill of a pilot's L1 may take some sectors of its line
before the others (log 86). -/
def Obligations.RegionEventResults : Prop :=
  ∀ (s : State) (r : Nat),
    let g := s.region r
    let posts (u : State) (ty : BitVec 8) : Prop := ∃ x ∈ u.records, x.body.extractLsb' 0 8 = ty ∧ x.part = g.part
    let halting (d : Nat) : Prop := g.st = .running ∧ g.halt ≠ none ∧ g.haltAt + d = s.clk
    let freed (u : State) : Prop := ∀ c ∈ s.regCells r, (u.cell c).region ≠ some r
    -- the drain, the quantum and the phases of a halt
    (g.st = .running → s.isDrained r = true → Answers (.regionCompletionEvent r) s fun u => (u.region r).st = .drained ∧
      (u.region r).gated = true ∧ (u.region r).halt = none ∧ (u.region r).hdr = g.hdr ∧ u.cells = s.cells ∧ posts u 1) ∧
    (g.st ≠ .running ∨ s.isDrained r = false → exec (.regionCompletionEvent r) s = .next s) ∧
    (g.st = .running → g.runs ≤ s.clk → g.halt = none → g.quantum ≠ 0 → g.counter = 1 → Answers (.quantumExpiry r) s fun u =>
      (u.region r).halt = some .quantum ∧ (u.region r).haltAt = s.clk ∧ (u.region r).expired = true ∧ (u.region r).st = .running ∧
      (∃ e ∈ u.pend, e.due = s.clk + 38 ∧ e.ev = .preemptSignal r) ∧ (∃ e ∈ u.pend, e.due = s.clk + 3258 ∧ e.ev = .readPhaseEnd r) ∧
      ∃ e ∈ u.pend, e.due = s.clk + 3400 ∧ e.ev = .haltComplete r) ∧
    (g.st ≠ .running ∨ g.counter ≠ 1 ∨ g.quantum = 0 → exec (.quantumExpiry r) s = .next s) ∧
    (halting 38 → Answers (.preemptSignal r) s fun u => (u.region r).gated = true ∧ (u.region r).st = .running ∧
      ∀ c, (s.cell c).region = some r → u.frozen c = true) ∧
    (halting 3258 → Answers (.readPhaseEnd r) s fun u => (∀ c ∈ s.regCells r, (u.cell c).evtBusy = false) ∧
      (∀ c ∈ s.regCells r, isQuayCell c = true → (u.cell c).trans = none) ∧
      ∀ q ∈ u.reqs, q.cell ∈ s.regCells r → isQuayCell q.cell = true →
        q.kind = .read ∨ (∃ ch, q.kind = .chst ch) ∨ ((∃ ch, q.kind = .chr ch) ∧ q.served = false) → q.held = true) ∧
    (halting 3400 → Answers (.haltComplete r) s fun u => (u.region r).st = .stopped ∧ (u.region r).halt = none ∧
      (u.region r).gated = true ∧ u.cells = s.cells ∧ (g.halt = some .quantum → posts u 3) ∧
      (g.halt ≠ some .quantum → u.records = s.records)) ∧
    (¬halting 38 → exec (.preemptSignal r) s = .next s) ∧ (¬halting 3258 → exec (.readPhaseEnd r) s = .next s) ∧
    (¬halting 3400 → exec (.haltComplete r) s = .next s) ∧
    -- the end of a load
    (g.st ≠ .loading → exec (.loadingEnd r) s = .next s) ∧
    (g.st = .loading → g.kill = true → Answers (.loadingEnd r) s fun u => (u.region r).st = .killing ∧
      ∃ e ∈ u.pend, e.due = s.clk + Config.killClk ∧ e.ev = .killComplete r) ∧
    (∀ cs s1, g.st = .loading → g.kill = false → s.readImages r = (.ok cs, s1) → s1.region r = g → s1.parts = s.parts →
      Answers (.loadingEnd r) s fun u => (u.region r).st = .loaded ∧ posts u 10 ∧
        (g.own = [] → cs.Pairwise (fun x y => x.place ≠ y.place) →
          ∀ x ∈ cs, u.cell (s.atPlace g.part x.place) = cellOf g.hdr r x.ctxs) ∧
        ∀ p, r ∉ (u.pilot p).async) ∧
    (∀ f s1, g.st = .loading → g.kill = false → s.readImages r = (.error f, s1) → s1.regions = s.regions → s1.cells = s.cells →
      Sorted s.regions → Sorted s.cells → s1.parts = s.parts → Answers (.loadingEnd r) s fun u =>
        (u.region r).st = .free ∧ freed u ∧ posts u 2 ∧ ∀ p, r ∉ (u.pilot p).async) ∧
    -- the ends of a save, a restore and a kill
    (g.st ≠ .saving → exec (.saveComplete r) s = .next s) ∧
    (g.st = .saving → Sorted s.cells → Answers (.saveComplete r) s fun u => (u.region r).st = .saved ∧ (u.region r).hdr = g.hdr ∧
      freed u ∧ posts u 10 ∧ (∀ p, r ∉ (u.pilot p).async) ∧
      (hdrDiscard g.hdr = false → MemOk s → ∃ v ∈ u.saves, v.region = r ∧ v.live = true ∧ v.places = s.regCells r ∧
        v.cells = (s.regCells r).map s.cell ∧ v.pa = s.saveAt r g.saveOff ∧ v.bytes = saveSize g.hdr ∧
        let keys := (s.vd (8 * g.part + g.vd)).keys &&& ~~~1#64
        (keys ≠ 0 → u.bytesAt (s.rootKey (8 * g.part + g.vd)) v.pa v.bytes = saveImage v.id v.bytes) ∧ (keys = 0 → u.mem = s.mem))) ∧
    (g.st ≠ .restoring → exec (.restoreComplete r) s = .next s) ∧
    (g.st = .restoring → hdrDiscard g.hdr = false →
      ((∀ v ∈ s.saves, s.imageOk r g.saveOff v = false) → Answers (.restoreComplete r) s fun u => (u.region r).st = .saved ∧ posts u 10) ∧
      (∀ v, s.saves.find? (s.imageOk r g.saveOff) = some v → (s.restoreSettle r v).stitchFail r = none →
        Answers (.restoreComplete r) s fun u => (u.region r).st = .stopped ∧ posts u 10 ∧ (∀ x ∈ u.saves, x.region = r → x.live = false) ∧
          (∀ x ∈ s.saves, x.region ≠ r → x.bytes ≠ 0 → x ∈ u.saves) ∧
          ((s.regCells r).Nodup → ∀ (i c : Nat) (k : Cell), (s.regCells r)[i]? = some c → v.cells[i]? = some k →
            (u.cell c).w = k.w ∧ (u.cell c).ctxs = k.ctxs ∧ (u.cell c).store = k.store ∧ (u.cell c).flags = k.flags))) ∧
    (g.st = .restoring → hdrDiscard g.hdr = true →
      (s.reloadDiscard r = none → Answers (.restoreComplete r) s fun u => (u.region r).st = .saved) ∧
      (∀ t, s.reloadDiscard r = some t → t.stitchFail r = none → Answers (.restoreComplete r) s fun u => (u.region r).st = .stopped)) ∧
    (g.st ≠ .killing → exec (.killComplete r) s = .next s) ∧
    -- the end of a kill waits for the tokens sent before it
    (let old (p : Pass) : Prop := p.vd = 8 * g.part + g.vd ∧ p.since + Config.killClk ≤ s.clk ∧ ∃ d x q i t, p.ev = some (.tokenArrival d x q i t)
     g.st = .killing →
      ((∃ p ∈ s.passes, old p) → Answers (.killComplete r) s fun u => u.regions = s.regions ∧ u.cells = s.cells ∧
        ∃ e, Schedules s u [e] ∧ e.due = s.clk + 1 ∧ e.ev = .killComplete r) ∧
      ((∀ p ∈ s.passes, ¬old p) → Sorted s.regions → Sorted s.cells → Answers (.killComplete r) s fun u => (u.region r).st = .free ∧ freed u ∧
      (∀ x ∈ u.saves, x.region ≠ r) ∧ (∀ p, r ∉ (u.pilot p).async) ∧ posts u 10))

/-- 03 R87; 09 R224, R226, R232 to R234, R236: what happens to a pilot without an instruction of its own. What a load, a fetch or an atomic finds at
its home slice is in PilotLoadsAndStores and
PilotAtomicResults; an access waits there for the pilot's older stores (log 59). -/
def Obligations.PilotEventResults : Prop :=
  ∀ (s : State) (p : Nat),
    let m := s.pilot p
    let taken : Prop := m.evqhead ≠ m.evqtail ∧ (m.status.getLsbD 0 = false ∨ m.status.getLsbD 1 = true)
    (∀ w : Word, Answers (.illegalInstruction p w) s fun u => u.pilot p = { m with
        epc := m.pc &&& ~~~3#64, cause := 1, tval := w.setWidth 64, status := trapStatus m.status, pc := m.tvec, wait := .no, ans := none
        walk := none, acc := none } ∧
      (∀ q, q ≠ p → u.pilot q = s.pilot q) ∧ u.mem = s.mem ∧ u.cells = s.cells) ∧
    (taken → s.canInterrupt p = true → Answers (.eventInterrupt p) s fun u => u.pilot p = { m with
        epc := m.pc &&& ~~~3#64, cause := 0x101, tval := 0, status := trapStatus m.status, pc := m.tvec, wait := .no, ans := none
        walk := none, acc := none } ∧
      (∀ q, q ≠ p → u.pilot q = s.pilot q) ∧ u.mem = s.mem ∧ u.cells = s.cells ∧
      (∀ ch, m.wait = .chtake ch → (u.chan ch).chrWait = none) ∧
      ∀ ch, m.wait = .chput ch → ∀ r ∈ (u.quay (ch / 64)).road ++ (u.quay (ch / 64)).outside, ¬(r.kind = 1 ∧ r.src = p)) ∧
    (¬taken ∨ s.canInterrupt p = false → exec (.eventInterrupt p) s = .next s) ∧
    (m.wait = .no ∨ m.wait = .idle ∨ (∃ d, m.wait = .wfe d) → s.canInterrupt p = true) ∧
    (∀ d, m.wait = .wfe d →
      (d ≤ s.clk → Answers (.wfeTimeout p) s fun u => u.pilot p = { m with woke := true } ∧ u.mem = s.mem ∧ u.cells = s.cells) ∧
      (s.clk < d → exec (.wfeTimeout p) s = .next s)) ∧
    -- a store or an access at its home slice waits for the pilot's older stores there; a store is performed and acknowledged
    (∀ id : Nat,
      let before (pa : Nat) : Prop := ∃ y ∈ m.stores, y.id < id ∧ s.home y.pa = s.home pa
      let later : Prop := Answers (.pilotAccessComplete (p, id)) s fun u => u.pilots = s.pilots ∧ u.mem = s.mem ∧
        ∃ e, Schedules s u [e] ∧ e.due = s.clk + 1 ∧ e.ev = .pilotAccessComplete (p, id)
      (∀ x, m.stores.find? (fun y => y.id == id) = some x → (before x.pa → later) ∧
        (¬before x.pa → MemOk s → Answers (.pilotAccessComplete (p, id)) s fun u => (u.pilot p).stores = m.stores.filter (fun y => y.id != id) ∧
          u.bytesAt x.key x.pa x.bytes.length = x.bytes ∧ (u.pilot p).pc = m.pc ∧ (u.pilot p).g = m.g ∧ u.cells = s.cells ∧ MemOk u)) ∧
      ((∀ y ∈ m.stores, y.id ≠ id) →
        (∀ a, m.acc = some a → a.id = id → (before a.pa → later) ∧ (¬before a.pa →
          (a.fills = false ∨ (s.traffic (some p) = false ∧ s.reqs = []) → exec (.pilotAccessComplete (p, id)) s = .next (s.serveAcc p a)) ∧
          -- where something else may be at memory, a fill may take some sectors of its line before the others
          (exec (.pilotAccessComplete (p, id)) s = .next (s.serveAcc p a) ∨ Answers (.pilotAccessComplete (p, id)) s fun u => u.mem = s.mem ∧
            (∃ b, (u.pilot p).acc = some b ∧ b.id = a.id ∧ b.pa = a.pa ∧ b.what = a.what ∧
              ∀ k v, tblGet? b.pre k = some v → tblGet? a.pre k = some v ∨ v = s.valAt 128 a.key (16 * k) 16) ∧
            ∃ e, Schedules s u [e] ∧ e.due = s.clk + 1 ∧ e.ev = .pilotAccessComplete (p, id)))) ∧
        (m.acc = none ∨ (∃ a, m.acc = some a ∧ a.id ≠ id) → exec (.pilotAccessComplete (p, id)) s = .next s)))

/-- 13 R302; 17 R376 to R384, R391, R392: the host's accesses, the shadow engine, coming up, and power. `h` is the platform once an access has ended
every power state (log 96); `vd` the virtual device that a function reaches. In the model's reading nothing happens while the link is down (log 78),
a function that cannot be used counts as one whose TDI does not run (log 70; reads of it and notify writes are not counted, log 108), a read of
poisoned bytes completes with free ones (log 15), a misaligned shadow copy is an error (log 29), what a channel write makes is at the home quay one clk
later (log 9), and the
registers' reads have no row of the opcode table (log 91). -/
def Obligations.HostEventResults : Prop :=
  ∀ (s0 : State),
    let s : State := { s0 with host := { s0.host with power := [] } }
    let h := s.host
    let counts (fn : HostFn) (u : State) : Prop := (fn = .pf → u.host.pfdrops = satInc h.pfdrops) ∧
      ∀ n, fn = .vf n → tblGet 0 u.host.drops n = satInc (tblGet 0 h.drops n)
    let drops (i : Instr) (fn : HostFn) : Prop := Answers i s0 fun u => u.mem = s.mem ∧ u.records = s.records ∧ Quiet s u ∧
      u.cells = s.cells ∧ u.quays = s.quays ∧ counts fn u
    -- a posted write is first in its function's order
    let first (fn : HostFn) : Prop := tblGet [] h.swait (fnNo fn) = [] ∧ s.hostWaits (fnNo fn) = false
    -- a record for each write to a doorbell, or, while the queue has no room, a new value for the one that waits
    let notifies (i : Instr) (fn : HostFn) (n : Nat) (v : Word) : Prop :=
      let room : Bool := (s.pilot (s.part (n / 8)).sup).takesRec
      (first fn →
        (Answers i s0 fun u => (u.vd n).notify = v) ∧
        ((∀ r ∈ s.records, r.notifies n = false) ∨ room = true → Answers i s0 fun u => Records s u [notifyRec n v]) ∧
        ((∃ r ∈ s.records, r.notifies n = true) → room = false → Answers i s0 fun (u : State) => u.records.length = s.records.length ∧
          ∀ (k : Nat) (r : Rec), s.records[k]? = some r →
            (r.notifies n = true → (∀ j y, k < j → s.records[j]? = some y → y.notifies n = false) → u.records[k]? = some (notifyRec n v)) ∧
            (r.notifies n = false ∨ (∃ j y, k < j ∧ s.records[j]? = some y ∧ y.notifies n = true) → u.records[k]? = some r))) ∧
      (¬first fn → Answers i s0 fun u => Quiet s u ∧ u.records = s.records ∧ (u.vd n).notify = (s.vd n).notify ∧
        tblGet [] u.host.swait (fnNo fn) = tblGet [] h.swait (fnNo fn) ++ [⟨n, .bell v, 0, []⟩])
    -- without a link nothing reaches the module
    (s0.host.link = false → (∀ i ∈ [Instr.isoerrRead, .pfdropsRead], exec i s0 = .next s0) ∧
      (∀ (n : Nat) (v : Word), exec (.notifyWrite n v) s0 = .next s0 ∧ exec (.pfnotifyWrite n v) s0 = .next s0 ∧ exec (.dropsRead n) s0 = .next s0) ∧
      (∀ fn n bs, exec (.hostMemoryRead fn n bs.length) s0 = .next s0 ∧ exec (.hostMemoryWrite fn n bs) s0 = .next s0 ∧
        exec (.hostChannelWrite fn n bs) s0 = .next s0) ∧
      (∀ (n : Nat) (v : DWord), exec (.pfvdWrite v) s0 = .next s0 ∧ exec (.hblossClear v) s0 = .next s0 ∧
        exec (.registerWrite n v) s0 = .next s0 ∧ exec (.shadowCopyStart v) s0 = .next s0)) ∧
    (s0.host.link = true →
      -- doorbells
      (∀ vf v n, s.vfUp vf = some n → notifies (.notifyWrite vf v) (.vf vf) n v) ∧
      (∀ vf v, s.vfUp vf = none → exec (.notifyWrite vf v) s0 = .next s) ∧
      (∀ n v d, tblGet? s.vds n = some d → d.vf = none → notifies (.pfnotifyWrite n v) .pf n v) ∧
      (∀ n v, tblGet? s.vds n = none ∨ (s.vd n).vf ≠ none → drops (.pfnotifyWrite n v) .pf) ∧
      -- the memory window
      (∀ fn off size, s.target fn = none → Answers (.hostMemoryRead fn off size) s0 fun u => u.host = { h with reply := .unsupported } ∧ u.mem = s.mem) ∧
      (∀ (fn : HostFn) (off size vd : Nat) (bs : List Byte) (s1 : State), s.target fn = some vd →
        s.vbytes (s.hostQuay vd) vd true (windowVa off) (size / 65536 + 2) size 0 = (.ok bs, s1) →
        Answers (.hostMemoryRead fn off size) s0 fun u => u.host.reply = .data bs ∧ u.mem = s1.mem) ∧
      (∀ (fn : HostFn) (off size vd n : Nat) (s1 : State), s.target fn = some vd →
        s.vbytes (s.hostQuay vd) vd true (windowVa off) (size / 65536 + 2) size 0 = (.error (n, true), s1) →
        Answers (.hostMemoryRead fn off size) s0 fun u => ∃ bs, u.host.reply = .data bs ∧ bs.length = size) ∧
      (∀ (fn : HostFn) (off size vd n : Nat) (s1 : State), s.target fn = some vd →
        s.vbytes (s.hostQuay vd) vd true (windowVa off) (size / 65536 + 2) size 0 = (.error (n, false), s1) →
        Answers (.hostMemoryRead fn off size) s0 fun u => u.host.reply = .unsupported ∧ counts fn u) ∧
      (∀ fn off bs, s.target fn = none → drops (.hostMemoryWrite fn off bs) fn ∧ drops (.hostChannelWrite fn off bs) fn) ∧
      (∀ (fn : HostFn) (off vd : Nat) (bs : List Byte) (f : Frame) (s1 : State), s.target fn = some vd → first fn →
        s.translate (s.hostQuay vd) vd true (windowVa off) .w = (.ok f, s1) → MemOk s1 → bs ≠ [] →
        bs.length ≤ 65536 - (windowVa off).toNat % 65536 → Answers (.hostMemoryWrite fn off bs) s0 fun u =>
          u.bytesAt f.key (f.pa (windowVa off)) bs.length = bs ∧ u.cells = s.cells ∧ u.pilots = s.pilots) ∧
      -- a write of which a granule cannot be written has no byte written
      (∀ (fn : HostFn) (off vd : Nat) (bs : List Byte) (e : Fail × DWord) (s1 : State), s.target fn = some vd → first fn →
        s.vjudge (s.hostQuay vd) vd (windowVa off) (bs.length / 65536 + 2) bs.length = (.error e, s1) →
        Answers (.hostMemoryWrite fn off bs) s0 fun u => u.mem = s1.mem ∧ counts fn u) ∧
      -- the channel aperture: one element for a channel whose writer is the host, behind what the function sent before
      (∀ (fn : HostFn) (vd off : Nat) (bs : List Byte), s.target fn = some vd →
        let ch := s.chanAt (vd / 8) (off / 128)
        let c := s.chan ch
        let takes : Prop := off % 128 = 0 ∧ bs.length = 32 * c.e ∧ s.partOf (ch / 128) = some (vd / 8) ∧ c.opened = true ∧
          c.vd = vd % 8 ∧ c.writer.extractLsb' 30 2 = 2 ∧ c.closed = false
        (first fn → takes → Answers (.hostChannelWrite fn off bs) s0 fun u => ∃ e r, Schedules s u [e] ∧ e.due = s.clk + 1 ∧
          e.ev = .berthRequestArrival (.quay (ch / 64)) r ∧ r.kind = 2 ∧ r.chan = ch ∧ r.cnt = c.e ∧ r.toks = pieces c.e bs) ∧
        (first fn → ¬takes → drops (.hostChannelWrite fn off bs) fn) ∧
        (¬first fn → ∀ x ∈ [(PutTo.mem, Instr.hostMemoryWrite fn off bs), (.chan, .hostChannelWrite fn off bs)],
          Answers x.2 s0 fun u => Quiet s u ∧ u.mem = s.mem ∧
            tblGet [] u.host.swait (fnNo fn) = tblGet [] h.swait (fnNo fn) ++ [⟨vd, x.1, off, bs⟩])) ∧
      -- registers
      (∀ v, Answers (.pfvdWrite v) s0 fun u => u.host = { h with pfvd := v &&& 0xFF }) ∧
      (∀ v, Answers (.hblossClear v) s0 fun u => u.host = { h with hbloss := h.hbloss &&& ~~~(v.setWidth 8) }) ∧
      (Answers .isoerrRead s0 fun u => u.host = { h with reply := .value h.isoerr, isoerr := 0 }) ∧
      (Answers .pfdropsRead s0 fun u => u.host = { h with reply := .value (h.pfdrops.setWidth 64), pfdrops := 0 }) ∧
      (∀ n, (n < 16 → h.bootFailed = false → Answers (.dropsRead n) s0 fun u => u.host =
          { h with reply := .value ((tblGet 0 h.drops n).setWidth 64), drops := tblDel h.drops n }) ∧
        (16 ≤ n ∨ h.bootFailed = true → Answers (.dropsRead n) s0 fun u => u.host = { h with reply := .unsupported })) ∧
      (∀ v, (Answers (.registerWrite 0x008 v) s0 fun u => u.host = { h with ltol := v &&& 0x9FFF }) ∧
        (Answers (.registerWrite 0x020 v) s0 fun u => u.host = { h with shsrc := v }) ∧
        (Answers (.registerWrite 0x028 v) s0 fun u => u.host = { h with shdst := v }) ∧
        (Answers (.registerWrite 0x030 v) s0 fun u => u.host = { h with shlen := v }) ∧
        ∀ n, n ∉ [0x008, 0x020, 0x028, 0x030] → exec (.registerWrite n v) s0 = .next s) ∧
      -- the registers' reads, which have no row of the opcode table (log 91); a notify register reads as 0
      (∀ r w, (r, w) ∈ [(HostReg.ltol, h.ltol), (.hbloss, h.hbloss.setWidth 64), (.shsrc, h.shsrc), (.shdst, h.shdst), (.shlen, h.shlen),
          (.pfvd, h.pfvd), (.status, s.pfStatus), (.shstat, s.shstat)] → Answers' (s0.turn (.act (.read r))) fun u => u.host = { h with reply := .value w }) ∧
      (∀ n, Answers' (s0.turn (.act (.read (.pfnotify n)))) (fun u => u.host = { h with reply := .value 0 }) ∧
        (n < 16 → h.bootFailed = false → Answers' (s0.turn (.act (.read (.notify n)))) fun u => u.host = { h with reply := .value 0 })) ∧
      -- the shadow engine: a page at a time, each charged to the stacks of its lines
      (∀ v : DWord, let n := v.toNat / 4 % 128
        let src := h.shsrc.toNat
        let dst := h.shdst.toNat
        let len := h.shlen.toNat
        let good : Prop := (tblGet? s.vds n).isSome ∧ src % 4096 = 0 ∧ dst % 4096 = 0 ∧ len % 4096 = 0 ∧
          s.spanOk (n / 8) src len = true ∧ s.spanOk (n / 8) dst len = true ∧ (s.vd n).keys &&& ~~~1#64 ≠ 0
        let begun : Platform := { h with shBusy := true, shErr := false, shDone := 0, shVd := n, shJob := (src, dst, len / 4096) }
        (h.shBusy = true ∨ v.getLsbD 0 = false → exec (.shadowCopyStart v) s0 = .next s) ∧
        (h.shBusy = false → v.getLsbD 0 = true → ¬good → Answers (.shadowCopyStart v) s0 fun u =>
          u.host = { h with shErr := true, shDone := 0 } ∧ u.mem = s.mem) ∧
        (h.shBusy = false → v.getLsbD 0 = true → good → len = 0 → Answers (.shadowCopyStart v) s0 fun u =>
          u.host = { begun with shBusy := false } ∧ u.mem = s.mem ∧ Quiet s u) ∧
        (h.shBusy = false → v.getLsbD 0 = true → good → len ≠ 0 → Answers (.shadowCopyStart v) s0 fun u =>
          u.host = begun ∧ u.mem = s.mem ∧ u.pend = s.pend ∧ ∃ p, u.passes = s.passes ++ [p] ∧ p.ev = some .shadowCopyDone ∧ p.vd = n))) ∧
    (s0.host.shBusy = false → exec .shadowCopyDone s0 = .next s0) ∧
    (let n := s0.host.shVd
     let j := s0.host.shJob
     let keys := (s0.vd n).keys &&& ~~~1#64
     (s0.host.shBusy = true → keys = 0 → Answers .shadowCopyDone s0 fun u => u.host = { s0.host with shBusy := false, shErr := true } ∧ u.mem = s0.mem) ∧
     (s0.host.shBusy = true → keys ≠ 0 → j.1 % 4096 = 0 → j.2.1 % 4096 = 0 → MemOk s0 → Answers .shadowCopyDone s0 fun u =>
       u.bytesAt (s0.rootKey n) j.2.1 4096 = s0.bytesAt (s0.rootKey n) j.1 4096 ∧ u.host.shDone = s0.host.shDone + 1 ∧
       u.host.shJob = (j.1 + 4096, j.2.1 + 4096, j.2.2 - 1) ∧ (u.host.shBusy = false ↔ j.2.2 ≤ 1))) ∧
    -- coming up: the link activates only a powered module; a failed boot is not ready
    (∀ ok, Answers (.powerGood ok) s0 fun u => u.llc = [] ∧ (∀ c, (u.cell c).store = []) ∧ (∀ q, (u.quay q).slots = []) ∧
      u.host = { s0.host with
        powered := true
        link := false
        up := false
        ready := false
        bootFailed := !(ok && s0.host.running.all fun i => i.2.sigOk && s0.host.minVer ≤ i.2.ver) }) ∧
    (s0.host.powered = true → Answers .linkActive s0 fun u => u.host = { s0.host with link := true, up := true, ready := !s0.host.bootFailed }) ∧
    (s0.host.powered = false → exec .linkActive s0 = .next s0) ∧
    (Answers .linkLeavesDlActive s0 fun u => u.host = { s0.host with link := false }) ∧
    -- power: the deepest state that the tolerance and the idleness allow
    (∀ t : Nat,
      let tol := s0.host.ltol.toNat % 1024 * 2 ^ (5 * (s0.host.ltol.toNat / 1024 % 8))
      let valid := s0.host.ltol.getLsbD 15
      let enters (p : Power) : Prop := Answers (.powerStateEntry t) s0 fun u => u.powerOf t = p ∧ ∀ x, x ≠ t → u.powerOf x = s0.powerOf x
      Sorted s0.host.power →
      (valid = false ∨ s0.idleStrip t = false ∨ tol < 2000 → enters .p0) ∧
      (valid = true → s0.idleStrip t = true → 2000 ≤ tol → tol < 60000 → enters .p1) ∧
      (valid = true → s0.idleStrip t = true → 60000 ≤ tol → tol < 2000000 ∨ s0.idlePackage = false → enters .p2) ∧
      (valid = true → s0.idleStrip t = true → 2000000 ≤ tol → s0.idlePackage = true → Answers (.powerStateEntry t) s0 fun u =>
        ∀ x < 48, u.powerOf x = .p3) ∧
      (s0.powerOf t = .p3 → Answers (.powerStateWake t) s0 fun u => ∀ x, u.powerOf x = .p0) ∧
      (s0.powerOf t ≠ .p3 → Answers (.powerStateWake t) s0 fun u => u.powerOf t = .p0 ∧ ∀ x, x ≠ t → u.powerOf x = s0.powerOf x))

/-- 15 R349 to R351, 17 R391: the SPDM responders, IDE and the TDIs of virtual functions. The model's choices: the numbers of the dies and
which unit lies on which (log 30), the order in which a responder takes its messages (log 103), the stream that a TDI needs to start
(log 98); the signatures, digests and certificates are free values (log 14). A request ends every low-power state (log 96). -/
def Obligations.SecurityEventResults : Prop :=
  ∀ (s0 : State), s0.host.link = true →
    let s : State := { s0 with host := { s0.host with power := [] } }
    let asks (i : Instr) (die : Fin 9) (ok : Prop) (kind : Nat) (next : Spdm) (vals : List (List DWord)) : Prop :=
      (ok → Answers i s0 fun u => u.host.spdm[die] = next ∧ (∀ d : Fin 9, d ≠ die → u.host.spdm[d] = s.host.spdm[d]) ∧
        (∃ sig, u.host.reply = .spdmOk die.val kind sig vals) ∧ u.vds = s.vds) ∧
      (¬ok → Answers i s0 fun u => u.host.reply = .spdmError die.val ∧ u.host.spdm = s.host.spdm ∧ u.vds = s.vds)
    let io : Fin 9 := 8
    let session : Prop := s.host.spdm[io].sess = 2
    (∀ die : Fin 9, let x := s.host.spdm[die]
      asks (.getVersion die.val) die True 1 ⟨true, false, false, x.sess⟩ [] ∧
      asks (.getCapabilities die.val) die (x.version = true) 2 { x with caps := true } [] ∧
      asks (.negotiateAlgorithms die.val) die (x.caps = true) 3 { x with algs := true } [] ∧
      asks (.getDigests die.val) die (x.algs = true) 4 x [Config.digest die.val] ∧
      asks (.getCertificate die.val) die (x.algs = true) 5 x [Config.certificate die.val] ∧
      (∀ v, asks (.challenge die.val v) die (x.algs = true) 6 x [] ∧
        asks (.getMeasurements die.val v) die (x.algs = true) 7 x (s.measurements die.val) ∧
        asks (.keyExchange die.val v) die (die = io ∧ x.algs = true) 8 { x with sess := 1 } []) ∧
      (∀ ok, asks (.finish die.val ok) die (die = io ∧ x.sess = 1 ∧ ok = true) 9 { x with sess := 2 } []) ∧
      asks (.endSession die.val) die (die = io ∧ x.sess = 2) 10 { x with sess := 0 } []) ∧
    -- keys of a stream only within a session, for the physical function or a virtual function that has a virtual device
    (∀ fn,
      let named : Prop := match fn with
        | .pf => True
        | .vf n => n < 16 ∧ s.host.bootFailed = false ∧ (s.vfVd n).isSome
      (session → named → Answers (.ideKmExchange fn) s0 fun u => u.host.reply = .spdmOk 8 11 0 [] ∧
        (fn = .pf → u.host.idePf = true ∧ u.host.ide = s.host.ide) ∧
        (∀ n, fn = .vf n → u.host.idePf = s.host.idePf ∧ n ∈ u.host.ide ∧ ∀ m, m ≠ n → (m ∈ u.host.ide ↔ m ∈ s.host.ide))) ∧
      (¬session ∨ ¬named → Answers (.ideKmExchange fn) s0 fun u => u.host = { s.host with reply := .spdmError 8 })) ∧
    -- the states of a TDI; its stream goes when it is unlocked or in ERROR
    (∀ (vf v : Nat), s.vfVd vf = some v → (s.vd v).vf = some vf →
      let moves (i : Instr) (ok : Prop) (t : Tdi) (ide : List Nat) : Prop :=
        (ok → s.host.bootFailed = false → Answers i s0 fun u => u.vd v = { s.vd v with tdi := t } ∧
          u.host = { s.host with
            ide := ide
            reply := .spdmOk 8 12 0 [] }) ∧
        (¬ok ∨ s.host.bootFailed = true → Answers i s0 fun u => u.vds = s.vds ∧ u.host = { s.host with reply := .spdmError 8 })
      moves (.tdiLock vf) ((s.vd v).tdi = .unlocked) .locked s.host.ide ∧
      moves (.startInterfaceRequest vf) (session ∧ vf ∈ s.host.ide ∧ (s.vd v).tdi = .locked) .run s.host.ide ∧
      moves (.tdiUnlock vf) True .unlocked (s.host.ide.filter (· != vf)) ∧
      ((s.vd v).tdi = .run → vf ∈ s.host.ide → Answers (.ideIntegrityFailure vf) s0 fun u => u.vd v = { s0.vd v with tdi := .error } ∧
        u.host = { s0.host with ide := s0.host.ide.filter (· != vf) }) ∧
      ((s.vd v).tdi ≠ .run ∨ vf ∉ s.host.ide → exec (.ideIntegrityFailure vf) s0 = .next s0)) ∧
    (∀ vf, s.vfVd vf = none →
      (∀ i ∈ [Instr.tdiLock vf, .startInterfaceRequest vf, .tdiUnlock vf], Answers i s0 fun u => u.vds = s.vds ∧
        u.host = { s.host with reply := .spdmError 8 }) ∧
      exec (.ideIntegrityFailure vf) s0 = .next s0)

/-- 16 R369; 17 R385 to R390: the Seaway's ports: training, heartbeats, keys, rows received and sent, acknowledgements. A row whose checks fail is
counted as an isolation error and has no other effect. The model's choices: the requests that a channel row makes
are at the home quay one clk later (log 9), where rows are parked and wait, and how a channel row's elements are cut (logs 32 and 33), what a key load restarts (log 34), a row that its entry cannot take (log 71), the completion word's width (log 72), the bytes
of a row, a heartbeat's token and where an acknowledgement goes (log 92), and that a row ends every low-power state (log 96). -/
def Obligations.SeawayEventResults : Prop :=
  ∀ (s0 : State) (p : Nat),
    let s : State := { s0 with host := { s0.host with power := [] } }
    let k := s.port p
    let sealed (r : SwRow) : List Byte := rowSealed r p (s.tx p r.chan).key
    -- before DL_Active nothing comes in; there are 8 ports, and an untrained one takes no row
    (∀ (phy : Bool) (ses : Option Nat) (ch vd : Nat) (key : Wide) (e : RxTarget) (va : DWord) (row : SwRow),
      (s.host.up = false → ∀ i ∈ [Instr.seawayPortTraining p phy ses, .seawayKeyLoad p ch key, .receiveTableWrite p ch e,
        .sendQueuePlace vd va, .seawayRowReceive p row, .acknowledgementReceive p row], exec i s0 = .next s0) ∧
      (s.host.up = true → 8 ≤ p → ∀ i ∈ [Instr.seawayPortTraining p phy ses, .seawayKeyLoad p ch key, .receiveTableWrite p ch e,
        .seawayRowReceive p row, .acknowledgementReceive p row], exec i s0 = .next s) ∧
      (s.host.up = true → k.trained = false → ∀ i ∈ [Instr.seawayRowReceive p row, .acknowledgementReceive p row], exec i s0 = .next s)) ∧
    -- training and heartbeats
    (∀ phy ses, s.host.up = true → p < 8 →
      let ok : Bool := phy && ses.any fun x => s.host.partners.contains x
      Answers (.seawayPortTraining p phy ses) s0 fun u => u.host = s.host ∧ u.port p = { k with
        trained := ok
        lastRx := s.clk
        wire := k.wire ++ (if ok then (k.tx.flatMap fun t => t.2.kept.filter fun r => t.2.ackHi ≤ r.num) else []).map sealed }) ∧
    (Answers (.heartbeatSend p) s0 fun u => (u.port p) = { k with
      wire := k.wire ++ (if k.trained then [sealed ⟨0, 0, 0, 2, false, 0, 0, 0, [⟨0, .zero⟩], true⟩] else []) }) ∧
    (p < 8 → Answers (.heartbeatLoss p) s0 fun u => u.port p = { k with trained := false } ∧
      ∀ j < 8, u.host.hbloss.getLsbD j = (s.host.hbloss.getLsbD j || j == p)) ∧
    -- keys, tables and queues that the management controller sets
    (s.host.up = true → p < 8 →
      (∀ ch key, Answers (.seawayKeyLoad p ch key) s0 fun u =>
        u.tx p ch = { s.tx p ch with
          hasKey := true
          key := key
          next := 0
          ackHi := 0
          ackNext := 0 } ∧
        (∀ x, tblGet? k.rx ch = some x → tblGet? (u.port p).rx ch = some { x with
          low := 0
          got := []
          high := none
          slow := 0
          served := []
          ackSeq := 0 }) ∧
        ∀ c, c ≠ ch → u.tx p c = s.tx p c ∧ tblGet? (u.port p).rx c = tblGet? k.rx c) ∧
      (∀ ch e, (tblGet? k.rx ch).isSome ∨ k.rx.length < 256 → Answers (.receiveTableWrite p ch e) s0 fun u =>
        ∃ x, tblGet? (u.port p).rx ch = some x ∧ x.target = e ∧ x.low = 0 ∧ x.got = [] ∧ x.high = none ∧ x.ackSeq = 0 ∧
          ∀ c, c ≠ ch → tblGet? (u.port p).rx c = tblGet? k.rx c) ∧
      (∀ ch e, tblGet? k.rx ch = none → 256 ≤ k.rx.length → Answers (.receiveTableWrite p ch e) s0 fun u => (u.port p).rx = k.rx)) ∧
    (s.host.up = true → ∀ vd va,
      ((tblGet? s.vds vd).isSome → Answers (.sendQueuePlace vd va) s0 fun u => (u.vd vd).sendq = some va ∧ (u.vd vd).sqNext = 0) ∧
      (tblGet? s.vds vd = none → exec (.sendQueuePlace vd va) s0 = .next s)) ∧
    (∀ vd, Answers (.sendQueueTailStore vd) s0 fun u => u.vd vd = { s.vd vd with tail := true }) ∧
    -- rows received
    (s.host.up = true → p < 8 → k.trained = true → ∀ row : SwRow,
      let heard : State := { s with ports := tblPut s.ports p { k with lastRx := s.clk } }
      let refused (i : Instr) : Prop := exec i s0 = .next { heard with host := { s.host with
        isoerr := s.host.isoerr + 1
        isoUnits := tblPut s.host.isoUnits (0x60000 + p) (tblGet 0 s.host.isoUnits (0x60000 + p) + 1) } }
      let fits : Prop := row.toks ≠ [] ∧ row.toks.length ≤ 29 ∧ row.pkg = Config.package.toNat ∧ row.port = p
      let recv : Instr := .seawayRowReceive p row
      (row.kind = 2 → exec recv s0 = .next heard) ∧
      (row.kind ≠ 2 → ¬fits → refused recv ∧ refused (.acknowledgementReceive p row)) ∧
      (row.kind = 3 → exec recv s0 = exec (.acknowledgementReceive p row) s0) ∧
      (row.kind ≠ 2 → row.kind ≠ 3 → tblGet? k.rx row.chan = none → refused recv) ∧
      (∀ x, row.kind ≠ 2 → row.kind ≠ 3 → fits → tblGet? k.rx row.chan = some x →
        let part := match x.target with
          | .channel n _ => n
          | .window n _ _ _ _ => n
        -- the row is among those accepted
        let accepts (u : State) (P : SwRx → Prop) : Prop := u.host = s.host ∧ ∃ y, tblGet? (u.port p).rx row.chan = some y ∧
          y.target = x.target ∧ y.admits row.num = false ∧ P y
        (row.part ≠ part ∨ row.tagOk = false ∨ x.admits row.num = false → refused recv) ∧
        (row.part = part → row.tagOk = true → x.admits row.num = true →
          -- a channel's: its elements wait in the home quay's roadstead, or are dropped
          (∀ n ch, x.target = .channel n ch →
            let c := s.chan (s.chanAt n ch)
            let takes : Prop := s.partOf (s.chanAt n ch / 128) = some n ∧ c.opened = true ∧ c.closed = false ∧
              c.writer.toNat / 2 ^ 30 % 4 = 3 ∧ c.writer.toNat % 8 = p
            (row.kind ≠ 0 → refused recv) ∧
            (row.kind = 0 → ¬takes → Answers recv s0 fun u => Quiet s u ∧ accepts u fun _ => True) ∧
            (row.kind = 0 → takes → Answers recv s0 fun u => (accepts u fun _ => True) ∧
              ∃ (es : List (List Token)) (l : List Pend), Schedules s u l ∧ es.flatten = row.toks ∧ l.length = es.length ∧
                (1 ≤ c.e → ∀ x ∈ es, x.length ≤ c.e) ∧ ∀ (i : Nat) (e : Pend), l[i]? = some e → ∃ q, e.due = s.clk + 1 ∧
                  e.ev = .berthRequestArrival (.quay (s.chanAt n ch / 64)) q ∧ q.kind = 3 ∧ q.chan = s.chanAt n ch ∧ es[i]? = some q.toks)) ∧
          -- a remote write: served, or parked, or waiting at its sender while 32 rows are parked
          (∀ n vd base len cw, x.target = .window n vd base len cw →
            let full : Prop := 32 ≤ k.parked.length
            let behind : Prop := ∃ r ∈ k.parked ++ k.held, heard.rowVd p r = some (8 * n + vd)
            let waits (u : State) : Prop := u.port p = { k with
              lastRx := s.clk
              held := if k.held.any (fun y => y.chan == row.chan && y.num == row.num) then k.held else k.held ++ [row] }
            (row.kind ≠ 1 ∨ len < 32 * (row.off + row.toks.length) → refused recv) ∧
            (row.kind = 1 → 32 * (row.off + row.toks.length) ≤ len →
              (full → behind → Answers recv s0 fun u => waits u ∧ u.mem = s.mem ∧ u.host = s.host) ∧
              (∀ s1, heard.remoteWrite (8 * n + vd) base row = (.ok (), s1) → s1.ports = heard.ports → s1.host = s.host → ¬(full ∧ behind) →
                Answers recv s0 fun u => u.mem = s1.mem ∧ (u.port p).parked = k.parked ∧ accepts u fun _ => True) ∧
              (∀ s1 a va, heard.remoteWrite (8 * n + vd) base row = (.error (a, va), s1) →
                (full → s1.ports = heard.ports → Answers recv s0 waits) ∧
                (¬full → s1.ports = heard.ports → s1.records = s.records → s1.host = s.host → Answers recv s0 fun u =>
                  Records s u [parkRec p n vd a row va] ∧ (accepts u fun y => x.unacked < 15 → y.freed = x.freed + 1) ∧
                  ∃ l r, k.parked = l ++ r ∧ (u.port p).parked = l ++ row :: r ∧ (∀ z ∈ l, z.chan = row.chan → z.num ≤ row.num) ∧
                    ∀ z t, r = z :: t → z.chan = row.chan ∧ row.num < z.num)))))) ∧
      -- an acknowledgement
      (let ack : Instr := .acknowledgementReceive p row
       let t := s.tx p row.chan
       (fits → row.tagOk = true → t.hasKey = true → t.ackNext ≤ row.num → Answers ack s0 fun u => u.host = s.host ∧
         ∀ c rest, row.toks = c :: rest → u.tx p row.chan = { t with
           ackNext := row.num + 1
           ackHi := max t.ackHi row.off
           kept := t.kept.filter (fun r => max t.ackHi row.off ≤ r.num)
           credits := t.credits + (lane c.pay 0).toNat }) ∧
       (fits → row.tagOk = false ∨ t.hasKey = false ∨ row.num < t.ackNext → refused ack))) ∧
    -- a parked row tried again
    (∀ (row : SwRow) (x : SwRx) (n vd len : Nat) (base cw : DWord) (s1 : State), k.parked = [row] → tblGet? k.rx row.chan = some x →
      x.target = .window n vd base len cw → s1.ports = s0.ports → s1.records = s0.records →
      let retry : Instr := .parkedRowRetry (p, 8 * n + vd)
      (s0.remoteWrite (8 * n + vd) base row = (.ok (), s1) →
        (k.held = [] → Answers retry s0 fun u => (u.port p).parked = [] ∧ u.mem = s1.mem ∧ u.records = s0.records) ∧
        ∀ r, k.held = [r] → k.trained = true → ∃ t : State, (t.port p).parked = [] ∧ (t.port p).held = [] ∧ t.mem = s1.mem ∧
          exec retry s0 = .next (t.rowServe p r)) ∧
      (∀ a va, s0.remoteWrite (8 * n + vd) base row = (.error (a, va), s1) → Answers retry s0 fun u =>
        (u.port p).parked = [row] ∧ Records s0 u [parkRec p n vd a row va])) ∧
    (∀ vd, (∀ r ∈ k.parked, s0.rowVd p r ≠ some vd) → exec (.parkedRowRetry (p, vd)) s0 = .next s0) ∧
    -- the completion word counts a last row once every row before it is served
    (∀ (ch : Nat) (x : SwRx) (n vd len m : Nat) (base cw : DWord) (f : Frame) (s1 : State), tblGet? k.rx ch = some x →
      x.target = .window n vd base len cw → x.complete = some m → s0.translate (s0.hostQuay (8 * n + vd)) (8 * n + vd) true cw .w = (.ok f, s1) →
      MemOk s1 → s1.ports = s0.ports → Answers (.remoteWriteCompletion p ch) s0 fun u =>
        u.valAt 32 f.key (f.pa cw) 4 = s1.valAt 32 f.key (f.pa cw) 4 + 1 ∧
        ∃ y, tblGet? (u.port p).rx ch = some y ∧ y.lasts = x.lasts.erase m) ∧
    (∀ ch, tblGet? k.rx ch = none → exec (.remoteWriteCompletion p ch) s0 = .next s0) ∧
    -- an acknowledgement sent
    (∀ ch x, tblGet? k.rx ch = some x → k.trained = true → Answers (.ackTimeout p ch) s0 fun u =>
      let dest := (Config.sender (p * 8192 + ch)).toNat
      (u.port p).wire = k.wire ++ [sealed ⟨dest % 2 ^ 14, dest / 2 ^ 14 % 8, targetPart x.target, 3, false, ch, x.ackSeq, x.low,
        [⟨inLane0 (BitVec.ofNat 32 x.freed), .zero⟩], true⟩] ∧
      tblGet? (u.port p).rx ch = some { x with unacked := 0, freed := 0, ackSeq := x.ackSeq + 1 }) ∧
    (∀ ch, tblGet? k.rx ch = none ∨ k.trained = false → exec (.ackTimeout p ch) s0 = .next s0) ∧
    -- the send queue: the next row of the descriptor at the head
    (∀ vd, s0.sqCtl vd = none → exec (.seawayRowSend vd) s0 = .next s0) ∧
    (∀ vd c, s0.sqCtl vd = some c → c.head = c.tail → Answers (.seawayRowSend vd) s0 fun u => u.vd vd = { s.vd vd with tail := false } ∧
      u.ports = s.ports) ∧
    (∀ (vd : Nat) (c : SendCtl) (db bs : List Byte) (s1 s2 : State), s0.sqCtl vd = some c → c.head ≠ c.tail →
      s0.sqRead vd (c.base + BitVec.ofNat 64 (64 * (c.head.toNat % max 1 c.entries))) 64 = (some db, s1) →
      let d : BitVec 512 := ofBytes 512 db
      let at_ := (s.vd vd).sqNext
      let n := min (if d.toNat % 256 = 0 then 24 else 29) (d.toNat / 2 ^ 128 % 2 ^ 32 - at_)
      let port := d.toNat / 2 ^ 8 % 8
      let ch := d.toNat / 2 ^ 48 % 2 ^ 13
      let t := s.tx port ch
      n ≠ 0 → (s.port port).trained = true → t.hasKey = true → t.credits ≠ 0 → t.next < 2 ^ 32 - 1 →
      s1.sqRead vd (d.extractLsb' 64 64 + BitVec.ofNat 64 (32 * at_)) (32 * n) = (some bs, s2) → s2.ports = s.ports → bs.length = 32 * n →
      Answers (.seawayRowSend vd) s0 fun u => ∃ r : SwRow, (u.tx port ch).waiting = t.waiting ++ [r] ∧ (u.tx port ch).next = t.next + 1 ∧
        (u.tx port ch).credits = t.credits - 1 ∧ r.num = t.next ∧ r.chan = ch ∧ r.kind = d.toNat % 4 ∧ r.part = vd / 8 ∧
        r.pkg = d.toNat / 2 ^ 16 % 2 ^ 14 ∧ r.port = d.toNat / 2 ^ 32 % 8 ∧
        r.toks = pieces n bs ∧ r.last = (d.toNat / 2 ^ 128 % 2 ^ 32 ≤ at_ + n : Bool))

/-- 14 R325; 15 R346; 16 R370 to R375: hardware errors. What was lost is a free value, and no number is chosen for it. The model's choices:
which unit a sector's errors are counted for (log 37), and what a replay of a link holds up (log 43). -/
def Obligations.ErrorEventResults : Prop :=
  ∀ (s : State),
    let bad (t : State) (u : HwUnit) : Prop := unitCode (s.unitOf u) ∈ t.host.failing
    let healthy (u : HwUnit) : Prop := unitCode (s.unitOf u) ∉ s.host.failing
    let stops (t : State) (c : Nat) (detail : BitVec 8) : Prop := (s.cell c).stop.stopped = false → (t.cell c).stop.stopped = true ∧
      (t.cell c).stop.cause = 0x20 ∧ ∃ r ∈ t.records, r.body.extractLsb' 0 8 = 6#8 ∧ r.body.extractLsb' 64 8 = 0x20#8 ∧
        r.body.extractLsb' 72 8 = detail
    -- counted; at 4,096 the unit is failing
    (∀ u, let n := tblGet 0 s.host.errs (unitCode (s.unitOf u)) + 1
      (n < 4096 → Answers (.correctableError u) s fun t =>
        t.host = { s.host with errs := tblPut s.host.errs (unitCode (s.unitOf u)) n } ∧ t.cells = s.cells ∧ t.records = s.records) ∧
      (4096 ≤ n → healthy u → Answers (.correctableError u) s fun t => bad t u ∧ t.host.replace = true ∧ t.cells = s.cells)) ∧
    -- uncorrectable: a store slot or a cell's registers stop the cell, a sector is poisoned, the unit is failing
    (∀ c n, Answers (.uncorrectableError (.store c n)) s fun t => stops t c 1 ∧ bad t (.store c n) ∧ t.mem = s.mem ∧
      (∀ m, m ≠ n → (t.cell c).slot m = (s.cell c).slot m) ∧ (t.cell c).w = (s.cell c).w ∧
      ((t.cell c).slot n).tag = ((s.cell c).slot n).tag ∧ ((t.cell c).slot n).rdr = ((s.cell c).slot n).rdr) ∧
    (∀ c, Answers (.uncorrectableError (.regs c)) s fun t => stops t c 2 ∧ bad t (.regs c) ∧ t.mem = s.mem) ∧
    (∀ pa, Answers (.uncorrectableError (.sector pa)) s fun t => pa / 16 ∈ t.poison ∧ bad t (.sector pa) ∧ t.cells = s.cells ∧
      (∀ x ∈ s.poison, x ∈ t.poison)) ∧
    (∀ u, (∀ c n, u ≠ .store c n) → (∀ c, u ≠ .regs c) → (∀ a, u ≠ .sector a) → Answers (.uncorrectableError u) s fun t =>
      bad t u ∧ (healthy u → t.host.replace = true) ∧ t.cells = s.cells ∧ t.mem = s.mem) ∧
    -- the record of a failing unit, and a strip that fails with its pilot or its third row
    (∀ n p, s.partOf n = some p → unitCode (.strip n) ∉ s.host.failing → Answers (.uncorrectableError (.strip n)) s fun t =>
      Records s t [failRec p 1 1 (n * 1024) 1]) ∧
    (∀ n, unitCode (.strip n) ∉ s.host.failing → Answers (.uncorrectableError (.pilot n)) s fun t => unitCode (.strip n) ∈ t.host.failing) ∧
    (∀ n r, n < 512 → r < 128 → 2 ≤ s.badRows n → unitCode (.row n r) ∉ s.host.failing → Answers (.uncorrectableError (.row n r)) s fun t =>
      unitCode (.strip n) ∈ t.host.failing) ∧
    -- a beacon channel's error halts the running regions of its partition and clears the channel
    (∀ ch, s.bcnOwner ch = none → exec (.beaconUncorrectableError ch) s = .next s) ∧
    (∀ ch p, s.bcnOwner ch = some p → Sorted s.regions → Answers (.beaconUncorrectableError ch) s fun t =>
      (∀ r, (s.region r).st = .running → (s.region r).part = p → (t.region r).halt ≠ none) ∧ (t.beacon ch).arrivals = 0 ∧
      (t.beacon ch).gen = (s.beacon ch).gen ∧ (t.beacon ch).P = (s.beacon ch).P ∧
      (∀ c, s.partOf (cellStrip c) = some p → ch < 32 → (t.cell c).arrBits.getLsbD ch = false) ∧
      ∃ r ∈ t.records, r = failRec p 1 1 (0x3F * 1024) 1) ∧
    -- an isolation error is counted, for its unit too, what carried the other id is discarded, and the unit fails without a record
    (∀ u k, let n := unitCode (s.unitOf u)
      Answers (.isolationError (u, k)) s fun t => t.host.isoerr = s.host.isoerr + 1 ∧
        tblGet 0 t.host.isoUnits n = tblGet 0 s.host.isoUnits n + 1 ∧ bad t u ∧ t.records = s.records ∧ t.cells = s.cells ∧ t.mem = s.mem ∧
        t.pend = s.pend.filter (fun p => !(p.owner == k && (flightTo p.ev).isSome)) ∧
        ∀ p, p ∈ t.passes → p.id = k → p.isToken = false) ∧
    -- a replay of a link delays what is in flight by one clk, and what follows it to the same place
    (∀ k, (∀ p ∈ s.pend, p.owner = k → flightTo p.ev = none) → exec (.linkCrcReplay k) s = .next s) ∧
    (∀ k e, s.pend.find? (fun p => p.owner == k && (flightTo p.ev).isSome) = some e → Answers (.linkCrcReplay k) s fun t =>
      t.pend = s.pend.map fun p => { p with due := if flightTo p.ev = flightTo e.ev ∧ e.due ≤ p.due then p.due + 1 else p.due })

/-- 01 R33, R35, R36; 04 R104; 10 R252; 15 R332 to R349; 16 R371, R372; 17 R391: what the management controller does, and arbitration. A request that
it refuses changes nothing; a change of what a TDI fixes that is not unlocked is held, and that TDI is in ERROR, until it is unlocked. The
model's choices: what a reset keeps (log 38), a strip's move split over two events (log 39), which changes are held, and when they are made
(log 40), when a removal and a destruction end (log 41), that nothing is usable before the link is up (log 78), every register of a pilot
brought online (log 79), that a refused request changes nothing (log 84), what changes without a row of the opcode table (log 91), that a
request ends every low-power state (log 96), and places under a first strip that moves (log 97). -/
def Obligations.ManagementEventResults : Prop :=
  ∀ (s0 : State),
    let s : State := { s0 with host := { s0.host with power := [] } }
    let locked (p : Nat) : Prop := s.lockedVds p ≠ []
    let same (i : Instr) : Prop := exec i s0 = .next s
    let heldBack (o : Out) (c : Held) : Prop := Answers' o fun u => u.parts = s.parts ∧ u.quays = s.quays ∧ u.cells = s.cells ∧
      (∀ v ∈ c.locks s, (u.vd v).tdi = .error) ∧ u.host.held = s.host.held ++ [c]
    let blocked (i : Instr) (c : Held) : Prop := heldBack (exec i s0) c
    -- before DL_Active there is no management controller to ask
    (s.host.up = false → ∀ (i : Nat) (d : PartDesc) (o : OnlineDesc) (m : PlaceMaps) (v : VdDesc) (pc : DWord) (j : Nat) (k : BitVec 512) (w : BitVec 3),
      ∀ e ∈ [Instr.partitionForm i d, .partitionRemove i, .supervisorPilotNamed i j, .placeMapWrite i m, .stripRelease i, .stripOnline i o,
        .pilotOnline i pc w, .berthWaySet i j, .vdCreate i v, .vdDestroy i, .keySlotLoad i k], exec e s0 = .next s0) ∧
    -- a change that was held is made, unless it is refused by then, once no TDI fixes what it is of
    (∀ c, s0.host.held = [c] → (c.locks s0 = [] →
        let u := s0.modHost fun h => { h with held := [] }
        s0.heldGo = if c.ok u then c.make u else u) ∧
      (c.locks s0 ≠ [] → s0.heldGo.host.held = [c] ∧ s0.heldGo.parts = s0.parts ∧ s0.heldGo.quays = s0.quays)) ∧
    (s.host.up = true →
      -- partitions
      (∀ id d, (s.canForm id d = true → Answers (.partitionForm id d) s0 fun u => u.part id = { Machine.Part.none with
          first := d.first, count := d.count, colour := d.colour, mask := d.mask, channels := d.channels, ranges := d.ranges
          allot := d.allot, closed := d.closed, sup := d.sup } ∧ ∀ n, n ≠ id → u.part n = s.part n) ∧
        (16 ≤ id ∨ (tblGet? s.parts id).isSome ∨ d.count = 0 ∨ 48 < d.first + d.count ∨ 16 < d.ranges.length ∨
            (∃ r ∈ d.ranges, 2 ^ 36 ≤ r.1 ∨ 2 ^ 24 ≤ r.2 ∨ (r.2 ≠ 0 ∧ 768 * 2 ^ 30 < (r.1 + r.2) * 65536)) ∨
            (∃ i < d.count, (s.partOf (d.first + i)).isSome ∨ unitCode (.strip (d.first + i)) ∈ s.host.failing) ∨
            (∃ p ∈ s.parts, p.1 ≠ id ∧ (p.2.channels &&& d.channels ≠ 0 ∨
              ∃ x : BitVec 4, x &&& d.mask = d.colour &&& d.mask ∧ x &&& p.2.mask = p.2.colour &&& p.2.mask)) →
          same (.partitionForm id d))) ∧
      (∀ id, (tblGet? s.parts id = none → same (.partitionRemove id)) ∧
        ((tblGet? s.parts id).isSome → locked id → blocked (.partitionRemove id) (.remove id)) ∧
        ((tblGet? s.parts id).isSome → ¬locked id → Answers (.partitionRemove id) s0 fun u => (u.part id).leaving = true ∧
          ∀ v, v / 8 = id → (tblGet? s.vds v).isSome → (u.vd v).dying = true)) ∧
      (∀ p t, (s.partOf t = some p → Answers (.supervisorPilotNamed p t) s0 fun u => u.part p = { s.part p with sup := t }) ∧
        (s.partOf t ≠ some p → same (.supervisorPilotNamed p t))) ∧
      (∀ (p t : Nat) (mask : BitVec 98), (tblGet? s.parts p).isSome → (∀ r ∈ s.regions, r.2.part ≠ p ∨ r.2.st = .saved ∨ r.2.st = .free) →
        (s.part p).first ≤ t → t < (s.part p).first + (s.part p).count → ((List.range 98).countP fun i => mask.getLsbD i) = 96 →
        let m : PlaceMaps := ⟨(s.part p).first, [(t, mask)]⟩
        let sound : Prop := unitCode (.strip t) ∈ s.host.failing ∨ ∀ i < 98, mask.getLsbD i = true → unitCode (.row t i) ∉ s.host.failing
        (sound → locked p → blocked (.placeMapWrite p m) (.maps p m)) ∧
        (sound → ¬locked p → Answers (.placeMapWrite p m) s0 fun u => tblGet? (u.part p).rows t = some mask) ∧
        (¬sound → same (.placeMapWrite p m))) ∧
      (∀ p m, (∃ r ∈ s.regions, r.2.part = p ∧ r.2.st = .running) ∨ m.first ≠ (s.part p).first → same (.placeMapWrite p m)) ∧
      -- strips, pilots, berth ways
      (∀ t n, s.partOf t = some n → let p := s.part n
        let atEnd : Prop := t = p.first ∨ t + 1 = p.first + p.count
        (s.stripFree t = true → atEnd → t ∉ s.host.released → Answers (.stripRelease t) s0 fun u =>
          t ∈ u.host.released ∧ (∀ c, cellStrip c = t → u.cell c = Cell.reset) ∧ (∀ c, cellStrip c ≠ t → u.cell c = s.cell c) ∧
          (∀ q, q / 2 = t → u.quay q = { Quay.reset with bw := (s.quay q).bw }) ∧ u.parts = s.parts) ∧
        (s.stripFree t = false ∨ ¬atEnd ∨ t ∈ s.host.released → same (.stripRelease t)) ∧
        -- one that is released, and still at an end, can leave its partition
        (∀ d, d.part = none → t < 48 → d.bwN ≤ 8 → d.bwS ≤ 8 → s.stripFree t = true → atEnd → t ∈ s.host.released →
          (locked n → blocked (.stripOnline t d) (.strip t d)) ∧
          (¬locked n → Answers (.stripOnline t d) s0 fun u => (u.part n).count = p.count - 1 ∧
            (u.part n).first = (if t = p.first then t + 1 else p.first) ∧ t ∉ u.host.released)) ∧
        (∀ d, ¬atEnd ∨ t ∉ s.host.released → same (.stripOnline t d))) ∧
      (∀ t, s.partOf t = none → same (.stripRelease t)) ∧
      (∀ t n d, t < 48 → s.stripFree t = true → s.partOf t = none → d.part = some n → (tblGet? s.parts n).isSome →
        t + 1 = (s.part n).first ∨ t = (s.part n).first + (s.part n).count → d.bwN ≤ 8 → d.bwS ≤ 8 → s.host.fused = [] →
        let bad : Prop := unitCode (.strip t) ∈ s.host.failing
        (bad → same (.stripOnline t d)) ∧
        (¬bad → locked n → blocked (.stripOnline t d) (.strip t d)) ∧
        (¬bad → ¬locked n → Answers (.stripOnline t d) s0 fun u => (u.part n).count = (s.part n).count + 1 ∧
          (u.part n).first = min t (s.part n).first ∧ (u.quay (2 * t)).bw = d.bwN ∧ (u.quay (2 * t + 1)).bw = d.bwS ∧
          u.pilot t = { Pilot.reset with online := true, pc := d.pc, vdid := d.vdid.setWidth 8 } ∧ t ∉ u.host.released)) ∧
      (∀ t d, s.stripFree t = false ∨ 8 < d.bwN ∨ 8 < d.bwS → same (.stripOnline t d)) ∧
      (∀ t pc vdid, ((s.partOf t).isSome → (s.pilot t).online = false → t ∉ s.host.released → Answers (.pilotOnline t pc vdid) s0 fun u =>
          u.pilot t = { Pilot.reset with online := true, pc := pc, vdid := vdid.setWidth 8 } ∧ (u.pilot t).sup = true) ∧
        (s.partOf t = none ∨ (s.pilot t).online = true ∨ t ∈ s.host.released → same (.pilotOnline t pc vdid))) ∧
      (∀ q n p, s.partOf (q / 2) = some p →
        (n ≤ 8 → (s.quay q).areas = [] → locked p → blocked (.berthWaySet q n) (.ways q n)) ∧
        (n ≤ 8 → (s.quay q).areas = [] → ¬locked p → Answers (.berthWaySet q n) s0 fun u => (u.quay q).slots = [] ∧
          (q ∉ s.host.fused → (u.quay q).bw = n) ∧ (q ∈ s.host.fused → (u.quay q).bw = 0)) ∧
        (8 < n ∨ (s.quay q).areas ≠ [] → same (.berthWaySet q n))) ∧
      -- virtual devices and keys
      (∀ (n : Nat) (d : VdDesc), let area : Prop := d.saveSize = 0 ∨ s.inRanges (n / 8) d.saveBase.toNat = true
        ((tblGet? s.parts (n / 8)).isSome → tblGet? s.vds n = none → area →
          d.vf = none ∨ (∃ f < 16, d.vf = some f ∧ s.host.bootFailed = false ∧ s.vfVd f = none) →
          Answers (.vdCreate n d) s0 fun u => (u.vd n).keys = d.keys &&& ~~~1#64 ∧ (u.vd n).root = d.root ∧ (u.vd n).quota = d.quota ∧
            (u.vd n).ways = d.ways ∧ (u.vd n).vf = d.vf ∧ (u.vd n).tdi = .unlocked ∧ (u.vd n).saveBase = d.saveBase ∧
            (u.vd n).saveSize = d.saveSize ∧ ∀ c : Fin 5, (u.vd n).sl[c] = ⟨0, Config.classX c.val, true, true⟩) ∧
        (tblGet? s.parts (n / 8) = none ∨ (tblGet? s.vds n).isSome ∨ ¬area ∨ (d.vf.isSome ∧ s.host.bootFailed = true) →
          same (.vdCreate n d))) ∧
      (∀ n, ((tblGet? s.vds n).isSome → Answers (.vdDestroy n) s0 fun u => u.vd n = { s.vd n with dying := true }) ∧
        (tblGet? s.vds n = none → same (.vdDestroy n))) ∧
      (∀ (k : Nat) (key : BitVec 512), (k < 64 → Answers (.keySlotLoad k key) s0 fun u => u.keyVal (BitVec.ofNat 6 k) = key ∧
          (∀ j : BitVec 6, j.toNat ≠ k → u.keyVal j = s.keyVal j) ∧ (∀ x ∈ u.llc, ∀ l ∈ x.2, l.key.toNat ≠ k) ∧ u.mem = s.mem) ∧
        (64 ≤ k → same (.keySlotLoad k key))) ∧
      -- what it changes without a row of the opcode table: a partition's items, and the key ids of a virtual device
      (∀ n d, (tblGet? s.parts n).isSome → s.itemsOk n d = true →
        (locked n → heldBack (s0.turn (.act (.items n d))) (.items n d)) ∧
        (¬locked n → Answers' (s0.turn (.act (.items n d))) fun u => u.part n = { s.part n with
          colour := d.colour, mask := d.mask, channels := d.channels, ranges := d.ranges, allot := d.allot, closed := d.closed })) ∧
      (∀ v m, (tblGet? s.vds v).isSome →
        let fixed : Prop := (s.vd v).vf.isSome ∧ (s.vd v).tdi ≠ .unlocked
        (fixed → heldBack (s0.turn (.act (.keyMask v m))) (.keys v m)) ∧
        (¬fixed → Answers' (s0.turn (.act (.keyMask v m))) fun u => u.vd v = { s.vd v with keys := m &&& ~~~1#64 }))) ∧
    -- the ends of a removal and of a destruction
    (∀ id, Sorted s0.parts → (s0.part id).leaving = true → (∀ v, (tblGet? s0.vds v).isSome → v / 8 ≠ id) → Sorted s0.vds →
      tblGet? (s0.partEnd id).parts id = none ∧
      ∀ t, (s0.part id).first ≤ t → t < (s0.part id).first + (s0.part id).count → ((s0.partEnd id).pilot t).online = false ∧
        ∀ c, cellStrip c = t → (s0.partEnd id).cell c = Cell.reset) ∧
    (∀ n, Sorted s0.vds → (s0.vd n).dying = true → (∀ r ∈ s0.regions, 8 * r.2.part + r.2.vd ≠ n) → tblGet? (s0.vdEnd n).vds n = none ∧
      ∀ k : BitVec 6, k ≠ 0 → (s0.vd n).keys.getLsbD k.toNat = true → (s0.vdEnd n).keyVal k = 0) ∧
    -- what a partition's supervisor writes of a virtual device
    (∀ v, (tblGet? s0.vds v).isSome → let d := s0.vd v
      (∀ (base : DWord) (size : Word), size = 0 ∨ s0.inRanges (v / 8) base.toNat = true → Answers' (s0.turn (.act (.saveArea v base size))) fun u =>
        u.vd v = { d with saveBase := base, saveSize := size }) ∧
      (∀ n, Answers' (s0.turn (.act (.basinQuota v n))) fun u => u.vd v = { d with quota := n }) ∧
      (∀ n, Answers' (s0.turn (.act (.wayQuota v n))) fun u => u.vd v = { d with ways := n }) ∧
      (∀ r, Answers' (s0.turn (.act (.root v r))) fun u => u.vd v = { d with root := r })) ∧
    -- flags, firmware, reset
    (∀ c mask, Answers (.stickyFlagClear c mask) s0 fun u => u.cell c = { s.cell c with flags := (s.cell c).flags &&& ~~~mask } ∧
      ∀ d, d ≠ c → u.cell d = s.cell d) ∧
    (∀ die img, (s.host.link = true → die < 9 → Answers (.firmwareImageStaging die img) s0 fun u => tblGet? u.host.staged die = some img ∧
        u.host.running = s.host.running) ∧
      (s.host.link = true → 9 ≤ die → same (.firmwareImageStaging die img)) ∧
      (s.host.link = false → exec (.firmwareImageStaging die img) s0 = .next s0)) ∧
    (Sorted s.host.staged → Answers .moduleReset s0 fun u => u.mem = [] ∧ u.cells = [] ∧ u.quays = [] ∧ u.pilots = [] ∧ u.parts = [] ∧
      u.vds = [] ∧ u.regions = [] ∧ u.keySlots = [] ∧ u.reqs = [] ∧ u.pend = [] ∧ u.passes = [] ∧ u.clk = 0 ∧ u.host.link = false ∧
      u.host.replace = false ∧ u.host.minVer = s.host.minVer ∧ (∀ q, 0x30000 + q ∈ s.host.failing → q < 0x10000 → q ∈ u.host.fused) ∧
      (∀ q ∈ s.host.fused, q ∈ u.host.fused) ∧ ∀ die img, tblGet? s.host.staged die = some img → tblGet? u.host.running die = some img) ∧
    -- arbitration: the refill of every bucket, and the grant of one request that a bucket covers
    (∀ cls inst : Nat, cls < 5 → Sorted s.vds → let a := s.arb cls inst
      a.queue = [] → Answers (.arbitration cls inst) s0 fun u => (u.arb cls inst).queue = [] ∧ u.reqs = s.reqs ∧ u.mem = s.mem ∧
        ∀ v, (tblGet? s.vds v).isSome → let x := (s.vd v).sl[Fin.ofNat 5 cls]
          u.level cls (u.arb cls inst) v = if s.level cls a v < 1024 * x.depth then min (s.level cls a v + x.rate) (1024 * x.depth)
            else 1024 * x.depth) ∧
    (∀ (p : Nat) (q : ArbReq) (r : SwRow) (rest : List SwRow), Sorted s.vds → let a := s.arb 4 p
      let x := (s.vd q.vd).sl[(4 : Fin 5)]
      a.queue = [q] → a.busy ≤ Config.classCap 4 → (tblGet? s.vds q.vd).isSome → 0 < s.level 4 a q.vd →
      s.level 4 a q.vd ≤ 1024 * x.depth → (s.tx p q.req).waiting = r :: rest →
      ((s.port p).trained = true → Answers (.arbitration 4 p) s0 fun u =>
        (u.arb 4 p).queue = [] ∧ (u.tx p q.req).waiting = rest ∧ (u.tx p q.req).kept = (s.tx p q.req).kept ++ [r] ∧
        (u.port p).wire = (s.port p).wire ++ [rowSealed r p (s.tx p r.chan).key] ∧
        u.level 4 (u.arb 4 p) q.vd = min (s.level 4 a q.vd + x.rate) (1024 * x.depth) - 1024 * q.units) ∧
      ((s.port p).trained = false → Answers (.arbitration 4 p) s0 fun u => (u.arb 4 p).queue = [q] ∧ u.ports = s.ports))

/-! The machine as a whole. -/

/-- 03 R62 to R85: words of each family, written out from the encoding tables, decode to the instructions they stand for. -/
def Obligations.DecodeWords : Prop :=
  decodeTableWord 32 0x1244831B = some (.add .i32 ⟨.inp 0, .k 2, .w 1, .nul, true, false, .next⟩) ∧
  decodeTableWord 32 0x0242583C = some (.sel ⟨.inp 0, .inp 1, .out 0, 3, true, true, .ofA⟩) ∧
  decodeTableWord 32 0xA000D200 = some (.berth ⟨1, 3⟩) ∧
  decodeTableWord 32 0xC0441918 = some (.qld ⟨.inp 0, .k 0, .out 0, .nul, true, false, .ofA⟩) ∧
  decodeTableWord 32 0xBC002310 = some .mxclr ∧
  decodeTableWord 32 0xEA105000 = some (.ld ⟨2, 1, .h, 0⟩) ∧
  decodeTableWord 32 0xED310E19 = some (.amo ⟨6, 4, 7, false, false, true, .cas⟩) ∧
  decodeTableWord 32 0xF9298001 = some (.fabRstart ⟨5, 6⟩) ∧
  decodeTableWord 32 0xFF000000 = none ∧ decodeTableWord 32 0x0F000000 = none

/-- 03 R61 to R87: encoding and decoding are inverse, in both directions, on every instruction that has a word: no bit of a word is dropped and no
word stands for two instructions. The words of the rows CHCLOSE and CAST with their selecting bit set are those of the rows without it; every event
has no word. -/
def Obligations.DecodeEncodeRoundTrip : Prop :=
  (∀ (i : Instr) (w : Word), i.fieldsOk = true → encode i = some w →
    (∀ o, i ≠ .chnChcloseFree o) → (∀ o, i ≠ .bcnCastConfigure o) → decode w = .ok i) ∧
  (∀ (w : Word) (i : Instr), decode w = .ok i → encode i = some w ∧ i.fieldsOk = true) ∧
  (∀ o w, encode (.chnChcloseFree o) = some w → decode w = .ok (.chnChclose o)) ∧
  (∀ o w, encode (.bcnCastConfigure o) = some w → decode w = .ok (.bcnCast o)) ∧
  (∀ i, isEvent i = true → encode i = none)

/-- 03 R61, R86, R87; 05 R396; 09 R224, R226: a step runs what stands first on the agenda: the decoded instruction of a slot whose turn it is, the
word that a pilot fetches or waits in, an event, or an act from outside; with an empty agenda it makes the next phase. The agenda, its phases and
what stands on it are the model's form (logs 1, 3 and 91), and so are the fault of a word that no load accepts (log 82) and that a pilot goes on
past a load where a free choice says so (log 59). -/
def Obligations.StepRunsTheDecodedInstruction : Prop :=
  ∀ (s : State) (rest : List Turn),
    let s0 : State := { s with agenda := rest }
    (s.agenda = [] → step s = .next s.nextPhase) ∧
    (∀ i, s.agenda = .event i :: rest → step s = exec i s0) ∧
    (∀ a, s.agenda = .act a :: rest → step s = s0.act a) ∧
    (∀ c n, s.agenda = .slot c n :: rest →
      let w := (s.cell c).ctx.inst[n]
      (s.frozen c = true → step s = .next s0) ∧
      (∀ i, s.frozen c = false → decodeCell w.toNat = .ok i → step s = exec i { s0 with curCell := c, curSlot := n, fired := false }) ∧
      (∀ e, s.frozen c = false → decodeCell w.toNat = .error e → step s = .fault (.undecodableSlot w))) ∧
    (∀ p, s.agenda = .pilot p :: rest →
      -- first the loads that the pilot has gone on past and that have come
      let s1 : State := ({ s0 with curPilot := p } : State).retire p
      let m := s1.pilot p
      -- an instruction, unless it waits for others of those loads
      let runs (t : State) (w : Word) : Prop :=
        (∀ i, decodePilot w.toNat = .ok i → ((t.pilot p).waitsLate i = false → step s = exec i t) ∧
          ((t.pilot p).waitsLate i = true → step s = .next (t.modPilot p fun q => { q with wait := .late }))) ∧
        (∀ e, decodePilot w.toNat = .error e → step s = exec (.illegalInstruction p w) t)
      let begins (t : State) (w : Word) : Prop := runs (t.modPilot p fun q => { q with held := w, wait := .no }) w
      let interrupted : Prop := m.evTaken = true ∧ s1.canInterrupt p = true
      (m.online = false → step s = .next s1) ∧
      (m.online = true → interrupted → step s = exec (.eventInterrupt p) s1) ∧
      (m.online = true → ¬interrupted →
        (m.wait = .no ∨ m.wait = .fetch →
          (∀ w s2, s1.fetch p = (.word w, s2) → begins s2 w) ∧ (∀ s2, s1.fetch p = (.wait, s2) → step s = .next s2) ∧
          (∀ s2, s1.fetch p = (.fault, s2) → Answers' (step s) fun t => (t.pilot p).cause = 2 ∧ (t.pilot p).pc = (s2.pilot p).tvec ∧
            (t.pilot p).epc = (s2.pilot p).pc &&& ~~~3#64 ∧ (t.pilot p).tval = (s2.pilot p).pc)) ∧
        (m.wait = .fetching → step s = .next s1) ∧
        (∀ w, m.wait = .fetched w → begins s1 w) ∧
        (m.wait = .late → runs (s1.modPilot p fun q => { q with wait := .no }) m.held) ∧
        -- in a load whose access is under way the pilot waits, or goes on past it
        (m.wait = .mem →
          let t : State := { s1 with fresh := s1.fresh + 1 }
          (∀ o, decodePilot m.held.toNat = .ok (.ld o) ∨ decodePilot m.held.toNat = .ok (.ldx o) → step s = .next (t.runOn p o) ∨ runs t m.held) ∧
          ((∀ o, decodePilot m.held.toNat ≠ .ok (.ld o) ∧ decodePilot m.held.toNat ≠ .ok (.ldx o)) → runs s1 m.held)) ∧
        (m.wait ≠ .no → m.wait ≠ .fetch → m.wait ≠ .fetching → m.wait ≠ .late → m.wait ≠ .mem → (∀ w, m.wait ≠ .fetched w) →
          runs s1 m.held)))

/-- 05 R116, R117, R396: which slots of a cell are chosen in a clk, judged at the state at its start. The model's choices: which instructions read
predicates (log 89), and that a second slot is tested again at its turn (log 100). -/
def Obligations.ChosenSlots : Prop :=
  ∀ (s : State) (c : Nat),
    let k := s.cell c
    let el := k.guarded.filter (s.eligible c)
    let top := s.topRow c
    let allowed (x y : Fin 16 × Instr) : Prop :=
      let i := if x.1.val < y.1.val then x.1 else y.1
      let j := if x.1.val < y.1.val then y.1 else x.1
      let ti := k.ctx.trig[i]
      let wi := k.ctx.inst[i]
      let tj := k.ctx.trig[j]
      let wj := k.ctx.inst[j]
      (k.ctx.conf[x.1]).getLsbD y.1.val = false ∧ (∀ p ∈ slotOuts wi, p ∉ slotOuts wj) ∧
        (∀ p ∈ slotPops top ti wi, p ∉ slotUses top tj wj) ∧ (∀ p ∈ slotPops top tj wj, p ∉ slotUses top ti wi) ∧
        ¬(writesPr wi = true ∧ readsPr tj wj = true) ∧ ¬(ti.getLsbD 4 = true ∧ tj.getLsbD 4 = true) ∧
        ¬(ti.getLsbD 3 = true ∧ tj.getLsbD 3 = true) ∧ ¬(singleIssue (wi.toNat / 2 ^ 24) = true ∧ singleIssue (wj.toNat / 2 ^ 24) = true)
    let fair := k.ctx.ctl.getLsbD 0
    (∀ n < 16, k.order[n]? = some (Fin.ofNat 16 (if fair then k.ctx.fptr.toNat + n else n))) ∧ k.order.length = 16 ∧
    (el = [] → s.chosen c = []) ∧
    (∀ x rest, el = x :: rest → (s.chosen c).head? = some x) ∧
    (∀ x, s.chosen c = [x] → ∃ rest, el = x :: rest ∧ ∀ y ∈ rest, ¬allowed x y) ∧
    (∀ x y l, s.chosen c = x :: y :: l → l = [] ∧ ∃ l1 l2, el = x :: l1 ++ y :: l2 ∧ allowed x y ∧ ∀ z ∈ l1, ¬allowed x z) ∧
    -- the turns, in slot order; only fptr and the snapshot change before them
    (s.mayFire c = false ∨ s.chosen c = [] → s.choose c = (s, [])) ∧
    (s.mayFire c = true → ∀ x, s.chosen c = [x] → (s.choose c).2 = [.slot c x.1]) ∧
    (s.mayFire c = true → ∀ x y, s.chosen c = [x, y] → (s.choose c).2 = if x.1.val < y.1.val then [.slot c x.1, .slot c y.1]
      else [.slot c y.1, .slot c x.1]) ∧
    (s.mayFire c = true → ∀ x, s.chosen c = [x] → s.firesNow c x = true →
      ((s.choose c).1.cell c).ctx.fptr = if fair then BitVec.ofNat 4 (x.1.val + 1) else k.ctx.fptr) ∧
    (fair = false → ((s.choose c).1.cell c).ctx.fptr = k.ctx.fptr) ∧
    (∀ d, d ≠ c → (s.choose c).1.cell d = s.cell d) ∧ (s.choose c).1.mem = s.mem ∧
    ((s.choose c).1.cell c).w = k.w ∧ ((s.choose c).1.cell c).store = k.store

/-- 01 R21, R22, R29; 09 R221; 16 R372; 17 R376: what reset leaves. That memory lists nothing is the model's form, what an unlisted byte
reads as its choice (log 4), and so are the zeros of the key slots (log 6) and the agenda (log 3). -/
def Obligations.ResetState : Prop :=
  MemOk State.reset ∧ (∀ a, memRead State.reset.mem a = memDefault) ∧ State.reset.agenda = [] ∧ State.reset.pend = [] ∧
  (∀ c, (State.reset.cell c).region = none ∧ (State.reset.cell c).stop = ⟨false, 0, 0⟩ ∧ (State.reset.cell c).flags = 0 ∧
    (State.reset.cell c).swPend = false ∧ ∀ x n : Fin 4, (State.reset.cell c).ctxs[x].hands[n].v = false ∧
      (State.reset.cell c).ctxs[x].rings[n].held = 0) ∧
  (∀ p, (State.reset.pilot p).online = false ∧ (State.reset.pilot p).status = 1 ∧ ∀ i, (State.reset.pilot p).reg i = 0) ∧
  (∀ r, (State.reset.region r).st = .free) ∧ (∀ t, State.reset.partOf t = none) ∧ (∀ c, (State.reset.chan c).opened = false) ∧
  (∀ c, (State.reset.beacon c).gen = 0 ∧ (State.reset.beacon c).arrivals = 0) ∧ (∀ k, State.reset.keyVal k = 0) ∧
  State.reset.host.link = false ∧ State.reset.host.powered = false ∧ step State.reset = .next State.reset.phase0

/-- The canonical form of memory is an invariant: every step of every state that has it keeps it. -/
def Obligations.StepKeepsMemoryCanonical : Prop :=
  ∀ (s t : State), MemOk s → step s = .next t → MemOk t

/-- 12 R290, R291; 15 R347: a store under a key is read back under it, byte by byte; it changes no other byte read under that key, no byte of another
sector under any key, and nothing but memory. -/
def Obligations.MemoryReadsWhatWasWritten : Prop :=
  ∀ (s : State) (k : BitVec 6) (a : Nat) (bs : List Byte), MemOk s →
    let t := s.store k a bs
    MemOk t ∧ t.bytesAt k a bs.length = bs ∧
    (∀ b, b < a ∨ a + bs.length ≤ b → t.byteAt k b = s.byteAt k b) ∧
    (∀ j b, (∀ i < bs.length, (a + i) / 16 ≠ b / 16) → t.byteAt j b = s.byteAt j b) ∧
    { t with mem := s.mem, memKey := s.memKey, poison := s.poison } = s

/-- 09 R221, R222, R225: no instruction that a pilot executes in user mode changes a supervisor register or the mode but by taking a trap: then the
pilot is at the trap vector with its status saved. -/
def Obligations.UserModeKeepsSupervisorState : Prop :=
  ∀ (w : Nat) (i : Instr) (s t : State), decodePilot w = .ok i → s.me.sup = false → exec i s = .next t →
    let m := s.me
    let n := t.pilot s.curPilot
    n.tvec = m.tvec ∧ n.scratch = m.scratch ∧ n.evqbase = m.evqbase ∧ n.evqhead = m.evqhead ∧ n.evqtail = m.evqtail ∧ n.vdid = m.vdid ∧
    (n.status = m.status ∧ n.epc = m.epc ∧ n.cause = m.cause ∧ n.tval = m.tval ∨
      n.status = trapStatus m.status ∧ n.pc = m.tvec ∧ n.epc = m.pc &&& ~~~3#64)
end

