-- ==== Sys2Proof/Laws/State.lean ====
section
/-! SUPPORT. One lemma per field per update of the state, of a cell and of a pilot. -/

namespace Sys2Proof.Machine

@[simp] theorem State.setCell_clk (s : State) (n : Nat) (v : Cell) : (s.setCell n v).clk = s.clk := rfl
@[simp] theorem State.setCell_phase (s : State) (n : Nat) (v : Cell) : (s.setCell n v).phase = s.phase := rfl
@[simp] theorem State.setCell_agenda (s : State) (n : Nat) (v : Cell) : (s.setCell n v).agenda = s.agenda := rfl
@[simp] theorem State.setCell_inputs (s : State) (n : Nat) (v : Cell) : (s.setCell n v).inputs = s.inputs := rfl
@[simp] theorem State.setCell_acts (s : State) (n : Nat) (v : Cell) : (s.setCell n v).acts = s.acts := rfl
@[simp] theorem State.setCell_pend (s : State) (n : Nat) (v : Cell) : (s.setCell n v).pend = s.pend := rfl
@[simp] theorem State.setCell_seqNo (s : State) (n : Nat) (v : Cell) : (s.setCell n v).seqNo = s.seqNo := rfl
@[simp] theorem State.setCell_fresh (s : State) (n : Nat) (v : Cell) : (s.setCell n v).fresh = s.fresh := rfl
@[simp] theorem State.setCell_curCell (s : State) (n : Nat) (v : Cell) : (s.setCell n v).curCell = s.curCell := rfl
@[simp] theorem State.setCell_curSlot (s : State) (n : Nat) (v : Cell) : (s.setCell n v).curSlot = s.curSlot := rfl
@[simp] theorem State.setCell_curPilot (s : State) (n : Nat) (v : Cell) : (s.setCell n v).curPilot = s.curPilot := rfl
@[simp] theorem State.setCell_fired (s : State) (n : Nat) (v : Cell) : (s.setCell n v).fired = s.fired := rfl
@[simp] theorem State.setCell_mem (s : State) (n : Nat) (v : Cell) : (s.setCell n v).mem = s.mem := rfl
@[simp] theorem State.setCell_memKey (s : State) (n : Nat) (v : Cell) : (s.setCell n v).memKey = s.memKey := rfl
@[simp] theorem State.setCell_poison (s : State) (n : Nat) (v : Cell) : (s.setCell n v).poison = s.poison := rfl
@[simp] theorem State.setCell_llc (s : State) (n : Nat) (v : Cell) : (s.setCell n v).llc = s.llc := rfl
@[simp] theorem State.setCell_keySlots (s : State) (n : Nat) (v : Cell) : (s.setCell n v).keySlots = s.keySlots := rfl
@[simp] theorem State.setCell_quays (s : State) (n : Nat) (v : Cell) : (s.setCell n v).quays = s.quays := rfl
@[simp] theorem State.setCell_pilots (s : State) (n : Nat) (v : Cell) : (s.setCell n v).pilots = s.pilots := rfl
@[simp] theorem State.setCell_beacons (s : State) (n : Nat) (v : Cell) : (s.setCell n v).beacons = s.beacons := rfl
@[simp] theorem State.setCell_parts (s : State) (n : Nat) (v : Cell) : (s.setCell n v).parts = s.parts := rfl
@[simp] theorem State.setCell_vds (s : State) (n : Nat) (v : Cell) : (s.setCell n v).vds = s.vds := rfl
@[simp] theorem State.setCell_regions (s : State) (n : Nat) (v : Cell) : (s.setCell n v).regions = s.regions := rfl
@[simp] theorem State.setCell_saves (s : State) (n : Nat) (v : Cell) : (s.setCell n v).saves = s.saves := rfl
@[simp] theorem State.setCell_reqs (s : State) (n : Nat) (v : Cell) : (s.setCell n v).reqs = s.reqs := rfl
@[simp] theorem State.setCell_passes (s : State) (n : Nat) (v : Cell) : (s.setCell n v).passes = s.passes := rfl
@[simp] theorem State.setCell_cleared (s : State) (n : Nat) (v : Cell) : (s.setCell n v).cleared = s.cleared := rfl
@[simp] theorem State.setCell_paid (s : State) (n : Nat) (v : Cell) : (s.setCell n v).paid = s.paid := rfl
@[simp] theorem State.setCell_records (s : State) (n : Nat) (v : Cell) : (s.setCell n v).records = s.records := rfl
@[simp] theorem State.setCell_arbs (s : State) (n : Nat) (v : Cell) : (s.setCell n v).arbs = s.arbs := rfl
@[simp] theorem State.setCell_ports (s : State) (n : Nat) (v : Cell) : (s.setCell n v).ports = s.ports := rfl
@[simp] theorem State.setCell_host (s : State) (n : Nat) (v : Cell) : (s.setCell n v).host = s.host := rfl
@[simp] theorem State.modCell_clk (s : State) (n : Nat) (f : Cell → Cell) : (s.modCell n f).clk = s.clk := rfl
@[simp] theorem State.modCell_phase (s : State) (n : Nat) (f : Cell → Cell) : (s.modCell n f).phase = s.phase := rfl
@[simp] theorem State.modCell_agenda (s : State) (n : Nat) (f : Cell → Cell) : (s.modCell n f).agenda = s.agenda := rfl
@[simp] theorem State.modCell_inputs (s : State) (n : Nat) (f : Cell → Cell) : (s.modCell n f).inputs = s.inputs := rfl
@[simp] theorem State.modCell_acts (s : State) (n : Nat) (f : Cell → Cell) : (s.modCell n f).acts = s.acts := rfl
@[simp] theorem State.modCell_pend (s : State) (n : Nat) (f : Cell → Cell) : (s.modCell n f).pend = s.pend := rfl
@[simp] theorem State.modCell_seqNo (s : State) (n : Nat) (f : Cell → Cell) : (s.modCell n f).seqNo = s.seqNo := rfl
@[simp] theorem State.modCell_fresh (s : State) (n : Nat) (f : Cell → Cell) : (s.modCell n f).fresh = s.fresh := rfl
@[simp] theorem State.modCell_curCell (s : State) (n : Nat) (f : Cell → Cell) : (s.modCell n f).curCell = s.curCell := rfl
@[simp] theorem State.modCell_curSlot (s : State) (n : Nat) (f : Cell → Cell) : (s.modCell n f).curSlot = s.curSlot := rfl
@[simp] theorem State.modCell_curPilot (s : State) (n : Nat) (f : Cell → Cell) : (s.modCell n f).curPilot = s.curPilot := rfl
@[simp] theorem State.modCell_fired (s : State) (n : Nat) (f : Cell → Cell) : (s.modCell n f).fired = s.fired := rfl
@[simp] theorem State.modCell_mem (s : State) (n : Nat) (f : Cell → Cell) : (s.modCell n f).mem = s.mem := rfl
@[simp] theorem State.modCell_memKey (s : State) (n : Nat) (f : Cell → Cell) : (s.modCell n f).memKey = s.memKey := rfl
@[simp] theorem State.modCell_poison (s : State) (n : Nat) (f : Cell → Cell) : (s.modCell n f).poison = s.poison := rfl
@[simp] theorem State.modCell_llc (s : State) (n : Nat) (f : Cell → Cell) : (s.modCell n f).llc = s.llc := rfl
@[simp] theorem State.modCell_keySlots (s : State) (n : Nat) (f : Cell → Cell) : (s.modCell n f).keySlots = s.keySlots := rfl
@[simp] theorem State.modCell_quays (s : State) (n : Nat) (f : Cell → Cell) : (s.modCell n f).quays = s.quays := rfl
@[simp] theorem State.modCell_pilots (s : State) (n : Nat) (f : Cell → Cell) : (s.modCell n f).pilots = s.pilots := rfl
@[simp] theorem State.modCell_beacons (s : State) (n : Nat) (f : Cell → Cell) : (s.modCell n f).beacons = s.beacons := rfl
@[simp] theorem State.modCell_parts (s : State) (n : Nat) (f : Cell → Cell) : (s.modCell n f).parts = s.parts := rfl
@[simp] theorem State.modCell_vds (s : State) (n : Nat) (f : Cell → Cell) : (s.modCell n f).vds = s.vds := rfl
@[simp] theorem State.modCell_regions (s : State) (n : Nat) (f : Cell → Cell) : (s.modCell n f).regions = s.regions := rfl
@[simp] theorem State.modCell_saves (s : State) (n : Nat) (f : Cell → Cell) : (s.modCell n f).saves = s.saves := rfl
@[simp] theorem State.modCell_reqs (s : State) (n : Nat) (f : Cell → Cell) : (s.modCell n f).reqs = s.reqs := rfl
@[simp] theorem State.modCell_passes (s : State) (n : Nat) (f : Cell → Cell) : (s.modCell n f).passes = s.passes := rfl
@[simp] theorem State.modCell_cleared (s : State) (n : Nat) (f : Cell → Cell) : (s.modCell n f).cleared = s.cleared := rfl
@[simp] theorem State.modCell_paid (s : State) (n : Nat) (f : Cell → Cell) : (s.modCell n f).paid = s.paid := rfl
@[simp] theorem State.modCell_records (s : State) (n : Nat) (f : Cell → Cell) : (s.modCell n f).records = s.records := rfl
@[simp] theorem State.modCell_arbs (s : State) (n : Nat) (f : Cell → Cell) : (s.modCell n f).arbs = s.arbs := rfl
@[simp] theorem State.modCell_ports (s : State) (n : Nat) (f : Cell → Cell) : (s.modCell n f).ports = s.ports := rfl
@[simp] theorem State.modCell_host (s : State) (n : Nat) (f : Cell → Cell) : (s.modCell n f).host = s.host := rfl
@[simp] theorem State.setQuay_clk (s : State) (n : Nat) (v : Quay) : (s.setQuay n v).clk = s.clk := rfl
@[simp] theorem State.setQuay_phase (s : State) (n : Nat) (v : Quay) : (s.setQuay n v).phase = s.phase := rfl
@[simp] theorem State.setQuay_agenda (s : State) (n : Nat) (v : Quay) : (s.setQuay n v).agenda = s.agenda := rfl
@[simp] theorem State.setQuay_inputs (s : State) (n : Nat) (v : Quay) : (s.setQuay n v).inputs = s.inputs := rfl
@[simp] theorem State.setQuay_acts (s : State) (n : Nat) (v : Quay) : (s.setQuay n v).acts = s.acts := rfl
@[simp] theorem State.setQuay_pend (s : State) (n : Nat) (v : Quay) : (s.setQuay n v).pend = s.pend := rfl
@[simp] theorem State.setQuay_seqNo (s : State) (n : Nat) (v : Quay) : (s.setQuay n v).seqNo = s.seqNo := rfl
@[simp] theorem State.setQuay_fresh (s : State) (n : Nat) (v : Quay) : (s.setQuay n v).fresh = s.fresh := rfl
@[simp] theorem State.setQuay_curCell (s : State) (n : Nat) (v : Quay) : (s.setQuay n v).curCell = s.curCell := rfl
@[simp] theorem State.setQuay_curSlot (s : State) (n : Nat) (v : Quay) : (s.setQuay n v).curSlot = s.curSlot := rfl
@[simp] theorem State.setQuay_curPilot (s : State) (n : Nat) (v : Quay) : (s.setQuay n v).curPilot = s.curPilot := rfl
@[simp] theorem State.setQuay_fired (s : State) (n : Nat) (v : Quay) : (s.setQuay n v).fired = s.fired := rfl
@[simp] theorem State.setQuay_mem (s : State) (n : Nat) (v : Quay) : (s.setQuay n v).mem = s.mem := rfl
@[simp] theorem State.setQuay_memKey (s : State) (n : Nat) (v : Quay) : (s.setQuay n v).memKey = s.memKey := rfl
@[simp] theorem State.setQuay_poison (s : State) (n : Nat) (v : Quay) : (s.setQuay n v).poison = s.poison := rfl
@[simp] theorem State.setQuay_llc (s : State) (n : Nat) (v : Quay) : (s.setQuay n v).llc = s.llc := rfl
@[simp] theorem State.setQuay_keySlots (s : State) (n : Nat) (v : Quay) : (s.setQuay n v).keySlots = s.keySlots := rfl
@[simp] theorem State.setQuay_cells (s : State) (n : Nat) (v : Quay) : (s.setQuay n v).cells = s.cells := rfl
@[simp] theorem State.setQuay_pilots (s : State) (n : Nat) (v : Quay) : (s.setQuay n v).pilots = s.pilots := rfl
@[simp] theorem State.setQuay_beacons (s : State) (n : Nat) (v : Quay) : (s.setQuay n v).beacons = s.beacons := rfl
@[simp] theorem State.setQuay_parts (s : State) (n : Nat) (v : Quay) : (s.setQuay n v).parts = s.parts := rfl
@[simp] theorem State.setQuay_vds (s : State) (n : Nat) (v : Quay) : (s.setQuay n v).vds = s.vds := rfl
@[simp] theorem State.setQuay_regions (s : State) (n : Nat) (v : Quay) : (s.setQuay n v).regions = s.regions := rfl
@[simp] theorem State.setQuay_saves (s : State) (n : Nat) (v : Quay) : (s.setQuay n v).saves = s.saves := rfl
@[simp] theorem State.setQuay_reqs (s : State) (n : Nat) (v : Quay) : (s.setQuay n v).reqs = s.reqs := rfl
@[simp] theorem State.setQuay_passes (s : State) (n : Nat) (v : Quay) : (s.setQuay n v).passes = s.passes := rfl
@[simp] theorem State.setQuay_cleared (s : State) (n : Nat) (v : Quay) : (s.setQuay n v).cleared = s.cleared := rfl
@[simp] theorem State.setQuay_paid (s : State) (n : Nat) (v : Quay) : (s.setQuay n v).paid = s.paid := rfl
@[simp] theorem State.setQuay_records (s : State) (n : Nat) (v : Quay) : (s.setQuay n v).records = s.records := rfl
@[simp] theorem State.setQuay_arbs (s : State) (n : Nat) (v : Quay) : (s.setQuay n v).arbs = s.arbs := rfl
@[simp] theorem State.setQuay_ports (s : State) (n : Nat) (v : Quay) : (s.setQuay n v).ports = s.ports := rfl
@[simp] theorem State.setQuay_host (s : State) (n : Nat) (v : Quay) : (s.setQuay n v).host = s.host := rfl
@[simp] theorem State.modQuay_clk (s : State) (n : Nat) (f : Quay → Quay) : (s.modQuay n f).clk = s.clk := rfl
@[simp] theorem State.modQuay_phase (s : State) (n : Nat) (f : Quay → Quay) : (s.modQuay n f).phase = s.phase := rfl
@[simp] theorem State.modQuay_agenda (s : State) (n : Nat) (f : Quay → Quay) : (s.modQuay n f).agenda = s.agenda := rfl
@[simp] theorem State.modQuay_inputs (s : State) (n : Nat) (f : Quay → Quay) : (s.modQuay n f).inputs = s.inputs := rfl
@[simp] theorem State.modQuay_acts (s : State) (n : Nat) (f : Quay → Quay) : (s.modQuay n f).acts = s.acts := rfl
@[simp] theorem State.modQuay_pend (s : State) (n : Nat) (f : Quay → Quay) : (s.modQuay n f).pend = s.pend := rfl
@[simp] theorem State.modQuay_seqNo (s : State) (n : Nat) (f : Quay → Quay) : (s.modQuay n f).seqNo = s.seqNo := rfl
@[simp] theorem State.modQuay_fresh (s : State) (n : Nat) (f : Quay → Quay) : (s.modQuay n f).fresh = s.fresh := rfl
@[simp] theorem State.modQuay_curCell (s : State) (n : Nat) (f : Quay → Quay) : (s.modQuay n f).curCell = s.curCell := rfl
@[simp] theorem State.modQuay_curSlot (s : State) (n : Nat) (f : Quay → Quay) : (s.modQuay n f).curSlot = s.curSlot := rfl
@[simp] theorem State.modQuay_curPilot (s : State) (n : Nat) (f : Quay → Quay) : (s.modQuay n f).curPilot = s.curPilot := rfl
@[simp] theorem State.modQuay_fired (s : State) (n : Nat) (f : Quay → Quay) : (s.modQuay n f).fired = s.fired := rfl
@[simp] theorem State.modQuay_mem (s : State) (n : Nat) (f : Quay → Quay) : (s.modQuay n f).mem = s.mem := rfl
@[simp] theorem State.modQuay_memKey (s : State) (n : Nat) (f : Quay → Quay) : (s.modQuay n f).memKey = s.memKey := rfl
@[simp] theorem State.modQuay_poison (s : State) (n : Nat) (f : Quay → Quay) : (s.modQuay n f).poison = s.poison := rfl
@[simp] theorem State.modQuay_llc (s : State) (n : Nat) (f : Quay → Quay) : (s.modQuay n f).llc = s.llc := rfl
@[simp] theorem State.modQuay_keySlots (s : State) (n : Nat) (f : Quay → Quay) : (s.modQuay n f).keySlots = s.keySlots := rfl
@[simp] theorem State.modQuay_cells (s : State) (n : Nat) (f : Quay → Quay) : (s.modQuay n f).cells = s.cells := rfl
@[simp] theorem State.modQuay_pilots (s : State) (n : Nat) (f : Quay → Quay) : (s.modQuay n f).pilots = s.pilots := rfl
@[simp] theorem State.modQuay_beacons (s : State) (n : Nat) (f : Quay → Quay) : (s.modQuay n f).beacons = s.beacons := rfl
@[simp] theorem State.modQuay_parts (s : State) (n : Nat) (f : Quay → Quay) : (s.modQuay n f).parts = s.parts := rfl
@[simp] theorem State.modQuay_vds (s : State) (n : Nat) (f : Quay → Quay) : (s.modQuay n f).vds = s.vds := rfl
@[simp] theorem State.modQuay_regions (s : State) (n : Nat) (f : Quay → Quay) : (s.modQuay n f).regions = s.regions := rfl
@[simp] theorem State.modQuay_saves (s : State) (n : Nat) (f : Quay → Quay) : (s.modQuay n f).saves = s.saves := rfl
@[simp] theorem State.modQuay_reqs (s : State) (n : Nat) (f : Quay → Quay) : (s.modQuay n f).reqs = s.reqs := rfl
@[simp] theorem State.modQuay_passes (s : State) (n : Nat) (f : Quay → Quay) : (s.modQuay n f).passes = s.passes := rfl
@[simp] theorem State.modQuay_cleared (s : State) (n : Nat) (f : Quay → Quay) : (s.modQuay n f).cleared = s.cleared := rfl
@[simp] theorem State.modQuay_paid (s : State) (n : Nat) (f : Quay → Quay) : (s.modQuay n f).paid = s.paid := rfl
@[simp] theorem State.modQuay_records (s : State) (n : Nat) (f : Quay → Quay) : (s.modQuay n f).records = s.records := rfl
@[simp] theorem State.modQuay_arbs (s : State) (n : Nat) (f : Quay → Quay) : (s.modQuay n f).arbs = s.arbs := rfl
@[simp] theorem State.modQuay_ports (s : State) (n : Nat) (f : Quay → Quay) : (s.modQuay n f).ports = s.ports := rfl
@[simp] theorem State.modQuay_host (s : State) (n : Nat) (f : Quay → Quay) : (s.modQuay n f).host = s.host := rfl
@[simp] theorem State.setPilot_clk (s : State) (n : Nat) (v : Pilot) : (s.setPilot n v).clk = s.clk := rfl
@[simp] theorem State.setPilot_phase (s : State) (n : Nat) (v : Pilot) : (s.setPilot n v).phase = s.phase := rfl
@[simp] theorem State.setPilot_agenda (s : State) (n : Nat) (v : Pilot) : (s.setPilot n v).agenda = s.agenda := rfl
@[simp] theorem State.setPilot_inputs (s : State) (n : Nat) (v : Pilot) : (s.setPilot n v).inputs = s.inputs := rfl
@[simp] theorem State.setPilot_acts (s : State) (n : Nat) (v : Pilot) : (s.setPilot n v).acts = s.acts := rfl
@[simp] theorem State.setPilot_pend (s : State) (n : Nat) (v : Pilot) : (s.setPilot n v).pend = s.pend := rfl
@[simp] theorem State.setPilot_seqNo (s : State) (n : Nat) (v : Pilot) : (s.setPilot n v).seqNo = s.seqNo := rfl
@[simp] theorem State.setPilot_fresh (s : State) (n : Nat) (v : Pilot) : (s.setPilot n v).fresh = s.fresh := rfl
@[simp] theorem State.setPilot_curCell (s : State) (n : Nat) (v : Pilot) : (s.setPilot n v).curCell = s.curCell := rfl
@[simp] theorem State.setPilot_curSlot (s : State) (n : Nat) (v : Pilot) : (s.setPilot n v).curSlot = s.curSlot := rfl
@[simp] theorem State.setPilot_curPilot (s : State) (n : Nat) (v : Pilot) : (s.setPilot n v).curPilot = s.curPilot := rfl
@[simp] theorem State.setPilot_fired (s : State) (n : Nat) (v : Pilot) : (s.setPilot n v).fired = s.fired := rfl
@[simp] theorem State.setPilot_mem (s : State) (n : Nat) (v : Pilot) : (s.setPilot n v).mem = s.mem := rfl
@[simp] theorem State.setPilot_memKey (s : State) (n : Nat) (v : Pilot) : (s.setPilot n v).memKey = s.memKey := rfl
@[simp] theorem State.setPilot_poison (s : State) (n : Nat) (v : Pilot) : (s.setPilot n v).poison = s.poison := rfl
@[simp] theorem State.setPilot_llc (s : State) (n : Nat) (v : Pilot) : (s.setPilot n v).llc = s.llc := rfl
@[simp] theorem State.setPilot_keySlots (s : State) (n : Nat) (v : Pilot) : (s.setPilot n v).keySlots = s.keySlots := rfl
@[simp] theorem State.setPilot_cells (s : State) (n : Nat) (v : Pilot) : (s.setPilot n v).cells = s.cells := rfl
@[simp] theorem State.setPilot_quays (s : State) (n : Nat) (v : Pilot) : (s.setPilot n v).quays = s.quays := rfl
@[simp] theorem State.setPilot_beacons (s : State) (n : Nat) (v : Pilot) : (s.setPilot n v).beacons = s.beacons := rfl
@[simp] theorem State.setPilot_parts (s : State) (n : Nat) (v : Pilot) : (s.setPilot n v).parts = s.parts := rfl
@[simp] theorem State.setPilot_vds (s : State) (n : Nat) (v : Pilot) : (s.setPilot n v).vds = s.vds := rfl
@[simp] theorem State.setPilot_regions (s : State) (n : Nat) (v : Pilot) : (s.setPilot n v).regions = s.regions := rfl
@[simp] theorem State.setPilot_saves (s : State) (n : Nat) (v : Pilot) : (s.setPilot n v).saves = s.saves := rfl
@[simp] theorem State.setPilot_reqs (s : State) (n : Nat) (v : Pilot) : (s.setPilot n v).reqs = s.reqs := rfl
@[simp] theorem State.setPilot_passes (s : State) (n : Nat) (v : Pilot) : (s.setPilot n v).passes = s.passes := rfl
@[simp] theorem State.setPilot_cleared (s : State) (n : Nat) (v : Pilot) : (s.setPilot n v).cleared = s.cleared := rfl
@[simp] theorem State.setPilot_paid (s : State) (n : Nat) (v : Pilot) : (s.setPilot n v).paid = s.paid := rfl
@[simp] theorem State.setPilot_records (s : State) (n : Nat) (v : Pilot) : (s.setPilot n v).records = s.records := rfl
@[simp] theorem State.setPilot_arbs (s : State) (n : Nat) (v : Pilot) : (s.setPilot n v).arbs = s.arbs := rfl
@[simp] theorem State.setPilot_ports (s : State) (n : Nat) (v : Pilot) : (s.setPilot n v).ports = s.ports := rfl
@[simp] theorem State.setPilot_host (s : State) (n : Nat) (v : Pilot) : (s.setPilot n v).host = s.host := rfl
@[simp] theorem State.modPilot_clk (s : State) (n : Nat) (f : Pilot → Pilot) : (s.modPilot n f).clk = s.clk := rfl
@[simp] theorem State.modPilot_phase (s : State) (n : Nat) (f : Pilot → Pilot) : (s.modPilot n f).phase = s.phase := rfl
@[simp] theorem State.modPilot_agenda (s : State) (n : Nat) (f : Pilot → Pilot) : (s.modPilot n f).agenda = s.agenda := rfl
@[simp] theorem State.modPilot_inputs (s : State) (n : Nat) (f : Pilot → Pilot) : (s.modPilot n f).inputs = s.inputs := rfl
@[simp] theorem State.modPilot_acts (s : State) (n : Nat) (f : Pilot → Pilot) : (s.modPilot n f).acts = s.acts := rfl
@[simp] theorem State.modPilot_pend (s : State) (n : Nat) (f : Pilot → Pilot) : (s.modPilot n f).pend = s.pend := rfl
@[simp] theorem State.modPilot_seqNo (s : State) (n : Nat) (f : Pilot → Pilot) : (s.modPilot n f).seqNo = s.seqNo := rfl
@[simp] theorem State.modPilot_fresh (s : State) (n : Nat) (f : Pilot → Pilot) : (s.modPilot n f).fresh = s.fresh := rfl
@[simp] theorem State.modPilot_curCell (s : State) (n : Nat) (f : Pilot → Pilot) : (s.modPilot n f).curCell = s.curCell := rfl
@[simp] theorem State.modPilot_curSlot (s : State) (n : Nat) (f : Pilot → Pilot) : (s.modPilot n f).curSlot = s.curSlot := rfl
@[simp] theorem State.modPilot_curPilot (s : State) (n : Nat) (f : Pilot → Pilot) : (s.modPilot n f).curPilot = s.curPilot := rfl
@[simp] theorem State.modPilot_fired (s : State) (n : Nat) (f : Pilot → Pilot) : (s.modPilot n f).fired = s.fired := rfl
@[simp] theorem State.modPilot_mem (s : State) (n : Nat) (f : Pilot → Pilot) : (s.modPilot n f).mem = s.mem := rfl
@[simp] theorem State.modPilot_memKey (s : State) (n : Nat) (f : Pilot → Pilot) : (s.modPilot n f).memKey = s.memKey := rfl
@[simp] theorem State.modPilot_poison (s : State) (n : Nat) (f : Pilot → Pilot) : (s.modPilot n f).poison = s.poison := rfl
@[simp] theorem State.modPilot_llc (s : State) (n : Nat) (f : Pilot → Pilot) : (s.modPilot n f).llc = s.llc := rfl
@[simp] theorem State.modPilot_keySlots (s : State) (n : Nat) (f : Pilot → Pilot) : (s.modPilot n f).keySlots = s.keySlots := rfl
@[simp] theorem State.modPilot_cells (s : State) (n : Nat) (f : Pilot → Pilot) : (s.modPilot n f).cells = s.cells := rfl
@[simp] theorem State.modPilot_quays (s : State) (n : Nat) (f : Pilot → Pilot) : (s.modPilot n f).quays = s.quays := rfl
@[simp] theorem State.modPilot_beacons (s : State) (n : Nat) (f : Pilot → Pilot) : (s.modPilot n f).beacons = s.beacons := rfl
@[simp] theorem State.modPilot_parts (s : State) (n : Nat) (f : Pilot → Pilot) : (s.modPilot n f).parts = s.parts := rfl
@[simp] theorem State.modPilot_vds (s : State) (n : Nat) (f : Pilot → Pilot) : (s.modPilot n f).vds = s.vds := rfl
@[simp] theorem State.modPilot_regions (s : State) (n : Nat) (f : Pilot → Pilot) : (s.modPilot n f).regions = s.regions := rfl
@[simp] theorem State.modPilot_saves (s : State) (n : Nat) (f : Pilot → Pilot) : (s.modPilot n f).saves = s.saves := rfl
@[simp] theorem State.modPilot_reqs (s : State) (n : Nat) (f : Pilot → Pilot) : (s.modPilot n f).reqs = s.reqs := rfl
@[simp] theorem State.modPilot_passes (s : State) (n : Nat) (f : Pilot → Pilot) : (s.modPilot n f).passes = s.passes := rfl
@[simp] theorem State.modPilot_cleared (s : State) (n : Nat) (f : Pilot → Pilot) : (s.modPilot n f).cleared = s.cleared := rfl
@[simp] theorem State.modPilot_paid (s : State) (n : Nat) (f : Pilot → Pilot) : (s.modPilot n f).paid = s.paid := rfl
@[simp] theorem State.modPilot_records (s : State) (n : Nat) (f : Pilot → Pilot) : (s.modPilot n f).records = s.records := rfl
@[simp] theorem State.modPilot_arbs (s : State) (n : Nat) (f : Pilot → Pilot) : (s.modPilot n f).arbs = s.arbs := rfl
@[simp] theorem State.modPilot_ports (s : State) (n : Nat) (f : Pilot → Pilot) : (s.modPilot n f).ports = s.ports := rfl
@[simp] theorem State.modPilot_host (s : State) (n : Nat) (f : Pilot → Pilot) : (s.modPilot n f).host = s.host := rfl
@[simp] theorem State.setBeacon_clk (s : State) (n : Nat) (v : Beacon) : (s.setBeacon n v).clk = s.clk := rfl
@[simp] theorem State.setBeacon_phase (s : State) (n : Nat) (v : Beacon) : (s.setBeacon n v).phase = s.phase := rfl
@[simp] theorem State.setBeacon_agenda (s : State) (n : Nat) (v : Beacon) : (s.setBeacon n v).agenda = s.agenda := rfl
@[simp] theorem State.setBeacon_inputs (s : State) (n : Nat) (v : Beacon) : (s.setBeacon n v).inputs = s.inputs := rfl
@[simp] theorem State.setBeacon_acts (s : State) (n : Nat) (v : Beacon) : (s.setBeacon n v).acts = s.acts := rfl
@[simp] theorem State.setBeacon_pend (s : State) (n : Nat) (v : Beacon) : (s.setBeacon n v).pend = s.pend := rfl
@[simp] theorem State.setBeacon_seqNo (s : State) (n : Nat) (v : Beacon) : (s.setBeacon n v).seqNo = s.seqNo := rfl
@[simp] theorem State.setBeacon_fresh (s : State) (n : Nat) (v : Beacon) : (s.setBeacon n v).fresh = s.fresh := rfl
@[simp] theorem State.setBeacon_curCell (s : State) (n : Nat) (v : Beacon) : (s.setBeacon n v).curCell = s.curCell := rfl
@[simp] theorem State.setBeacon_curSlot (s : State) (n : Nat) (v : Beacon) : (s.setBeacon n v).curSlot = s.curSlot := rfl
@[simp] theorem State.setBeacon_curPilot (s : State) (n : Nat) (v : Beacon) : (s.setBeacon n v).curPilot = s.curPilot := rfl
@[simp] theorem State.setBeacon_fired (s : State) (n : Nat) (v : Beacon) : (s.setBeacon n v).fired = s.fired := rfl
@[simp] theorem State.setBeacon_mem (s : State) (n : Nat) (v : Beacon) : (s.setBeacon n v).mem = s.mem := rfl
@[simp] theorem State.setBeacon_memKey (s : State) (n : Nat) (v : Beacon) : (s.setBeacon n v).memKey = s.memKey := rfl
@[simp] theorem State.setBeacon_poison (s : State) (n : Nat) (v : Beacon) : (s.setBeacon n v).poison = s.poison := rfl
@[simp] theorem State.setBeacon_llc (s : State) (n : Nat) (v : Beacon) : (s.setBeacon n v).llc = s.llc := rfl
@[simp] theorem State.setBeacon_keySlots (s : State) (n : Nat) (v : Beacon) : (s.setBeacon n v).keySlots = s.keySlots := rfl
@[simp] theorem State.setBeacon_cells (s : State) (n : Nat) (v : Beacon) : (s.setBeacon n v).cells = s.cells := rfl
@[simp] theorem State.setBeacon_quays (s : State) (n : Nat) (v : Beacon) : (s.setBeacon n v).quays = s.quays := rfl
@[simp] theorem State.setBeacon_pilots (s : State) (n : Nat) (v : Beacon) : (s.setBeacon n v).pilots = s.pilots := rfl
@[simp] theorem State.setBeacon_parts (s : State) (n : Nat) (v : Beacon) : (s.setBeacon n v).parts = s.parts := rfl
@[simp] theorem State.setBeacon_vds (s : State) (n : Nat) (v : Beacon) : (s.setBeacon n v).vds = s.vds := rfl
@[simp] theorem State.setBeacon_regions (s : State) (n : Nat) (v : Beacon) : (s.setBeacon n v).regions = s.regions := rfl
@[simp] theorem State.setBeacon_saves (s : State) (n : Nat) (v : Beacon) : (s.setBeacon n v).saves = s.saves := rfl
@[simp] theorem State.setBeacon_reqs (s : State) (n : Nat) (v : Beacon) : (s.setBeacon n v).reqs = s.reqs := rfl
@[simp] theorem State.setBeacon_passes (s : State) (n : Nat) (v : Beacon) : (s.setBeacon n v).passes = s.passes := rfl
@[simp] theorem State.setBeacon_cleared (s : State) (n : Nat) (v : Beacon) : (s.setBeacon n v).cleared = s.cleared := rfl
@[simp] theorem State.setBeacon_paid (s : State) (n : Nat) (v : Beacon) : (s.setBeacon n v).paid = s.paid := rfl
@[simp] theorem State.setBeacon_records (s : State) (n : Nat) (v : Beacon) : (s.setBeacon n v).records = s.records := rfl
@[simp] theorem State.setBeacon_arbs (s : State) (n : Nat) (v : Beacon) : (s.setBeacon n v).arbs = s.arbs := rfl
@[simp] theorem State.setBeacon_ports (s : State) (n : Nat) (v : Beacon) : (s.setBeacon n v).ports = s.ports := rfl
@[simp] theorem State.setBeacon_host (s : State) (n : Nat) (v : Beacon) : (s.setBeacon n v).host = s.host := rfl
@[simp] theorem State.modBeacon_clk (s : State) (n : Nat) (f : Beacon → Beacon) : (s.modBeacon n f).clk = s.clk := rfl
@[simp] theorem State.modBeacon_phase (s : State) (n : Nat) (f : Beacon → Beacon) : (s.modBeacon n f).phase = s.phase := rfl
@[simp] theorem State.modBeacon_agenda (s : State) (n : Nat) (f : Beacon → Beacon) : (s.modBeacon n f).agenda = s.agenda := rfl
@[simp] theorem State.modBeacon_inputs (s : State) (n : Nat) (f : Beacon → Beacon) : (s.modBeacon n f).inputs = s.inputs := rfl
@[simp] theorem State.modBeacon_acts (s : State) (n : Nat) (f : Beacon → Beacon) : (s.modBeacon n f).acts = s.acts := rfl
@[simp] theorem State.modBeacon_pend (s : State) (n : Nat) (f : Beacon → Beacon) : (s.modBeacon n f).pend = s.pend := rfl
@[simp] theorem State.modBeacon_seqNo (s : State) (n : Nat) (f : Beacon → Beacon) : (s.modBeacon n f).seqNo = s.seqNo := rfl
@[simp] theorem State.modBeacon_fresh (s : State) (n : Nat) (f : Beacon → Beacon) : (s.modBeacon n f).fresh = s.fresh := rfl
@[simp] theorem State.modBeacon_curCell (s : State) (n : Nat) (f : Beacon → Beacon) : (s.modBeacon n f).curCell = s.curCell := rfl
@[simp] theorem State.modBeacon_curSlot (s : State) (n : Nat) (f : Beacon → Beacon) : (s.modBeacon n f).curSlot = s.curSlot := rfl
@[simp] theorem State.modBeacon_curPilot (s : State) (n : Nat) (f : Beacon → Beacon) : (s.modBeacon n f).curPilot = s.curPilot := rfl
@[simp] theorem State.modBeacon_fired (s : State) (n : Nat) (f : Beacon → Beacon) : (s.modBeacon n f).fired = s.fired := rfl
@[simp] theorem State.modBeacon_mem (s : State) (n : Nat) (f : Beacon → Beacon) : (s.modBeacon n f).mem = s.mem := rfl
@[simp] theorem State.modBeacon_memKey (s : State) (n : Nat) (f : Beacon → Beacon) : (s.modBeacon n f).memKey = s.memKey := rfl
@[simp] theorem State.modBeacon_poison (s : State) (n : Nat) (f : Beacon → Beacon) : (s.modBeacon n f).poison = s.poison := rfl
@[simp] theorem State.modBeacon_llc (s : State) (n : Nat) (f : Beacon → Beacon) : (s.modBeacon n f).llc = s.llc := rfl
@[simp] theorem State.modBeacon_keySlots (s : State) (n : Nat) (f : Beacon → Beacon) : (s.modBeacon n f).keySlots = s.keySlots := rfl
@[simp] theorem State.modBeacon_cells (s : State) (n : Nat) (f : Beacon → Beacon) : (s.modBeacon n f).cells = s.cells := rfl
@[simp] theorem State.modBeacon_quays (s : State) (n : Nat) (f : Beacon → Beacon) : (s.modBeacon n f).quays = s.quays := rfl
@[simp] theorem State.modBeacon_pilots (s : State) (n : Nat) (f : Beacon → Beacon) : (s.modBeacon n f).pilots = s.pilots := rfl
@[simp] theorem State.modBeacon_parts (s : State) (n : Nat) (f : Beacon → Beacon) : (s.modBeacon n f).parts = s.parts := rfl
@[simp] theorem State.modBeacon_vds (s : State) (n : Nat) (f : Beacon → Beacon) : (s.modBeacon n f).vds = s.vds := rfl
@[simp] theorem State.modBeacon_regions (s : State) (n : Nat) (f : Beacon → Beacon) : (s.modBeacon n f).regions = s.regions := rfl
@[simp] theorem State.modBeacon_saves (s : State) (n : Nat) (f : Beacon → Beacon) : (s.modBeacon n f).saves = s.saves := rfl
@[simp] theorem State.modBeacon_reqs (s : State) (n : Nat) (f : Beacon → Beacon) : (s.modBeacon n f).reqs = s.reqs := rfl
@[simp] theorem State.modBeacon_passes (s : State) (n : Nat) (f : Beacon → Beacon) : (s.modBeacon n f).passes = s.passes := rfl
@[simp] theorem State.modBeacon_cleared (s : State) (n : Nat) (f : Beacon → Beacon) : (s.modBeacon n f).cleared = s.cleared := rfl
@[simp] theorem State.modBeacon_paid (s : State) (n : Nat) (f : Beacon → Beacon) : (s.modBeacon n f).paid = s.paid := rfl
@[simp] theorem State.modBeacon_records (s : State) (n : Nat) (f : Beacon → Beacon) : (s.modBeacon n f).records = s.records := rfl
@[simp] theorem State.modBeacon_arbs (s : State) (n : Nat) (f : Beacon → Beacon) : (s.modBeacon n f).arbs = s.arbs := rfl
@[simp] theorem State.modBeacon_ports (s : State) (n : Nat) (f : Beacon → Beacon) : (s.modBeacon n f).ports = s.ports := rfl
@[simp] theorem State.modBeacon_host (s : State) (n : Nat) (f : Beacon → Beacon) : (s.modBeacon n f).host = s.host := rfl
@[simp] theorem State.setPart_clk (s : State) (n : Nat) (v : Part) : (s.setPart n v).clk = s.clk := rfl
@[simp] theorem State.setPart_phase (s : State) (n : Nat) (v : Part) : (s.setPart n v).phase = s.phase := rfl
@[simp] theorem State.setPart_agenda (s : State) (n : Nat) (v : Part) : (s.setPart n v).agenda = s.agenda := rfl
@[simp] theorem State.setPart_inputs (s : State) (n : Nat) (v : Part) : (s.setPart n v).inputs = s.inputs := rfl
@[simp] theorem State.setPart_acts (s : State) (n : Nat) (v : Part) : (s.setPart n v).acts = s.acts := rfl
@[simp] theorem State.setPart_pend (s : State) (n : Nat) (v : Part) : (s.setPart n v).pend = s.pend := rfl
@[simp] theorem State.setPart_seqNo (s : State) (n : Nat) (v : Part) : (s.setPart n v).seqNo = s.seqNo := rfl
@[simp] theorem State.setPart_fresh (s : State) (n : Nat) (v : Part) : (s.setPart n v).fresh = s.fresh := rfl
@[simp] theorem State.setPart_curCell (s : State) (n : Nat) (v : Part) : (s.setPart n v).curCell = s.curCell := rfl
@[simp] theorem State.setPart_curSlot (s : State) (n : Nat) (v : Part) : (s.setPart n v).curSlot = s.curSlot := rfl
@[simp] theorem State.setPart_curPilot (s : State) (n : Nat) (v : Part) : (s.setPart n v).curPilot = s.curPilot := rfl
@[simp] theorem State.setPart_fired (s : State) (n : Nat) (v : Part) : (s.setPart n v).fired = s.fired := rfl
@[simp] theorem State.setPart_mem (s : State) (n : Nat) (v : Part) : (s.setPart n v).mem = s.mem := rfl
@[simp] theorem State.setPart_memKey (s : State) (n : Nat) (v : Part) : (s.setPart n v).memKey = s.memKey := rfl
@[simp] theorem State.setPart_poison (s : State) (n : Nat) (v : Part) : (s.setPart n v).poison = s.poison := rfl
@[simp] theorem State.setPart_llc (s : State) (n : Nat) (v : Part) : (s.setPart n v).llc = s.llc := rfl
@[simp] theorem State.setPart_keySlots (s : State) (n : Nat) (v : Part) : (s.setPart n v).keySlots = s.keySlots := rfl
@[simp] theorem State.setPart_cells (s : State) (n : Nat) (v : Part) : (s.setPart n v).cells = s.cells := rfl
@[simp] theorem State.setPart_quays (s : State) (n : Nat) (v : Part) : (s.setPart n v).quays = s.quays := rfl
@[simp] theorem State.setPart_pilots (s : State) (n : Nat) (v : Part) : (s.setPart n v).pilots = s.pilots := rfl
@[simp] theorem State.setPart_beacons (s : State) (n : Nat) (v : Part) : (s.setPart n v).beacons = s.beacons := rfl
@[simp] theorem State.setPart_vds (s : State) (n : Nat) (v : Part) : (s.setPart n v).vds = s.vds := rfl
@[simp] theorem State.setPart_regions (s : State) (n : Nat) (v : Part) : (s.setPart n v).regions = s.regions := rfl
@[simp] theorem State.setPart_saves (s : State) (n : Nat) (v : Part) : (s.setPart n v).saves = s.saves := rfl
@[simp] theorem State.setPart_reqs (s : State) (n : Nat) (v : Part) : (s.setPart n v).reqs = s.reqs := rfl
@[simp] theorem State.setPart_passes (s : State) (n : Nat) (v : Part) : (s.setPart n v).passes = s.passes := rfl
@[simp] theorem State.setPart_cleared (s : State) (n : Nat) (v : Part) : (s.setPart n v).cleared = s.cleared := rfl
@[simp] theorem State.setPart_paid (s : State) (n : Nat) (v : Part) : (s.setPart n v).paid = s.paid := rfl
@[simp] theorem State.setPart_records (s : State) (n : Nat) (v : Part) : (s.setPart n v).records = s.records := rfl
@[simp] theorem State.setPart_arbs (s : State) (n : Nat) (v : Part) : (s.setPart n v).arbs = s.arbs := rfl
@[simp] theorem State.setPart_ports (s : State) (n : Nat) (v : Part) : (s.setPart n v).ports = s.ports := rfl
@[simp] theorem State.setPart_host (s : State) (n : Nat) (v : Part) : (s.setPart n v).host = s.host := rfl
@[simp] theorem State.modPart_clk (s : State) (n : Nat) (f : Part → Part) : (s.modPart n f).clk = s.clk := rfl
@[simp] theorem State.modPart_phase (s : State) (n : Nat) (f : Part → Part) : (s.modPart n f).phase = s.phase := rfl
@[simp] theorem State.modPart_agenda (s : State) (n : Nat) (f : Part → Part) : (s.modPart n f).agenda = s.agenda := rfl
@[simp] theorem State.modPart_inputs (s : State) (n : Nat) (f : Part → Part) : (s.modPart n f).inputs = s.inputs := rfl
@[simp] theorem State.modPart_acts (s : State) (n : Nat) (f : Part → Part) : (s.modPart n f).acts = s.acts := rfl
@[simp] theorem State.modPart_pend (s : State) (n : Nat) (f : Part → Part) : (s.modPart n f).pend = s.pend := rfl
@[simp] theorem State.modPart_seqNo (s : State) (n : Nat) (f : Part → Part) : (s.modPart n f).seqNo = s.seqNo := rfl
@[simp] theorem State.modPart_fresh (s : State) (n : Nat) (f : Part → Part) : (s.modPart n f).fresh = s.fresh := rfl
@[simp] theorem State.modPart_curCell (s : State) (n : Nat) (f : Part → Part) : (s.modPart n f).curCell = s.curCell := rfl
@[simp] theorem State.modPart_curSlot (s : State) (n : Nat) (f : Part → Part) : (s.modPart n f).curSlot = s.curSlot := rfl
@[simp] theorem State.modPart_curPilot (s : State) (n : Nat) (f : Part → Part) : (s.modPart n f).curPilot = s.curPilot := rfl
@[simp] theorem State.modPart_fired (s : State) (n : Nat) (f : Part → Part) : (s.modPart n f).fired = s.fired := rfl
@[simp] theorem State.modPart_mem (s : State) (n : Nat) (f : Part → Part) : (s.modPart n f).mem = s.mem := rfl
@[simp] theorem State.modPart_memKey (s : State) (n : Nat) (f : Part → Part) : (s.modPart n f).memKey = s.memKey := rfl
@[simp] theorem State.modPart_poison (s : State) (n : Nat) (f : Part → Part) : (s.modPart n f).poison = s.poison := rfl
@[simp] theorem State.modPart_llc (s : State) (n : Nat) (f : Part → Part) : (s.modPart n f).llc = s.llc := rfl
@[simp] theorem State.modPart_keySlots (s : State) (n : Nat) (f : Part → Part) : (s.modPart n f).keySlots = s.keySlots := rfl
@[simp] theorem State.modPart_cells (s : State) (n : Nat) (f : Part → Part) : (s.modPart n f).cells = s.cells := rfl
@[simp] theorem State.modPart_quays (s : State) (n : Nat) (f : Part → Part) : (s.modPart n f).quays = s.quays := rfl
@[simp] theorem State.modPart_pilots (s : State) (n : Nat) (f : Part → Part) : (s.modPart n f).pilots = s.pilots := rfl
@[simp] theorem State.modPart_beacons (s : State) (n : Nat) (f : Part → Part) : (s.modPart n f).beacons = s.beacons := rfl
@[simp] theorem State.modPart_vds (s : State) (n : Nat) (f : Part → Part) : (s.modPart n f).vds = s.vds := rfl
@[simp] theorem State.modPart_regions (s : State) (n : Nat) (f : Part → Part) : (s.modPart n f).regions = s.regions := rfl
@[simp] theorem State.modPart_saves (s : State) (n : Nat) (f : Part → Part) : (s.modPart n f).saves = s.saves := rfl
@[simp] theorem State.modPart_reqs (s : State) (n : Nat) (f : Part → Part) : (s.modPart n f).reqs = s.reqs := rfl
@[simp] theorem State.modPart_passes (s : State) (n : Nat) (f : Part → Part) : (s.modPart n f).passes = s.passes := rfl
@[simp] theorem State.modPart_cleared (s : State) (n : Nat) (f : Part → Part) : (s.modPart n f).cleared = s.cleared := rfl
@[simp] theorem State.modPart_paid (s : State) (n : Nat) (f : Part → Part) : (s.modPart n f).paid = s.paid := rfl
@[simp] theorem State.modPart_records (s : State) (n : Nat) (f : Part → Part) : (s.modPart n f).records = s.records := rfl
@[simp] theorem State.modPart_arbs (s : State) (n : Nat) (f : Part → Part) : (s.modPart n f).arbs = s.arbs := rfl
@[simp] theorem State.modPart_ports (s : State) (n : Nat) (f : Part → Part) : (s.modPart n f).ports = s.ports := rfl
@[simp] theorem State.modPart_host (s : State) (n : Nat) (f : Part → Part) : (s.modPart n f).host = s.host := rfl
@[simp] theorem State.setVd_clk (s : State) (n : Nat) (v : Vd) : (s.setVd n v).clk = s.clk := rfl
@[simp] theorem State.setVd_phase (s : State) (n : Nat) (v : Vd) : (s.setVd n v).phase = s.phase := rfl
@[simp] theorem State.setVd_agenda (s : State) (n : Nat) (v : Vd) : (s.setVd n v).agenda = s.agenda := rfl
@[simp] theorem State.setVd_inputs (s : State) (n : Nat) (v : Vd) : (s.setVd n v).inputs = s.inputs := rfl
@[simp] theorem State.setVd_acts (s : State) (n : Nat) (v : Vd) : (s.setVd n v).acts = s.acts := rfl
@[simp] theorem State.setVd_pend (s : State) (n : Nat) (v : Vd) : (s.setVd n v).pend = s.pend := rfl
@[simp] theorem State.setVd_seqNo (s : State) (n : Nat) (v : Vd) : (s.setVd n v).seqNo = s.seqNo := rfl
@[simp] theorem State.setVd_fresh (s : State) (n : Nat) (v : Vd) : (s.setVd n v).fresh = s.fresh := rfl
@[simp] theorem State.setVd_curCell (s : State) (n : Nat) (v : Vd) : (s.setVd n v).curCell = s.curCell := rfl
@[simp] theorem State.setVd_curSlot (s : State) (n : Nat) (v : Vd) : (s.setVd n v).curSlot = s.curSlot := rfl
@[simp] theorem State.setVd_curPilot (s : State) (n : Nat) (v : Vd) : (s.setVd n v).curPilot = s.curPilot := rfl
@[simp] theorem State.setVd_fired (s : State) (n : Nat) (v : Vd) : (s.setVd n v).fired = s.fired := rfl
@[simp] theorem State.setVd_mem (s : State) (n : Nat) (v : Vd) : (s.setVd n v).mem = s.mem := rfl
@[simp] theorem State.setVd_memKey (s : State) (n : Nat) (v : Vd) : (s.setVd n v).memKey = s.memKey := rfl
@[simp] theorem State.setVd_poison (s : State) (n : Nat) (v : Vd) : (s.setVd n v).poison = s.poison := rfl
@[simp] theorem State.setVd_llc (s : State) (n : Nat) (v : Vd) : (s.setVd n v).llc = s.llc := rfl
@[simp] theorem State.setVd_keySlots (s : State) (n : Nat) (v : Vd) : (s.setVd n v).keySlots = s.keySlots := rfl
@[simp] theorem State.setVd_cells (s : State) (n : Nat) (v : Vd) : (s.setVd n v).cells = s.cells := rfl
@[simp] theorem State.setVd_quays (s : State) (n : Nat) (v : Vd) : (s.setVd n v).quays = s.quays := rfl
@[simp] theorem State.setVd_pilots (s : State) (n : Nat) (v : Vd) : (s.setVd n v).pilots = s.pilots := rfl
@[simp] theorem State.setVd_beacons (s : State) (n : Nat) (v : Vd) : (s.setVd n v).beacons = s.beacons := rfl
@[simp] theorem State.setVd_parts (s : State) (n : Nat) (v : Vd) : (s.setVd n v).parts = s.parts := rfl
@[simp] theorem State.setVd_regions (s : State) (n : Nat) (v : Vd) : (s.setVd n v).regions = s.regions := rfl
@[simp] theorem State.setVd_saves (s : State) (n : Nat) (v : Vd) : (s.setVd n v).saves = s.saves := rfl
@[simp] theorem State.setVd_reqs (s : State) (n : Nat) (v : Vd) : (s.setVd n v).reqs = s.reqs := rfl
@[simp] theorem State.setVd_passes (s : State) (n : Nat) (v : Vd) : (s.setVd n v).passes = s.passes := rfl
@[simp] theorem State.setVd_cleared (s : State) (n : Nat) (v : Vd) : (s.setVd n v).cleared = s.cleared := rfl
@[simp] theorem State.setVd_paid (s : State) (n : Nat) (v : Vd) : (s.setVd n v).paid = s.paid := rfl
@[simp] theorem State.setVd_records (s : State) (n : Nat) (v : Vd) : (s.setVd n v).records = s.records := rfl
@[simp] theorem State.setVd_arbs (s : State) (n : Nat) (v : Vd) : (s.setVd n v).arbs = s.arbs := rfl
@[simp] theorem State.setVd_ports (s : State) (n : Nat) (v : Vd) : (s.setVd n v).ports = s.ports := rfl
@[simp] theorem State.setVd_host (s : State) (n : Nat) (v : Vd) : (s.setVd n v).host = s.host := rfl
@[simp] theorem State.modVd_clk (s : State) (n : Nat) (f : Vd → Vd) : (s.modVd n f).clk = s.clk := rfl
@[simp] theorem State.modVd_phase (s : State) (n : Nat) (f : Vd → Vd) : (s.modVd n f).phase = s.phase := rfl
@[simp] theorem State.modVd_agenda (s : State) (n : Nat) (f : Vd → Vd) : (s.modVd n f).agenda = s.agenda := rfl
@[simp] theorem State.modVd_inputs (s : State) (n : Nat) (f : Vd → Vd) : (s.modVd n f).inputs = s.inputs := rfl
@[simp] theorem State.modVd_acts (s : State) (n : Nat) (f : Vd → Vd) : (s.modVd n f).acts = s.acts := rfl
@[simp] theorem State.modVd_pend (s : State) (n : Nat) (f : Vd → Vd) : (s.modVd n f).pend = s.pend := rfl
@[simp] theorem State.modVd_seqNo (s : State) (n : Nat) (f : Vd → Vd) : (s.modVd n f).seqNo = s.seqNo := rfl
@[simp] theorem State.modVd_fresh (s : State) (n : Nat) (f : Vd → Vd) : (s.modVd n f).fresh = s.fresh := rfl
@[simp] theorem State.modVd_curCell (s : State) (n : Nat) (f : Vd → Vd) : (s.modVd n f).curCell = s.curCell := rfl
@[simp] theorem State.modVd_curSlot (s : State) (n : Nat) (f : Vd → Vd) : (s.modVd n f).curSlot = s.curSlot := rfl
@[simp] theorem State.modVd_curPilot (s : State) (n : Nat) (f : Vd → Vd) : (s.modVd n f).curPilot = s.curPilot := rfl
@[simp] theorem State.modVd_fired (s : State) (n : Nat) (f : Vd → Vd) : (s.modVd n f).fired = s.fired := rfl
@[simp] theorem State.modVd_mem (s : State) (n : Nat) (f : Vd → Vd) : (s.modVd n f).mem = s.mem := rfl
@[simp] theorem State.modVd_memKey (s : State) (n : Nat) (f : Vd → Vd) : (s.modVd n f).memKey = s.memKey := rfl
@[simp] theorem State.modVd_poison (s : State) (n : Nat) (f : Vd → Vd) : (s.modVd n f).poison = s.poison := rfl
@[simp] theorem State.modVd_llc (s : State) (n : Nat) (f : Vd → Vd) : (s.modVd n f).llc = s.llc := rfl
@[simp] theorem State.modVd_keySlots (s : State) (n : Nat) (f : Vd → Vd) : (s.modVd n f).keySlots = s.keySlots := rfl
@[simp] theorem State.modVd_cells (s : State) (n : Nat) (f : Vd → Vd) : (s.modVd n f).cells = s.cells := rfl
@[simp] theorem State.modVd_quays (s : State) (n : Nat) (f : Vd → Vd) : (s.modVd n f).quays = s.quays := rfl
@[simp] theorem State.modVd_pilots (s : State) (n : Nat) (f : Vd → Vd) : (s.modVd n f).pilots = s.pilots := rfl
@[simp] theorem State.modVd_beacons (s : State) (n : Nat) (f : Vd → Vd) : (s.modVd n f).beacons = s.beacons := rfl
@[simp] theorem State.modVd_parts (s : State) (n : Nat) (f : Vd → Vd) : (s.modVd n f).parts = s.parts := rfl
@[simp] theorem State.modVd_regions (s : State) (n : Nat) (f : Vd → Vd) : (s.modVd n f).regions = s.regions := rfl
@[simp] theorem State.modVd_saves (s : State) (n : Nat) (f : Vd → Vd) : (s.modVd n f).saves = s.saves := rfl
@[simp] theorem State.modVd_reqs (s : State) (n : Nat) (f : Vd → Vd) : (s.modVd n f).reqs = s.reqs := rfl
@[simp] theorem State.modVd_passes (s : State) (n : Nat) (f : Vd → Vd) : (s.modVd n f).passes = s.passes := rfl
@[simp] theorem State.modVd_cleared (s : State) (n : Nat) (f : Vd → Vd) : (s.modVd n f).cleared = s.cleared := rfl
@[simp] theorem State.modVd_paid (s : State) (n : Nat) (f : Vd → Vd) : (s.modVd n f).paid = s.paid := rfl
@[simp] theorem State.modVd_records (s : State) (n : Nat) (f : Vd → Vd) : (s.modVd n f).records = s.records := rfl
@[simp] theorem State.modVd_arbs (s : State) (n : Nat) (f : Vd → Vd) : (s.modVd n f).arbs = s.arbs := rfl
@[simp] theorem State.modVd_ports (s : State) (n : Nat) (f : Vd → Vd) : (s.modVd n f).ports = s.ports := rfl
@[simp] theorem State.modVd_host (s : State) (n : Nat) (f : Vd → Vd) : (s.modVd n f).host = s.host := rfl
@[simp] theorem State.setRegion_clk (s : State) (n : Nat) (v : Region) : (s.setRegion n v).clk = s.clk := rfl
@[simp] theorem State.setRegion_phase (s : State) (n : Nat) (v : Region) : (s.setRegion n v).phase = s.phase := rfl
@[simp] theorem State.setRegion_agenda (s : State) (n : Nat) (v : Region) : (s.setRegion n v).agenda = s.agenda := rfl
@[simp] theorem State.setRegion_inputs (s : State) (n : Nat) (v : Region) : (s.setRegion n v).inputs = s.inputs := rfl
@[simp] theorem State.setRegion_acts (s : State) (n : Nat) (v : Region) : (s.setRegion n v).acts = s.acts := rfl
@[simp] theorem State.setRegion_pend (s : State) (n : Nat) (v : Region) : (s.setRegion n v).pend = s.pend := rfl
@[simp] theorem State.setRegion_seqNo (s : State) (n : Nat) (v : Region) : (s.setRegion n v).seqNo = s.seqNo := rfl
@[simp] theorem State.setRegion_fresh (s : State) (n : Nat) (v : Region) : (s.setRegion n v).fresh = s.fresh := rfl
@[simp] theorem State.setRegion_curCell (s : State) (n : Nat) (v : Region) : (s.setRegion n v).curCell = s.curCell := rfl
@[simp] theorem State.setRegion_curSlot (s : State) (n : Nat) (v : Region) : (s.setRegion n v).curSlot = s.curSlot := rfl
@[simp] theorem State.setRegion_curPilot (s : State) (n : Nat) (v : Region) : (s.setRegion n v).curPilot = s.curPilot := rfl
@[simp] theorem State.setRegion_fired (s : State) (n : Nat) (v : Region) : (s.setRegion n v).fired = s.fired := rfl
@[simp] theorem State.setRegion_mem (s : State) (n : Nat) (v : Region) : (s.setRegion n v).mem = s.mem := rfl
@[simp] theorem State.setRegion_memKey (s : State) (n : Nat) (v : Region) : (s.setRegion n v).memKey = s.memKey := rfl
@[simp] theorem State.setRegion_poison (s : State) (n : Nat) (v : Region) : (s.setRegion n v).poison = s.poison := rfl
@[simp] theorem State.setRegion_llc (s : State) (n : Nat) (v : Region) : (s.setRegion n v).llc = s.llc := rfl
@[simp] theorem State.setRegion_keySlots (s : State) (n : Nat) (v : Region) : (s.setRegion n v).keySlots = s.keySlots := rfl
@[simp] theorem State.setRegion_cells (s : State) (n : Nat) (v : Region) : (s.setRegion n v).cells = s.cells := rfl
@[simp] theorem State.setRegion_quays (s : State) (n : Nat) (v : Region) : (s.setRegion n v).quays = s.quays := rfl
@[simp] theorem State.setRegion_pilots (s : State) (n : Nat) (v : Region) : (s.setRegion n v).pilots = s.pilots := rfl
@[simp] theorem State.setRegion_beacons (s : State) (n : Nat) (v : Region) : (s.setRegion n v).beacons = s.beacons := rfl
@[simp] theorem State.setRegion_parts (s : State) (n : Nat) (v : Region) : (s.setRegion n v).parts = s.parts := rfl
@[simp] theorem State.setRegion_vds (s : State) (n : Nat) (v : Region) : (s.setRegion n v).vds = s.vds := rfl
@[simp] theorem State.setRegion_saves (s : State) (n : Nat) (v : Region) : (s.setRegion n v).saves = s.saves := rfl
@[simp] theorem State.setRegion_reqs (s : State) (n : Nat) (v : Region) : (s.setRegion n v).reqs = s.reqs := rfl
@[simp] theorem State.setRegion_passes (s : State) (n : Nat) (v : Region) : (s.setRegion n v).passes = s.passes := rfl
@[simp] theorem State.setRegion_cleared (s : State) (n : Nat) (v : Region) : (s.setRegion n v).cleared = s.cleared := rfl
@[simp] theorem State.setRegion_paid (s : State) (n : Nat) (v : Region) : (s.setRegion n v).paid = s.paid := rfl
@[simp] theorem State.setRegion_records (s : State) (n : Nat) (v : Region) : (s.setRegion n v).records = s.records := rfl
@[simp] theorem State.setRegion_arbs (s : State) (n : Nat) (v : Region) : (s.setRegion n v).arbs = s.arbs := rfl
@[simp] theorem State.setRegion_ports (s : State) (n : Nat) (v : Region) : (s.setRegion n v).ports = s.ports := rfl
@[simp] theorem State.setRegion_host (s : State) (n : Nat) (v : Region) : (s.setRegion n v).host = s.host := rfl
@[simp] theorem State.modRegion_clk (s : State) (n : Nat) (f : Region → Region) : (s.modRegion n f).clk = s.clk := rfl
@[simp] theorem State.modRegion_phase (s : State) (n : Nat) (f : Region → Region) : (s.modRegion n f).phase = s.phase := rfl
@[simp] theorem State.modRegion_agenda (s : State) (n : Nat) (f : Region → Region) : (s.modRegion n f).agenda = s.agenda := rfl
@[simp] theorem State.modRegion_inputs (s : State) (n : Nat) (f : Region → Region) : (s.modRegion n f).inputs = s.inputs := rfl
@[simp] theorem State.modRegion_acts (s : State) (n : Nat) (f : Region → Region) : (s.modRegion n f).acts = s.acts := rfl
@[simp] theorem State.modRegion_pend (s : State) (n : Nat) (f : Region → Region) : (s.modRegion n f).pend = s.pend := rfl
@[simp] theorem State.modRegion_seqNo (s : State) (n : Nat) (f : Region → Region) : (s.modRegion n f).seqNo = s.seqNo := rfl
@[simp] theorem State.modRegion_fresh (s : State) (n : Nat) (f : Region → Region) : (s.modRegion n f).fresh = s.fresh := rfl
@[simp] theorem State.modRegion_curCell (s : State) (n : Nat) (f : Region → Region) : (s.modRegion n f).curCell = s.curCell := rfl
@[simp] theorem State.modRegion_curSlot (s : State) (n : Nat) (f : Region → Region) : (s.modRegion n f).curSlot = s.curSlot := rfl
@[simp] theorem State.modRegion_curPilot (s : State) (n : Nat) (f : Region → Region) : (s.modRegion n f).curPilot = s.curPilot := rfl
@[simp] theorem State.modRegion_fired (s : State) (n : Nat) (f : Region → Region) : (s.modRegion n f).fired = s.fired := rfl
@[simp] theorem State.modRegion_mem (s : State) (n : Nat) (f : Region → Region) : (s.modRegion n f).mem = s.mem := rfl
@[simp] theorem State.modRegion_memKey (s : State) (n : Nat) (f : Region → Region) : (s.modRegion n f).memKey = s.memKey := rfl
@[simp] theorem State.modRegion_poison (s : State) (n : Nat) (f : Region → Region) : (s.modRegion n f).poison = s.poison := rfl
@[simp] theorem State.modRegion_llc (s : State) (n : Nat) (f : Region → Region) : (s.modRegion n f).llc = s.llc := rfl
@[simp] theorem State.modRegion_keySlots (s : State) (n : Nat) (f : Region → Region) : (s.modRegion n f).keySlots = s.keySlots := rfl
@[simp] theorem State.modRegion_cells (s : State) (n : Nat) (f : Region → Region) : (s.modRegion n f).cells = s.cells := rfl
@[simp] theorem State.modRegion_quays (s : State) (n : Nat) (f : Region → Region) : (s.modRegion n f).quays = s.quays := rfl
@[simp] theorem State.modRegion_pilots (s : State) (n : Nat) (f : Region → Region) : (s.modRegion n f).pilots = s.pilots := rfl
@[simp] theorem State.modRegion_beacons (s : State) (n : Nat) (f : Region → Region) : (s.modRegion n f).beacons = s.beacons := rfl
@[simp] theorem State.modRegion_parts (s : State) (n : Nat) (f : Region → Region) : (s.modRegion n f).parts = s.parts := rfl
@[simp] theorem State.modRegion_vds (s : State) (n : Nat) (f : Region → Region) : (s.modRegion n f).vds = s.vds := rfl
@[simp] theorem State.modRegion_saves (s : State) (n : Nat) (f : Region → Region) : (s.modRegion n f).saves = s.saves := rfl
@[simp] theorem State.modRegion_reqs (s : State) (n : Nat) (f : Region → Region) : (s.modRegion n f).reqs = s.reqs := rfl
@[simp] theorem State.modRegion_passes (s : State) (n : Nat) (f : Region → Region) : (s.modRegion n f).passes = s.passes := rfl
@[simp] theorem State.modRegion_cleared (s : State) (n : Nat) (f : Region → Region) : (s.modRegion n f).cleared = s.cleared := rfl
@[simp] theorem State.modRegion_paid (s : State) (n : Nat) (f : Region → Region) : (s.modRegion n f).paid = s.paid := rfl
@[simp] theorem State.modRegion_records (s : State) (n : Nat) (f : Region → Region) : (s.modRegion n f).records = s.records := rfl
@[simp] theorem State.modRegion_arbs (s : State) (n : Nat) (f : Region → Region) : (s.modRegion n f).arbs = s.arbs := rfl
@[simp] theorem State.modRegion_ports (s : State) (n : Nat) (f : Region → Region) : (s.modRegion n f).ports = s.ports := rfl
@[simp] theorem State.modRegion_host (s : State) (n : Nat) (f : Region → Region) : (s.modRegion n f).host = s.host := rfl
@[simp] theorem State.setPort_clk (s : State) (n : Nat) (v : SwPort) : (s.setPort n v).clk = s.clk := rfl
@[simp] theorem State.setPort_phase (s : State) (n : Nat) (v : SwPort) : (s.setPort n v).phase = s.phase := rfl
@[simp] theorem State.setPort_agenda (s : State) (n : Nat) (v : SwPort) : (s.setPort n v).agenda = s.agenda := rfl
@[simp] theorem State.setPort_inputs (s : State) (n : Nat) (v : SwPort) : (s.setPort n v).inputs = s.inputs := rfl
@[simp] theorem State.setPort_acts (s : State) (n : Nat) (v : SwPort) : (s.setPort n v).acts = s.acts := rfl
@[simp] theorem State.setPort_pend (s : State) (n : Nat) (v : SwPort) : (s.setPort n v).pend = s.pend := rfl
@[simp] theorem State.setPort_seqNo (s : State) (n : Nat) (v : SwPort) : (s.setPort n v).seqNo = s.seqNo := rfl
@[simp] theorem State.setPort_fresh (s : State) (n : Nat) (v : SwPort) : (s.setPort n v).fresh = s.fresh := rfl
@[simp] theorem State.setPort_curCell (s : State) (n : Nat) (v : SwPort) : (s.setPort n v).curCell = s.curCell := rfl
@[simp] theorem State.setPort_curSlot (s : State) (n : Nat) (v : SwPort) : (s.setPort n v).curSlot = s.curSlot := rfl
@[simp] theorem State.setPort_curPilot (s : State) (n : Nat) (v : SwPort) : (s.setPort n v).curPilot = s.curPilot := rfl
@[simp] theorem State.setPort_fired (s : State) (n : Nat) (v : SwPort) : (s.setPort n v).fired = s.fired := rfl
@[simp] theorem State.setPort_mem (s : State) (n : Nat) (v : SwPort) : (s.setPort n v).mem = s.mem := rfl
@[simp] theorem State.setPort_memKey (s : State) (n : Nat) (v : SwPort) : (s.setPort n v).memKey = s.memKey := rfl
@[simp] theorem State.setPort_poison (s : State) (n : Nat) (v : SwPort) : (s.setPort n v).poison = s.poison := rfl
@[simp] theorem State.setPort_llc (s : State) (n : Nat) (v : SwPort) : (s.setPort n v).llc = s.llc := rfl
@[simp] theorem State.setPort_keySlots (s : State) (n : Nat) (v : SwPort) : (s.setPort n v).keySlots = s.keySlots := rfl
@[simp] theorem State.setPort_cells (s : State) (n : Nat) (v : SwPort) : (s.setPort n v).cells = s.cells := rfl
@[simp] theorem State.setPort_quays (s : State) (n : Nat) (v : SwPort) : (s.setPort n v).quays = s.quays := rfl
@[simp] theorem State.setPort_pilots (s : State) (n : Nat) (v : SwPort) : (s.setPort n v).pilots = s.pilots := rfl
@[simp] theorem State.setPort_beacons (s : State) (n : Nat) (v : SwPort) : (s.setPort n v).beacons = s.beacons := rfl
@[simp] theorem State.setPort_parts (s : State) (n : Nat) (v : SwPort) : (s.setPort n v).parts = s.parts := rfl
@[simp] theorem State.setPort_vds (s : State) (n : Nat) (v : SwPort) : (s.setPort n v).vds = s.vds := rfl
@[simp] theorem State.setPort_regions (s : State) (n : Nat) (v : SwPort) : (s.setPort n v).regions = s.regions := rfl
@[simp] theorem State.setPort_saves (s : State) (n : Nat) (v : SwPort) : (s.setPort n v).saves = s.saves := rfl
@[simp] theorem State.setPort_reqs (s : State) (n : Nat) (v : SwPort) : (s.setPort n v).reqs = s.reqs := rfl
@[simp] theorem State.setPort_passes (s : State) (n : Nat) (v : SwPort) : (s.setPort n v).passes = s.passes := rfl
@[simp] theorem State.setPort_cleared (s : State) (n : Nat) (v : SwPort) : (s.setPort n v).cleared = s.cleared := rfl
@[simp] theorem State.setPort_paid (s : State) (n : Nat) (v : SwPort) : (s.setPort n v).paid = s.paid := rfl
@[simp] theorem State.setPort_records (s : State) (n : Nat) (v : SwPort) : (s.setPort n v).records = s.records := rfl
@[simp] theorem State.setPort_arbs (s : State) (n : Nat) (v : SwPort) : (s.setPort n v).arbs = s.arbs := rfl
@[simp] theorem State.setPort_host (s : State) (n : Nat) (v : SwPort) : (s.setPort n v).host = s.host := rfl
@[simp] theorem State.modPort_clk (s : State) (n : Nat) (f : SwPort → SwPort) : (s.modPort n f).clk = s.clk := rfl
@[simp] theorem State.modPort_phase (s : State) (n : Nat) (f : SwPort → SwPort) : (s.modPort n f).phase = s.phase := rfl
@[simp] theorem State.modPort_agenda (s : State) (n : Nat) (f : SwPort → SwPort) : (s.modPort n f).agenda = s.agenda := rfl
@[simp] theorem State.modPort_inputs (s : State) (n : Nat) (f : SwPort → SwPort) : (s.modPort n f).inputs = s.inputs := rfl
@[simp] theorem State.modPort_acts (s : State) (n : Nat) (f : SwPort → SwPort) : (s.modPort n f).acts = s.acts := rfl
@[simp] theorem State.modPort_pend (s : State) (n : Nat) (f : SwPort → SwPort) : (s.modPort n f).pend = s.pend := rfl
@[simp] theorem State.modPort_seqNo (s : State) (n : Nat) (f : SwPort → SwPort) : (s.modPort n f).seqNo = s.seqNo := rfl
@[simp] theorem State.modPort_fresh (s : State) (n : Nat) (f : SwPort → SwPort) : (s.modPort n f).fresh = s.fresh := rfl
@[simp] theorem State.modPort_curCell (s : State) (n : Nat) (f : SwPort → SwPort) : (s.modPort n f).curCell = s.curCell := rfl
@[simp] theorem State.modPort_curSlot (s : State) (n : Nat) (f : SwPort → SwPort) : (s.modPort n f).curSlot = s.curSlot := rfl
@[simp] theorem State.modPort_curPilot (s : State) (n : Nat) (f : SwPort → SwPort) : (s.modPort n f).curPilot = s.curPilot := rfl
@[simp] theorem State.modPort_fired (s : State) (n : Nat) (f : SwPort → SwPort) : (s.modPort n f).fired = s.fired := rfl
@[simp] theorem State.modPort_mem (s : State) (n : Nat) (f : SwPort → SwPort) : (s.modPort n f).mem = s.mem := rfl
@[simp] theorem State.modPort_memKey (s : State) (n : Nat) (f : SwPort → SwPort) : (s.modPort n f).memKey = s.memKey := rfl
@[simp] theorem State.modPort_poison (s : State) (n : Nat) (f : SwPort → SwPort) : (s.modPort n f).poison = s.poison := rfl
@[simp] theorem State.modPort_llc (s : State) (n : Nat) (f : SwPort → SwPort) : (s.modPort n f).llc = s.llc := rfl
@[simp] theorem State.modPort_keySlots (s : State) (n : Nat) (f : SwPort → SwPort) : (s.modPort n f).keySlots = s.keySlots := rfl
@[simp] theorem State.modPort_cells (s : State) (n : Nat) (f : SwPort → SwPort) : (s.modPort n f).cells = s.cells := rfl
@[simp] theorem State.modPort_quays (s : State) (n : Nat) (f : SwPort → SwPort) : (s.modPort n f).quays = s.quays := rfl
@[simp] theorem State.modPort_pilots (s : State) (n : Nat) (f : SwPort → SwPort) : (s.modPort n f).pilots = s.pilots := rfl
@[simp] theorem State.modPort_beacons (s : State) (n : Nat) (f : SwPort → SwPort) : (s.modPort n f).beacons = s.beacons := rfl
@[simp] theorem State.modPort_parts (s : State) (n : Nat) (f : SwPort → SwPort) : (s.modPort n f).parts = s.parts := rfl
@[simp] theorem State.modPort_vds (s : State) (n : Nat) (f : SwPort → SwPort) : (s.modPort n f).vds = s.vds := rfl
@[simp] theorem State.modPort_regions (s : State) (n : Nat) (f : SwPort → SwPort) : (s.modPort n f).regions = s.regions := rfl
@[simp] theorem State.modPort_saves (s : State) (n : Nat) (f : SwPort → SwPort) : (s.modPort n f).saves = s.saves := rfl
@[simp] theorem State.modPort_reqs (s : State) (n : Nat) (f : SwPort → SwPort) : (s.modPort n f).reqs = s.reqs := rfl
@[simp] theorem State.modPort_passes (s : State) (n : Nat) (f : SwPort → SwPort) : (s.modPort n f).passes = s.passes := rfl
@[simp] theorem State.modPort_cleared (s : State) (n : Nat) (f : SwPort → SwPort) : (s.modPort n f).cleared = s.cleared := rfl
@[simp] theorem State.modPort_paid (s : State) (n : Nat) (f : SwPort → SwPort) : (s.modPort n f).paid = s.paid := rfl
@[simp] theorem State.modPort_records (s : State) (n : Nat) (f : SwPort → SwPort) : (s.modPort n f).records = s.records := rfl
@[simp] theorem State.modPort_arbs (s : State) (n : Nat) (f : SwPort → SwPort) : (s.modPort n f).arbs = s.arbs := rfl
@[simp] theorem State.modPort_host (s : State) (n : Nat) (f : SwPort → SwPort) : (s.modPort n f).host = s.host := rfl
@[simp] theorem State.setChan_clk (s : State) (n : Nat) (v : Chan) : (s.setChan n v).clk = s.clk := rfl
@[simp] theorem State.setChan_phase (s : State) (n : Nat) (v : Chan) : (s.setChan n v).phase = s.phase := rfl
@[simp] theorem State.setChan_agenda (s : State) (n : Nat) (v : Chan) : (s.setChan n v).agenda = s.agenda := rfl
@[simp] theorem State.setChan_inputs (s : State) (n : Nat) (v : Chan) : (s.setChan n v).inputs = s.inputs := rfl
@[simp] theorem State.setChan_acts (s : State) (n : Nat) (v : Chan) : (s.setChan n v).acts = s.acts := rfl
@[simp] theorem State.setChan_pend (s : State) (n : Nat) (v : Chan) : (s.setChan n v).pend = s.pend := rfl
@[simp] theorem State.setChan_seqNo (s : State) (n : Nat) (v : Chan) : (s.setChan n v).seqNo = s.seqNo := rfl
@[simp] theorem State.setChan_fresh (s : State) (n : Nat) (v : Chan) : (s.setChan n v).fresh = s.fresh := rfl
@[simp] theorem State.setChan_curCell (s : State) (n : Nat) (v : Chan) : (s.setChan n v).curCell = s.curCell := rfl
@[simp] theorem State.setChan_curSlot (s : State) (n : Nat) (v : Chan) : (s.setChan n v).curSlot = s.curSlot := rfl
@[simp] theorem State.setChan_curPilot (s : State) (n : Nat) (v : Chan) : (s.setChan n v).curPilot = s.curPilot := rfl
@[simp] theorem State.setChan_fired (s : State) (n : Nat) (v : Chan) : (s.setChan n v).fired = s.fired := rfl
@[simp] theorem State.setChan_mem (s : State) (n : Nat) (v : Chan) : (s.setChan n v).mem = s.mem := rfl
@[simp] theorem State.setChan_memKey (s : State) (n : Nat) (v : Chan) : (s.setChan n v).memKey = s.memKey := rfl
@[simp] theorem State.setChan_poison (s : State) (n : Nat) (v : Chan) : (s.setChan n v).poison = s.poison := rfl
@[simp] theorem State.setChan_llc (s : State) (n : Nat) (v : Chan) : (s.setChan n v).llc = s.llc := rfl
@[simp] theorem State.setChan_keySlots (s : State) (n : Nat) (v : Chan) : (s.setChan n v).keySlots = s.keySlots := rfl
@[simp] theorem State.setChan_cells (s : State) (n : Nat) (v : Chan) : (s.setChan n v).cells = s.cells := rfl
@[simp] theorem State.setChan_pilots (s : State) (n : Nat) (v : Chan) : (s.setChan n v).pilots = s.pilots := rfl
@[simp] theorem State.setChan_beacons (s : State) (n : Nat) (v : Chan) : (s.setChan n v).beacons = s.beacons := rfl
@[simp] theorem State.setChan_parts (s : State) (n : Nat) (v : Chan) : (s.setChan n v).parts = s.parts := rfl
@[simp] theorem State.setChan_vds (s : State) (n : Nat) (v : Chan) : (s.setChan n v).vds = s.vds := rfl
@[simp] theorem State.setChan_regions (s : State) (n : Nat) (v : Chan) : (s.setChan n v).regions = s.regions := rfl
@[simp] theorem State.setChan_saves (s : State) (n : Nat) (v : Chan) : (s.setChan n v).saves = s.saves := rfl
@[simp] theorem State.setChan_reqs (s : State) (n : Nat) (v : Chan) : (s.setChan n v).reqs = s.reqs := rfl
@[simp] theorem State.setChan_passes (s : State) (n : Nat) (v : Chan) : (s.setChan n v).passes = s.passes := rfl
@[simp] theorem State.setChan_cleared (s : State) (n : Nat) (v : Chan) : (s.setChan n v).cleared = s.cleared := rfl
@[simp] theorem State.setChan_paid (s : State) (n : Nat) (v : Chan) : (s.setChan n v).paid = s.paid := rfl
@[simp] theorem State.setChan_records (s : State) (n : Nat) (v : Chan) : (s.setChan n v).records = s.records := rfl
@[simp] theorem State.setChan_arbs (s : State) (n : Nat) (v : Chan) : (s.setChan n v).arbs = s.arbs := rfl
@[simp] theorem State.setChan_ports (s : State) (n : Nat) (v : Chan) : (s.setChan n v).ports = s.ports := rfl
@[simp] theorem State.setChan_host (s : State) (n : Nat) (v : Chan) : (s.setChan n v).host = s.host := rfl
@[simp] theorem State.modChan_clk (s : State) (n : Nat) (f : Chan → Chan) : (s.modChan n f).clk = s.clk := rfl
@[simp] theorem State.modChan_phase (s : State) (n : Nat) (f : Chan → Chan) : (s.modChan n f).phase = s.phase := rfl
@[simp] theorem State.modChan_agenda (s : State) (n : Nat) (f : Chan → Chan) : (s.modChan n f).agenda = s.agenda := rfl
@[simp] theorem State.modChan_inputs (s : State) (n : Nat) (f : Chan → Chan) : (s.modChan n f).inputs = s.inputs := rfl
@[simp] theorem State.modChan_acts (s : State) (n : Nat) (f : Chan → Chan) : (s.modChan n f).acts = s.acts := rfl
@[simp] theorem State.modChan_pend (s : State) (n : Nat) (f : Chan → Chan) : (s.modChan n f).pend = s.pend := rfl
@[simp] theorem State.modChan_seqNo (s : State) (n : Nat) (f : Chan → Chan) : (s.modChan n f).seqNo = s.seqNo := rfl
@[simp] theorem State.modChan_fresh (s : State) (n : Nat) (f : Chan → Chan) : (s.modChan n f).fresh = s.fresh := rfl
@[simp] theorem State.modChan_curCell (s : State) (n : Nat) (f : Chan → Chan) : (s.modChan n f).curCell = s.curCell := rfl
@[simp] theorem State.modChan_curSlot (s : State) (n : Nat) (f : Chan → Chan) : (s.modChan n f).curSlot = s.curSlot := rfl
@[simp] theorem State.modChan_curPilot (s : State) (n : Nat) (f : Chan → Chan) : (s.modChan n f).curPilot = s.curPilot := rfl
@[simp] theorem State.modChan_fired (s : State) (n : Nat) (f : Chan → Chan) : (s.modChan n f).fired = s.fired := rfl
@[simp] theorem State.modChan_mem (s : State) (n : Nat) (f : Chan → Chan) : (s.modChan n f).mem = s.mem := rfl
@[simp] theorem State.modChan_memKey (s : State) (n : Nat) (f : Chan → Chan) : (s.modChan n f).memKey = s.memKey := rfl
@[simp] theorem State.modChan_poison (s : State) (n : Nat) (f : Chan → Chan) : (s.modChan n f).poison = s.poison := rfl
@[simp] theorem State.modChan_llc (s : State) (n : Nat) (f : Chan → Chan) : (s.modChan n f).llc = s.llc := rfl
@[simp] theorem State.modChan_keySlots (s : State) (n : Nat) (f : Chan → Chan) : (s.modChan n f).keySlots = s.keySlots := rfl
@[simp] theorem State.modChan_cells (s : State) (n : Nat) (f : Chan → Chan) : (s.modChan n f).cells = s.cells := rfl
@[simp] theorem State.modChan_pilots (s : State) (n : Nat) (f : Chan → Chan) : (s.modChan n f).pilots = s.pilots := rfl
@[simp] theorem State.modChan_beacons (s : State) (n : Nat) (f : Chan → Chan) : (s.modChan n f).beacons = s.beacons := rfl
@[simp] theorem State.modChan_parts (s : State) (n : Nat) (f : Chan → Chan) : (s.modChan n f).parts = s.parts := rfl
@[simp] theorem State.modChan_vds (s : State) (n : Nat) (f : Chan → Chan) : (s.modChan n f).vds = s.vds := rfl
@[simp] theorem State.modChan_regions (s : State) (n : Nat) (f : Chan → Chan) : (s.modChan n f).regions = s.regions := rfl
@[simp] theorem State.modChan_saves (s : State) (n : Nat) (f : Chan → Chan) : (s.modChan n f).saves = s.saves := rfl
@[simp] theorem State.modChan_reqs (s : State) (n : Nat) (f : Chan → Chan) : (s.modChan n f).reqs = s.reqs := rfl
@[simp] theorem State.modChan_passes (s : State) (n : Nat) (f : Chan → Chan) : (s.modChan n f).passes = s.passes := rfl
@[simp] theorem State.modChan_cleared (s : State) (n : Nat) (f : Chan → Chan) : (s.modChan n f).cleared = s.cleared := rfl
@[simp] theorem State.modChan_paid (s : State) (n : Nat) (f : Chan → Chan) : (s.modChan n f).paid = s.paid := rfl
@[simp] theorem State.modChan_records (s : State) (n : Nat) (f : Chan → Chan) : (s.modChan n f).records = s.records := rfl
@[simp] theorem State.modChan_arbs (s : State) (n : Nat) (f : Chan → Chan) : (s.modChan n f).arbs = s.arbs := rfl
@[simp] theorem State.modChan_ports (s : State) (n : Nat) (f : Chan → Chan) : (s.modChan n f).ports = s.ports := rfl
@[simp] theorem State.modChan_host (s : State) (n : Nat) (f : Chan → Chan) : (s.modChan n f).host = s.host := rfl
@[simp] theorem State.at_clk (s : State) (d k n : Nat) (e : Instr) : (s.at d k n e).clk = s.clk := rfl
@[simp] theorem State.at_phase (s : State) (d k n : Nat) (e : Instr) : (s.at d k n e).phase = s.phase := rfl
@[simp] theorem State.at_agenda (s : State) (d k n : Nat) (e : Instr) : (s.at d k n e).agenda = s.agenda := rfl
@[simp] theorem State.at_inputs (s : State) (d k n : Nat) (e : Instr) : (s.at d k n e).inputs = s.inputs := rfl
@[simp] theorem State.at_acts (s : State) (d k n : Nat) (e : Instr) : (s.at d k n e).acts = s.acts := rfl
@[simp] theorem State.at_fresh (s : State) (d k n : Nat) (e : Instr) : (s.at d k n e).fresh = s.fresh := rfl
@[simp] theorem State.at_curCell (s : State) (d k n : Nat) (e : Instr) : (s.at d k n e).curCell = s.curCell := rfl
@[simp] theorem State.at_curSlot (s : State) (d k n : Nat) (e : Instr) : (s.at d k n e).curSlot = s.curSlot := rfl
@[simp] theorem State.at_curPilot (s : State) (d k n : Nat) (e : Instr) : (s.at d k n e).curPilot = s.curPilot := rfl
@[simp] theorem State.at_fired (s : State) (d k n : Nat) (e : Instr) : (s.at d k n e).fired = s.fired := rfl
@[simp] theorem State.at_mem (s : State) (d k n : Nat) (e : Instr) : (s.at d k n e).mem = s.mem := rfl
@[simp] theorem State.at_memKey (s : State) (d k n : Nat) (e : Instr) : (s.at d k n e).memKey = s.memKey := rfl
@[simp] theorem State.at_poison (s : State) (d k n : Nat) (e : Instr) : (s.at d k n e).poison = s.poison := rfl
@[simp] theorem State.at_llc (s : State) (d k n : Nat) (e : Instr) : (s.at d k n e).llc = s.llc := rfl
@[simp] theorem State.at_keySlots (s : State) (d k n : Nat) (e : Instr) : (s.at d k n e).keySlots = s.keySlots := rfl
@[simp] theorem State.at_cells (s : State) (d k n : Nat) (e : Instr) : (s.at d k n e).cells = s.cells := rfl
@[simp] theorem State.at_quays (s : State) (d k n : Nat) (e : Instr) : (s.at d k n e).quays = s.quays := rfl
@[simp] theorem State.at_pilots (s : State) (d k n : Nat) (e : Instr) : (s.at d k n e).pilots = s.pilots := rfl
@[simp] theorem State.at_beacons (s : State) (d k n : Nat) (e : Instr) : (s.at d k n e).beacons = s.beacons := rfl
@[simp] theorem State.at_parts (s : State) (d k n : Nat) (e : Instr) : (s.at d k n e).parts = s.parts := rfl
@[simp] theorem State.at_vds (s : State) (d k n : Nat) (e : Instr) : (s.at d k n e).vds = s.vds := rfl
@[simp] theorem State.at_regions (s : State) (d k n : Nat) (e : Instr) : (s.at d k n e).regions = s.regions := rfl
@[simp] theorem State.at_saves (s : State) (d k n : Nat) (e : Instr) : (s.at d k n e).saves = s.saves := rfl
@[simp] theorem State.at_reqs (s : State) (d k n : Nat) (e : Instr) : (s.at d k n e).reqs = s.reqs := rfl
@[simp] theorem State.at_passes (s : State) (d k n : Nat) (e : Instr) : (s.at d k n e).passes = s.passes := rfl
@[simp] theorem State.at_cleared (s : State) (d k n : Nat) (e : Instr) : (s.at d k n e).cleared = s.cleared := rfl
@[simp] theorem State.at_paid (s : State) (d k n : Nat) (e : Instr) : (s.at d k n e).paid = s.paid := rfl
@[simp] theorem State.at_records (s : State) (d k n : Nat) (e : Instr) : (s.at d k n e).records = s.records := rfl
@[simp] theorem State.at_arbs (s : State) (d k n : Nat) (e : Instr) : (s.at d k n e).arbs = s.arbs := rfl
@[simp] theorem State.at_ports (s : State) (d k n : Nat) (e : Instr) : (s.at d k n e).ports = s.ports := rfl
@[simp] theorem State.at_host (s : State) (d k n : Nat) (e : Instr) : (s.at d k n e).host = s.host := rfl
@[simp] theorem State.post_clk (s : State) (p n : Nat) (c : Option Nat) (b : Wide) : (s.post p n c b).clk = s.clk := rfl
@[simp] theorem State.post_phase (s : State) (p n : Nat) (c : Option Nat) (b : Wide) : (s.post p n c b).phase = s.phase := rfl
@[simp] theorem State.post_agenda (s : State) (p n : Nat) (c : Option Nat) (b : Wide) : (s.post p n c b).agenda = s.agenda := rfl
@[simp] theorem State.post_inputs (s : State) (p n : Nat) (c : Option Nat) (b : Wide) : (s.post p n c b).inputs = s.inputs := rfl
@[simp] theorem State.post_acts (s : State) (p n : Nat) (c : Option Nat) (b : Wide) : (s.post p n c b).acts = s.acts := rfl
@[simp] theorem State.post_pend (s : State) (p n : Nat) (c : Option Nat) (b : Wide) : (s.post p n c b).pend = s.pend := rfl
@[simp] theorem State.post_seqNo (s : State) (p n : Nat) (c : Option Nat) (b : Wide) : (s.post p n c b).seqNo = s.seqNo := rfl
@[simp] theorem State.post_fresh (s : State) (p n : Nat) (c : Option Nat) (b : Wide) : (s.post p n c b).fresh = s.fresh := rfl
@[simp] theorem State.post_curCell (s : State) (p n : Nat) (c : Option Nat) (b : Wide) : (s.post p n c b).curCell = s.curCell := rfl
@[simp] theorem State.post_curSlot (s : State) (p n : Nat) (c : Option Nat) (b : Wide) : (s.post p n c b).curSlot = s.curSlot := rfl
@[simp] theorem State.post_curPilot (s : State) (p n : Nat) (c : Option Nat) (b : Wide) : (s.post p n c b).curPilot = s.curPilot := rfl
@[simp] theorem State.post_fired (s : State) (p n : Nat) (c : Option Nat) (b : Wide) : (s.post p n c b).fired = s.fired := rfl
@[simp] theorem State.post_mem (s : State) (p n : Nat) (c : Option Nat) (b : Wide) : (s.post p n c b).mem = s.mem := rfl
@[simp] theorem State.post_memKey (s : State) (p n : Nat) (c : Option Nat) (b : Wide) : (s.post p n c b).memKey = s.memKey := rfl
@[simp] theorem State.post_poison (s : State) (p n : Nat) (c : Option Nat) (b : Wide) : (s.post p n c b).poison = s.poison := rfl
@[simp] theorem State.post_llc (s : State) (p n : Nat) (c : Option Nat) (b : Wide) : (s.post p n c b).llc = s.llc := rfl
@[simp] theorem State.post_keySlots (s : State) (p n : Nat) (c : Option Nat) (b : Wide) : (s.post p n c b).keySlots = s.keySlots := rfl
@[simp] theorem State.post_cells (s : State) (p n : Nat) (c : Option Nat) (b : Wide) : (s.post p n c b).cells = s.cells := rfl
@[simp] theorem State.post_quays (s : State) (p n : Nat) (c : Option Nat) (b : Wide) : (s.post p n c b).quays = s.quays := rfl
@[simp] theorem State.post_pilots (s : State) (p n : Nat) (c : Option Nat) (b : Wide) : (s.post p n c b).pilots = s.pilots := rfl
@[simp] theorem State.post_beacons (s : State) (p n : Nat) (c : Option Nat) (b : Wide) : (s.post p n c b).beacons = s.beacons := rfl
@[simp] theorem State.post_parts (s : State) (p n : Nat) (c : Option Nat) (b : Wide) : (s.post p n c b).parts = s.parts := rfl
@[simp] theorem State.post_vds (s : State) (p n : Nat) (c : Option Nat) (b : Wide) : (s.post p n c b).vds = s.vds := rfl
@[simp] theorem State.post_regions (s : State) (p n : Nat) (c : Option Nat) (b : Wide) : (s.post p n c b).regions = s.regions := rfl
@[simp] theorem State.post_saves (s : State) (p n : Nat) (c : Option Nat) (b : Wide) : (s.post p n c b).saves = s.saves := rfl
@[simp] theorem State.post_reqs (s : State) (p n : Nat) (c : Option Nat) (b : Wide) : (s.post p n c b).reqs = s.reqs := rfl
@[simp] theorem State.post_passes (s : State) (p n : Nat) (c : Option Nat) (b : Wide) : (s.post p n c b).passes = s.passes := rfl
@[simp] theorem State.post_cleared (s : State) (p n : Nat) (c : Option Nat) (b : Wide) : (s.post p n c b).cleared = s.cleared := rfl
@[simp] theorem State.post_paid (s : State) (p n : Nat) (c : Option Nat) (b : Wide) : (s.post p n c b).paid = s.paid := rfl
@[simp] theorem State.post_arbs (s : State) (p n : Nat) (c : Option Nat) (b : Wide) : (s.post p n c b).arbs = s.arbs := rfl
@[simp] theorem State.post_ports (s : State) (p n : Nat) (c : Option Nat) (b : Wide) : (s.post p n c b).ports = s.ports := rfl
@[simp] theorem State.post_host (s : State) (p n : Nat) (c : Option Nat) (b : Wide) : (s.post p n c b).host = s.host := rfl
@[simp] theorem State.modMe_clk (s : State) (f : Pilot → Pilot) : (s.modMe f).clk = s.clk := rfl
@[simp] theorem State.modMe_phase (s : State) (f : Pilot → Pilot) : (s.modMe f).phase = s.phase := rfl
@[simp] theorem State.modMe_agenda (s : State) (f : Pilot → Pilot) : (s.modMe f).agenda = s.agenda := rfl
@[simp] theorem State.modMe_inputs (s : State) (f : Pilot → Pilot) : (s.modMe f).inputs = s.inputs := rfl
@[simp] theorem State.modMe_acts (s : State) (f : Pilot → Pilot) : (s.modMe f).acts = s.acts := rfl
@[simp] theorem State.modMe_pend (s : State) (f : Pilot → Pilot) : (s.modMe f).pend = s.pend := rfl
@[simp] theorem State.modMe_seqNo (s : State) (f : Pilot → Pilot) : (s.modMe f).seqNo = s.seqNo := rfl
@[simp] theorem State.modMe_fresh (s : State) (f : Pilot → Pilot) : (s.modMe f).fresh = s.fresh := rfl
@[simp] theorem State.modMe_curCell (s : State) (f : Pilot → Pilot) : (s.modMe f).curCell = s.curCell := rfl
@[simp] theorem State.modMe_curSlot (s : State) (f : Pilot → Pilot) : (s.modMe f).curSlot = s.curSlot := rfl
@[simp] theorem State.modMe_curPilot (s : State) (f : Pilot → Pilot) : (s.modMe f).curPilot = s.curPilot := rfl
@[simp] theorem State.modMe_fired (s : State) (f : Pilot → Pilot) : (s.modMe f).fired = s.fired := rfl
@[simp] theorem State.modMe_mem (s : State) (f : Pilot → Pilot) : (s.modMe f).mem = s.mem := rfl
@[simp] theorem State.modMe_memKey (s : State) (f : Pilot → Pilot) : (s.modMe f).memKey = s.memKey := rfl
@[simp] theorem State.modMe_poison (s : State) (f : Pilot → Pilot) : (s.modMe f).poison = s.poison := rfl
@[simp] theorem State.modMe_llc (s : State) (f : Pilot → Pilot) : (s.modMe f).llc = s.llc := rfl
@[simp] theorem State.modMe_keySlots (s : State) (f : Pilot → Pilot) : (s.modMe f).keySlots = s.keySlots := rfl
@[simp] theorem State.modMe_cells (s : State) (f : Pilot → Pilot) : (s.modMe f).cells = s.cells := rfl
@[simp] theorem State.modMe_quays (s : State) (f : Pilot → Pilot) : (s.modMe f).quays = s.quays := rfl
@[simp] theorem State.modMe_beacons (s : State) (f : Pilot → Pilot) : (s.modMe f).beacons = s.beacons := rfl
@[simp] theorem State.modMe_parts (s : State) (f : Pilot → Pilot) : (s.modMe f).parts = s.parts := rfl
@[simp] theorem State.modMe_vds (s : State) (f : Pilot → Pilot) : (s.modMe f).vds = s.vds := rfl
@[simp] theorem State.modMe_regions (s : State) (f : Pilot → Pilot) : (s.modMe f).regions = s.regions := rfl
@[simp] theorem State.modMe_saves (s : State) (f : Pilot → Pilot) : (s.modMe f).saves = s.saves := rfl
@[simp] theorem State.modMe_reqs (s : State) (f : Pilot → Pilot) : (s.modMe f).reqs = s.reqs := rfl
@[simp] theorem State.modMe_passes (s : State) (f : Pilot → Pilot) : (s.modMe f).passes = s.passes := rfl
@[simp] theorem State.modMe_cleared (s : State) (f : Pilot → Pilot) : (s.modMe f).cleared = s.cleared := rfl
@[simp] theorem State.modMe_paid (s : State) (f : Pilot → Pilot) : (s.modMe f).paid = s.paid := rfl
@[simp] theorem State.modMe_records (s : State) (f : Pilot → Pilot) : (s.modMe f).records = s.records := rfl
@[simp] theorem State.modMe_arbs (s : State) (f : Pilot → Pilot) : (s.modMe f).arbs = s.arbs := rfl
@[simp] theorem State.modMe_ports (s : State) (f : Pilot → Pilot) : (s.modMe f).ports = s.ports := rfl
@[simp] theorem State.modMe_host (s : State) (f : Pilot → Pilot) : (s.modMe f).host = s.host := rfl
@[simp] theorem State.ret_clk (s : State) (d : Fin 32) (v : DWord) : (s.ret d v).clk = s.clk := rfl
@[simp] theorem State.ret_phase (s : State) (d : Fin 32) (v : DWord) : (s.ret d v).phase = s.phase := rfl
@[simp] theorem State.ret_agenda (s : State) (d : Fin 32) (v : DWord) : (s.ret d v).agenda = s.agenda := rfl
@[simp] theorem State.ret_inputs (s : State) (d : Fin 32) (v : DWord) : (s.ret d v).inputs = s.inputs := rfl
@[simp] theorem State.ret_acts (s : State) (d : Fin 32) (v : DWord) : (s.ret d v).acts = s.acts := rfl
@[simp] theorem State.ret_pend (s : State) (d : Fin 32) (v : DWord) : (s.ret d v).pend = s.pend := rfl
@[simp] theorem State.ret_seqNo (s : State) (d : Fin 32) (v : DWord) : (s.ret d v).seqNo = s.seqNo := rfl
@[simp] theorem State.ret_fresh (s : State) (d : Fin 32) (v : DWord) : (s.ret d v).fresh = s.fresh := rfl
@[simp] theorem State.ret_curCell (s : State) (d : Fin 32) (v : DWord) : (s.ret d v).curCell = s.curCell := rfl
@[simp] theorem State.ret_curSlot (s : State) (d : Fin 32) (v : DWord) : (s.ret d v).curSlot = s.curSlot := rfl
@[simp] theorem State.ret_curPilot (s : State) (d : Fin 32) (v : DWord) : (s.ret d v).curPilot = s.curPilot := rfl
@[simp] theorem State.ret_fired (s : State) (d : Fin 32) (v : DWord) : (s.ret d v).fired = s.fired := rfl
@[simp] theorem State.ret_mem (s : State) (d : Fin 32) (v : DWord) : (s.ret d v).mem = s.mem := rfl
@[simp] theorem State.ret_memKey (s : State) (d : Fin 32) (v : DWord) : (s.ret d v).memKey = s.memKey := rfl
@[simp] theorem State.ret_poison (s : State) (d : Fin 32) (v : DWord) : (s.ret d v).poison = s.poison := rfl
@[simp] theorem State.ret_llc (s : State) (d : Fin 32) (v : DWord) : (s.ret d v).llc = s.llc := rfl
@[simp] theorem State.ret_keySlots (s : State) (d : Fin 32) (v : DWord) : (s.ret d v).keySlots = s.keySlots := rfl
@[simp] theorem State.ret_cells (s : State) (d : Fin 32) (v : DWord) : (s.ret d v).cells = s.cells := rfl
@[simp] theorem State.ret_quays (s : State) (d : Fin 32) (v : DWord) : (s.ret d v).quays = s.quays := rfl
@[simp] theorem State.ret_beacons (s : State) (d : Fin 32) (v : DWord) : (s.ret d v).beacons = s.beacons := rfl
@[simp] theorem State.ret_parts (s : State) (d : Fin 32) (v : DWord) : (s.ret d v).parts = s.parts := rfl
@[simp] theorem State.ret_vds (s : State) (d : Fin 32) (v : DWord) : (s.ret d v).vds = s.vds := rfl
@[simp] theorem State.ret_regions (s : State) (d : Fin 32) (v : DWord) : (s.ret d v).regions = s.regions := rfl
@[simp] theorem State.ret_saves (s : State) (d : Fin 32) (v : DWord) : (s.ret d v).saves = s.saves := rfl
@[simp] theorem State.ret_reqs (s : State) (d : Fin 32) (v : DWord) : (s.ret d v).reqs = s.reqs := rfl
@[simp] theorem State.ret_passes (s : State) (d : Fin 32) (v : DWord) : (s.ret d v).passes = s.passes := rfl
@[simp] theorem State.ret_cleared (s : State) (d : Fin 32) (v : DWord) : (s.ret d v).cleared = s.cleared := rfl
@[simp] theorem State.ret_paid (s : State) (d : Fin 32) (v : DWord) : (s.ret d v).paid = s.paid := rfl
@[simp] theorem State.ret_records (s : State) (d : Fin 32) (v : DWord) : (s.ret d v).records = s.records := rfl
@[simp] theorem State.ret_arbs (s : State) (d : Fin 32) (v : DWord) : (s.ret d v).arbs = s.arbs := rfl
@[simp] theorem State.ret_ports (s : State) (d : Fin 32) (v : DWord) : (s.ret d v).ports = s.ports := rfl
@[simp] theorem State.ret_host (s : State) (d : Fin 32) (v : DWord) : (s.ret d v).host = s.host := rfl
@[simp] theorem State.trap_clk (s : State) (k v : DWord) : (s.trap k v).clk = s.clk := rfl
@[simp] theorem State.trap_phase (s : State) (k v : DWord) : (s.trap k v).phase = s.phase := rfl
@[simp] theorem State.trap_agenda (s : State) (k v : DWord) : (s.trap k v).agenda = s.agenda := rfl
@[simp] theorem State.trap_inputs (s : State) (k v : DWord) : (s.trap k v).inputs = s.inputs := rfl
@[simp] theorem State.trap_acts (s : State) (k v : DWord) : (s.trap k v).acts = s.acts := rfl
@[simp] theorem State.trap_pend (s : State) (k v : DWord) : (s.trap k v).pend = s.pend := rfl
@[simp] theorem State.trap_seqNo (s : State) (k v : DWord) : (s.trap k v).seqNo = s.seqNo := rfl
@[simp] theorem State.trap_fresh (s : State) (k v : DWord) : (s.trap k v).fresh = s.fresh := rfl
@[simp] theorem State.trap_curCell (s : State) (k v : DWord) : (s.trap k v).curCell = s.curCell := rfl
@[simp] theorem State.trap_curSlot (s : State) (k v : DWord) : (s.trap k v).curSlot = s.curSlot := rfl
@[simp] theorem State.trap_curPilot (s : State) (k v : DWord) : (s.trap k v).curPilot = s.curPilot := rfl
@[simp] theorem State.trap_fired (s : State) (k v : DWord) : (s.trap k v).fired = s.fired := rfl
@[simp] theorem State.trap_mem (s : State) (k v : DWord) : (s.trap k v).mem = s.mem := rfl
@[simp] theorem State.trap_memKey (s : State) (k v : DWord) : (s.trap k v).memKey = s.memKey := rfl
@[simp] theorem State.trap_poison (s : State) (k v : DWord) : (s.trap k v).poison = s.poison := rfl
@[simp] theorem State.trap_llc (s : State) (k v : DWord) : (s.trap k v).llc = s.llc := rfl
@[simp] theorem State.trap_keySlots (s : State) (k v : DWord) : (s.trap k v).keySlots = s.keySlots := rfl
@[simp] theorem State.trap_cells (s : State) (k v : DWord) : (s.trap k v).cells = s.cells := rfl
@[simp] theorem State.trap_quays (s : State) (k v : DWord) : (s.trap k v).quays = s.quays := rfl
@[simp] theorem State.trap_beacons (s : State) (k v : DWord) : (s.trap k v).beacons = s.beacons := rfl
@[simp] theorem State.trap_parts (s : State) (k v : DWord) : (s.trap k v).parts = s.parts := rfl
@[simp] theorem State.trap_vds (s : State) (k v : DWord) : (s.trap k v).vds = s.vds := rfl
@[simp] theorem State.trap_regions (s : State) (k v : DWord) : (s.trap k v).regions = s.regions := rfl
@[simp] theorem State.trap_saves (s : State) (k v : DWord) : (s.trap k v).saves = s.saves := rfl
@[simp] theorem State.trap_reqs (s : State) (k v : DWord) : (s.trap k v).reqs = s.reqs := rfl
@[simp] theorem State.trap_passes (s : State) (k v : DWord) : (s.trap k v).passes = s.passes := rfl
@[simp] theorem State.trap_cleared (s : State) (k v : DWord) : (s.trap k v).cleared = s.cleared := rfl
@[simp] theorem State.trap_paid (s : State) (k v : DWord) : (s.trap k v).paid = s.paid := rfl
@[simp] theorem State.trap_records (s : State) (k v : DWord) : (s.trap k v).records = s.records := rfl
@[simp] theorem State.trap_arbs (s : State) (k v : DWord) : (s.trap k v).arbs = s.arbs := rfl
@[simp] theorem State.trap_ports (s : State) (k v : DWord) : (s.trap k v).ports = s.ports := rfl
@[simp] theorem State.trap_host (s : State) (k v : DWord) : (s.trap k v).host = s.host := rfl
@[simp] theorem Cell.setSlot_region (c : Cell) (i : Nat) (v : Slot) : (c.setSlot i v).region = c.region := rfl
@[simp] theorem Cell.setSlot_ctxs (c : Cell) (i : Nat) (v : Slot) : (c.setSlot i v).ctxs = c.ctxs := rfl
@[simp] theorem Cell.setSlot_w (c : Cell) (i : Nat) (v : Slot) : (c.setSlot i v).w = c.w := rfl
@[simp] theorem Cell.setSlot_p (c : Cell) (i : Nat) (v : Slot) : (c.setSlot i v).p = c.p := rfl
@[simp] theorem Cell.setSlot_flags (c : Cell) (i : Nat) (v : Slot) : (c.setSlot i v).flags = c.flags := rfl
@[simp] theorem Cell.setSlot_cfmt (c : Cell) (i : Nat) (v : Slot) : (c.setSlot i v).cfmt = c.cfmt := rfl
@[simp] theorem Cell.setSlot_seqc (c : Cell) (i : Nat) (v : Slot) : (c.setSlot i v).seqc = c.seqc := rfl
@[simp] theorem Cell.setSlot_ab (c : Cell) (i : Nat) (v : Slot) : (c.setSlot i v).ab = c.ab := rfl
@[simp] theorem Cell.setSlot_actx (c : Cell) (i : Nat) (v : Slot) : (c.setSlot i v).actx = c.actx := rfl
@[simp] theorem Cell.setSlot_swPend (c : Cell) (i : Nat) (v : Slot) : (c.setSlot i v).swPend = c.swPend := rfl
@[simp] theorem Cell.setSlot_swTgt (c : Cell) (i : Nat) (v : Slot) : (c.setSlot i v).swTgt = c.swTgt := rfl
@[simp] theorem Cell.setSlot_swcnt (c : Cell) (i : Nat) (v : Slot) : (c.setSlot i v).swcnt = c.swcnt := rfl
@[simp] theorem Cell.setSlot_road (c : Cell) (i : Nat) (v : Slot) : (c.setSlot i v).road = c.road := rfl
@[simp] theorem Cell.setSlot_outside (c : Cell) (i : Nat) (v : Slot) : (c.setSlot i v).outside = c.outside := rfl
@[simp] theorem Cell.setSlot_dly (c : Cell) (i : Nat) (v : Slot) : (c.setSlot i v).dly = c.dly := rfl
@[simp] theorem Cell.setSlot_bcred (c : Cell) (i : Nat) (v : Slot) : (c.setSlot i v).bcred = c.bcred := rfl
@[simp] theorem Cell.setSlot_raceLatch (c : Cell) (i : Nat) (v : Slot) : (c.setSlot i v).raceLatch = c.raceLatch := rfl
@[simp] theorem Cell.setSlot_raceCnt (c : Cell) (i : Nat) (v : Slot) : (c.setSlot i v).raceCnt = c.raceCnt := rfl
@[simp] theorem Cell.setSlot_tagNext (c : Cell) (i : Nat) (v : Slot) : (c.setSlot i v).tagNext = c.tagNext := rfl
@[simp] theorem Cell.setSlot_tagOld (c : Cell) (i : Nat) (v : Slot) : (c.setSlot i v).tagOld = c.tagOld := rfl
@[simp] theorem Cell.setSlot_tagSize (c : Cell) (i : Nat) (v : Slot) : (c.setSlot i v).tagSize = c.tagSize := rfl
@[simp] theorem Cell.setSlot_tagMap (c : Cell) (i : Nat) (v : Slot) : (c.setSlot i v).tagMap = c.tagMap := rfl
@[simp] theorem Cell.setSlot_mx (c : Cell) (i : Nat) (v : Slot) : (c.setSlot i v).mx = c.mx := rfl
@[simp] theorem Cell.setSlot_evtBusy (c : Cell) (i : Nat) (v : Slot) : (c.setSlot i v).evtBusy = c.evtBusy := rfl
@[simp] theorem Cell.setSlot_arrBits (c : Cell) (i : Nat) (v : Slot) : (c.setSlot i v).arrBits = c.arrBits := rfl
@[simp] theorem Cell.setSlot_stop (c : Cell) (i : Nat) (v : Slot) : (c.setSlot i v).stop = c.stop := rfl
@[simp] theorem Cell.setSlot_fw (c : Cell) (i : Nat) (v : Slot) : (c.setSlot i v).fw = c.fw := rfl
@[simp] theorem Cell.setSlot_coal (c : Cell) (i : Nat) (v : Slot) : (c.setSlot i v).coal = c.coal := rfl
@[simp] theorem Cell.setSlot_outOrd (c : Cell) (i : Nat) (v : Slot) : (c.setSlot i v).outOrd = c.outOrd := rfl
@[simp] theorem Cell.setSlot_outUnord (c : Cell) (i : Nat) (v : Slot) : (c.setSlot i v).outUnord = c.outUnord := rfl
@[simp] theorem Cell.setSlot_owned (c : Cell) (i : Nat) (v : Slot) : (c.setSlot i v).owned = c.owned := rfl
@[simp] theorem Cell.setSlot_trans (c : Cell) (i : Nat) (v : Slot) : (c.setSlot i v).trans = c.trans := rfl
@[simp] theorem Cell.setSlot_flush (c : Cell) (i : Nat) (v : Slot) : (c.setSlot i v).flush = c.flush := rfl
@[simp] theorem Cell.setSlot_chwBusy (c : Cell) (i : Nat) (v : Slot) : (c.setSlot i v).chwBusy = c.chwBusy := rfl
@[simp] theorem Cell.setSlot_chrBusy (c : Cell) (i : Nat) (v : Slot) : (c.setSlot i v).chrBusy = c.chrBusy := rfl
@[simp] theorem Cell.setSlot_acted (c : Cell) (i : Nat) (v : Slot) : (c.setSlot i v).acted = c.acted := rfl
@[simp] theorem Cell.setSlot_joined (c : Cell) (i : Nat) (v : Slot) : (c.setSlot i v).joined = c.joined := rfl
@[simp] theorem Cell.setSlot_snap (c : Cell) (i : Nat) (v : Slot) : (c.setSlot i v).snap = c.snap := rfl
@[simp] theorem Cell.setSlot_freed (c : Cell) (i : Nat) (v : Slot) : (c.setSlot i v).freed = c.freed := rfl
@[simp] theorem Cell.setSlot_lands (c : Cell) (i : Nat) (v : Slot) : (c.setSlot i v).lands = c.lands := rfl
@[simp] theorem Cell.setCtx_region (c : Cell) (x : Fin 4) (v : Ctx) : (c.setCtx x v).region = c.region := rfl
@[simp] theorem Cell.setCtx_w (c : Cell) (x : Fin 4) (v : Ctx) : (c.setCtx x v).w = c.w := rfl
@[simp] theorem Cell.setCtx_p (c : Cell) (x : Fin 4) (v : Ctx) : (c.setCtx x v).p = c.p := rfl
@[simp] theorem Cell.setCtx_flags (c : Cell) (x : Fin 4) (v : Ctx) : (c.setCtx x v).flags = c.flags := rfl
@[simp] theorem Cell.setCtx_cfmt (c : Cell) (x : Fin 4) (v : Ctx) : (c.setCtx x v).cfmt = c.cfmt := rfl
@[simp] theorem Cell.setCtx_seqc (c : Cell) (x : Fin 4) (v : Ctx) : (c.setCtx x v).seqc = c.seqc := rfl
@[simp] theorem Cell.setCtx_ab (c : Cell) (x : Fin 4) (v : Ctx) : (c.setCtx x v).ab = c.ab := rfl
@[simp] theorem Cell.setCtx_actx (c : Cell) (x : Fin 4) (v : Ctx) : (c.setCtx x v).actx = c.actx := rfl
@[simp] theorem Cell.setCtx_swPend (c : Cell) (x : Fin 4) (v : Ctx) : (c.setCtx x v).swPend = c.swPend := rfl
@[simp] theorem Cell.setCtx_swTgt (c : Cell) (x : Fin 4) (v : Ctx) : (c.setCtx x v).swTgt = c.swTgt := rfl
@[simp] theorem Cell.setCtx_swcnt (c : Cell) (x : Fin 4) (v : Ctx) : (c.setCtx x v).swcnt = c.swcnt := rfl
@[simp] theorem Cell.setCtx_store (c : Cell) (x : Fin 4) (v : Ctx) : (c.setCtx x v).store = c.store := rfl
@[simp] theorem Cell.setCtx_road (c : Cell) (x : Fin 4) (v : Ctx) : (c.setCtx x v).road = c.road := rfl
@[simp] theorem Cell.setCtx_outside (c : Cell) (x : Fin 4) (v : Ctx) : (c.setCtx x v).outside = c.outside := rfl
@[simp] theorem Cell.setCtx_dly (c : Cell) (x : Fin 4) (v : Ctx) : (c.setCtx x v).dly = c.dly := rfl
@[simp] theorem Cell.setCtx_bcred (c : Cell) (x : Fin 4) (v : Ctx) : (c.setCtx x v).bcred = c.bcred := rfl
@[simp] theorem Cell.setCtx_raceLatch (c : Cell) (x : Fin 4) (v : Ctx) : (c.setCtx x v).raceLatch = c.raceLatch := rfl
@[simp] theorem Cell.setCtx_raceCnt (c : Cell) (x : Fin 4) (v : Ctx) : (c.setCtx x v).raceCnt = c.raceCnt := rfl
@[simp] theorem Cell.setCtx_tagNext (c : Cell) (x : Fin 4) (v : Ctx) : (c.setCtx x v).tagNext = c.tagNext := rfl
@[simp] theorem Cell.setCtx_tagOld (c : Cell) (x : Fin 4) (v : Ctx) : (c.setCtx x v).tagOld = c.tagOld := rfl
@[simp] theorem Cell.setCtx_tagSize (c : Cell) (x : Fin 4) (v : Ctx) : (c.setCtx x v).tagSize = c.tagSize := rfl
@[simp] theorem Cell.setCtx_tagMap (c : Cell) (x : Fin 4) (v : Ctx) : (c.setCtx x v).tagMap = c.tagMap := rfl
@[simp] theorem Cell.setCtx_mx (c : Cell) (x : Fin 4) (v : Ctx) : (c.setCtx x v).mx = c.mx := rfl
@[simp] theorem Cell.setCtx_evtBusy (c : Cell) (x : Fin 4) (v : Ctx) : (c.setCtx x v).evtBusy = c.evtBusy := rfl
@[simp] theorem Cell.setCtx_arrBits (c : Cell) (x : Fin 4) (v : Ctx) : (c.setCtx x v).arrBits = c.arrBits := rfl
@[simp] theorem Cell.setCtx_stop (c : Cell) (x : Fin 4) (v : Ctx) : (c.setCtx x v).stop = c.stop := rfl
@[simp] theorem Cell.setCtx_fw (c : Cell) (x : Fin 4) (v : Ctx) : (c.setCtx x v).fw = c.fw := rfl
@[simp] theorem Cell.setCtx_coal (c : Cell) (x : Fin 4) (v : Ctx) : (c.setCtx x v).coal = c.coal := rfl
@[simp] theorem Cell.setCtx_outOrd (c : Cell) (x : Fin 4) (v : Ctx) : (c.setCtx x v).outOrd = c.outOrd := rfl
@[simp] theorem Cell.setCtx_outUnord (c : Cell) (x : Fin 4) (v : Ctx) : (c.setCtx x v).outUnord = c.outUnord := rfl
@[simp] theorem Cell.setCtx_owned (c : Cell) (x : Fin 4) (v : Ctx) : (c.setCtx x v).owned = c.owned := rfl
@[simp] theorem Cell.setCtx_trans (c : Cell) (x : Fin 4) (v : Ctx) : (c.setCtx x v).trans = c.trans := rfl
@[simp] theorem Cell.setCtx_flush (c : Cell) (x : Fin 4) (v : Ctx) : (c.setCtx x v).flush = c.flush := rfl
@[simp] theorem Cell.setCtx_chwBusy (c : Cell) (x : Fin 4) (v : Ctx) : (c.setCtx x v).chwBusy = c.chwBusy := rfl
@[simp] theorem Cell.setCtx_chrBusy (c : Cell) (x : Fin 4) (v : Ctx) : (c.setCtx x v).chrBusy = c.chrBusy := rfl
@[simp] theorem Cell.setCtx_acted (c : Cell) (x : Fin 4) (v : Ctx) : (c.setCtx x v).acted = c.acted := rfl
@[simp] theorem Cell.setCtx_joined (c : Cell) (x : Fin 4) (v : Ctx) : (c.setCtx x v).joined = c.joined := rfl
@[simp] theorem Cell.setCtx_snap (c : Cell) (x : Fin 4) (v : Ctx) : (c.setCtx x v).snap = c.snap := rfl
@[simp] theorem Cell.setCtx_freed (c : Cell) (x : Fin 4) (v : Ctx) : (c.setCtx x v).freed = c.freed := rfl
@[simp] theorem Cell.setCtx_lands (c : Cell) (x : Fin 4) (v : Ctx) : (c.setCtx x v).lands = c.lands := rfl
@[simp] theorem Cell.modCtx_region (c : Cell) (x : Fin 4) (f : Ctx → Ctx) : (c.modCtx x f).region = c.region := rfl
@[simp] theorem Cell.modCtx_w (c : Cell) (x : Fin 4) (f : Ctx → Ctx) : (c.modCtx x f).w = c.w := rfl
@[simp] theorem Cell.modCtx_p (c : Cell) (x : Fin 4) (f : Ctx → Ctx) : (c.modCtx x f).p = c.p := rfl
@[simp] theorem Cell.modCtx_flags (c : Cell) (x : Fin 4) (f : Ctx → Ctx) : (c.modCtx x f).flags = c.flags := rfl
@[simp] theorem Cell.modCtx_cfmt (c : Cell) (x : Fin 4) (f : Ctx → Ctx) : (c.modCtx x f).cfmt = c.cfmt := rfl
@[simp] theorem Cell.modCtx_seqc (c : Cell) (x : Fin 4) (f : Ctx → Ctx) : (c.modCtx x f).seqc = c.seqc := rfl
@[simp] theorem Cell.modCtx_ab (c : Cell) (x : Fin 4) (f : Ctx → Ctx) : (c.modCtx x f).ab = c.ab := rfl
@[simp] theorem Cell.modCtx_actx (c : Cell) (x : Fin 4) (f : Ctx → Ctx) : (c.modCtx x f).actx = c.actx := rfl
@[simp] theorem Cell.modCtx_swPend (c : Cell) (x : Fin 4) (f : Ctx → Ctx) : (c.modCtx x f).swPend = c.swPend := rfl
@[simp] theorem Cell.modCtx_swTgt (c : Cell) (x : Fin 4) (f : Ctx → Ctx) : (c.modCtx x f).swTgt = c.swTgt := rfl
@[simp] theorem Cell.modCtx_swcnt (c : Cell) (x : Fin 4) (f : Ctx → Ctx) : (c.modCtx x f).swcnt = c.swcnt := rfl
@[simp] theorem Cell.modCtx_store (c : Cell) (x : Fin 4) (f : Ctx → Ctx) : (c.modCtx x f).store = c.store := rfl
@[simp] theorem Cell.modCtx_road (c : Cell) (x : Fin 4) (f : Ctx → Ctx) : (c.modCtx x f).road = c.road := rfl
@[simp] theorem Cell.modCtx_outside (c : Cell) (x : Fin 4) (f : Ctx → Ctx) : (c.modCtx x f).outside = c.outside := rfl
@[simp] theorem Cell.modCtx_dly (c : Cell) (x : Fin 4) (f : Ctx → Ctx) : (c.modCtx x f).dly = c.dly := rfl
@[simp] theorem Cell.modCtx_bcred (c : Cell) (x : Fin 4) (f : Ctx → Ctx) : (c.modCtx x f).bcred = c.bcred := rfl
@[simp] theorem Cell.modCtx_raceLatch (c : Cell) (x : Fin 4) (f : Ctx → Ctx) : (c.modCtx x f).raceLatch = c.raceLatch := rfl
@[simp] theorem Cell.modCtx_raceCnt (c : Cell) (x : Fin 4) (f : Ctx → Ctx) : (c.modCtx x f).raceCnt = c.raceCnt := rfl
@[simp] theorem Cell.modCtx_tagNext (c : Cell) (x : Fin 4) (f : Ctx → Ctx) : (c.modCtx x f).tagNext = c.tagNext := rfl
@[simp] theorem Cell.modCtx_tagOld (c : Cell) (x : Fin 4) (f : Ctx → Ctx) : (c.modCtx x f).tagOld = c.tagOld := rfl
@[simp] theorem Cell.modCtx_tagSize (c : Cell) (x : Fin 4) (f : Ctx → Ctx) : (c.modCtx x f).tagSize = c.tagSize := rfl
@[simp] theorem Cell.modCtx_tagMap (c : Cell) (x : Fin 4) (f : Ctx → Ctx) : (c.modCtx x f).tagMap = c.tagMap := rfl
@[simp] theorem Cell.modCtx_mx (c : Cell) (x : Fin 4) (f : Ctx → Ctx) : (c.modCtx x f).mx = c.mx := rfl
@[simp] theorem Cell.modCtx_evtBusy (c : Cell) (x : Fin 4) (f : Ctx → Ctx) : (c.modCtx x f).evtBusy = c.evtBusy := rfl
@[simp] theorem Cell.modCtx_arrBits (c : Cell) (x : Fin 4) (f : Ctx → Ctx) : (c.modCtx x f).arrBits = c.arrBits := rfl
@[simp] theorem Cell.modCtx_stop (c : Cell) (x : Fin 4) (f : Ctx → Ctx) : (c.modCtx x f).stop = c.stop := rfl
@[simp] theorem Cell.modCtx_fw (c : Cell) (x : Fin 4) (f : Ctx → Ctx) : (c.modCtx x f).fw = c.fw := rfl
@[simp] theorem Cell.modCtx_coal (c : Cell) (x : Fin 4) (f : Ctx → Ctx) : (c.modCtx x f).coal = c.coal := rfl
@[simp] theorem Cell.modCtx_outOrd (c : Cell) (x : Fin 4) (f : Ctx → Ctx) : (c.modCtx x f).outOrd = c.outOrd := rfl
@[simp] theorem Cell.modCtx_outUnord (c : Cell) (x : Fin 4) (f : Ctx → Ctx) : (c.modCtx x f).outUnord = c.outUnord := rfl
@[simp] theorem Cell.modCtx_owned (c : Cell) (x : Fin 4) (f : Ctx → Ctx) : (c.modCtx x f).owned = c.owned := rfl
@[simp] theorem Cell.modCtx_trans (c : Cell) (x : Fin 4) (f : Ctx → Ctx) : (c.modCtx x f).trans = c.trans := rfl
@[simp] theorem Cell.modCtx_flush (c : Cell) (x : Fin 4) (f : Ctx → Ctx) : (c.modCtx x f).flush = c.flush := rfl
@[simp] theorem Cell.modCtx_chwBusy (c : Cell) (x : Fin 4) (f : Ctx → Ctx) : (c.modCtx x f).chwBusy = c.chwBusy := rfl
@[simp] theorem Cell.modCtx_chrBusy (c : Cell) (x : Fin 4) (f : Ctx → Ctx) : (c.modCtx x f).chrBusy = c.chrBusy := rfl
@[simp] theorem Cell.modCtx_acted (c : Cell) (x : Fin 4) (f : Ctx → Ctx) : (c.modCtx x f).acted = c.acted := rfl
@[simp] theorem Cell.modCtx_joined (c : Cell) (x : Fin 4) (f : Ctx → Ctx) : (c.modCtx x f).joined = c.joined := rfl
@[simp] theorem Cell.modCtx_snap (c : Cell) (x : Fin 4) (f : Ctx → Ctx) : (c.modCtx x f).snap = c.snap := rfl
@[simp] theorem Cell.modCtx_freed (c : Cell) (x : Fin 4) (f : Ctx → Ctx) : (c.modCtx x f).freed = c.freed := rfl
@[simp] theorem Cell.modCtx_lands (c : Cell) (x : Fin 4) (f : Ctx → Ctx) : (c.modCtx x f).lands = c.lands := rfl
@[simp] theorem Cell.flagged_region (c : Cell) (f : Fire) (fl : BitVec 6) : (c.flagged f fl).region = c.region := rfl
@[simp] theorem Cell.flagged_ctxs (c : Cell) (f : Fire) (fl : BitVec 6) : (c.flagged f fl).ctxs = c.ctxs := rfl
@[simp] theorem Cell.flagged_w (c : Cell) (f : Fire) (fl : BitVec 6) : (c.flagged f fl).w = c.w := rfl
@[simp] theorem Cell.flagged_p (c : Cell) (f : Fire) (fl : BitVec 6) : (c.flagged f fl).p = c.p := rfl
@[simp] theorem Cell.flagged_cfmt (c : Cell) (f : Fire) (fl : BitVec 6) : (c.flagged f fl).cfmt = c.cfmt := rfl
@[simp] theorem Cell.flagged_ab (c : Cell) (f : Fire) (fl : BitVec 6) : (c.flagged f fl).ab = c.ab := rfl
@[simp] theorem Cell.flagged_actx (c : Cell) (f : Fire) (fl : BitVec 6) : (c.flagged f fl).actx = c.actx := rfl
@[simp] theorem Cell.flagged_swPend (c : Cell) (f : Fire) (fl : BitVec 6) : (c.flagged f fl).swPend = c.swPend := rfl
@[simp] theorem Cell.flagged_swTgt (c : Cell) (f : Fire) (fl : BitVec 6) : (c.flagged f fl).swTgt = c.swTgt := rfl
@[simp] theorem Cell.flagged_swcnt (c : Cell) (f : Fire) (fl : BitVec 6) : (c.flagged f fl).swcnt = c.swcnt := rfl
@[simp] theorem Cell.flagged_store (c : Cell) (f : Fire) (fl : BitVec 6) : (c.flagged f fl).store = c.store := rfl
@[simp] theorem Cell.flagged_road (c : Cell) (f : Fire) (fl : BitVec 6) : (c.flagged f fl).road = c.road := rfl
@[simp] theorem Cell.flagged_outside (c : Cell) (f : Fire) (fl : BitVec 6) : (c.flagged f fl).outside = c.outside := rfl
@[simp] theorem Cell.flagged_dly (c : Cell) (f : Fire) (fl : BitVec 6) : (c.flagged f fl).dly = c.dly := rfl
@[simp] theorem Cell.flagged_bcred (c : Cell) (f : Fire) (fl : BitVec 6) : (c.flagged f fl).bcred = c.bcred := rfl
@[simp] theorem Cell.flagged_raceLatch (c : Cell) (f : Fire) (fl : BitVec 6) : (c.flagged f fl).raceLatch = c.raceLatch := rfl
@[simp] theorem Cell.flagged_raceCnt (c : Cell) (f : Fire) (fl : BitVec 6) : (c.flagged f fl).raceCnt = c.raceCnt := rfl
@[simp] theorem Cell.flagged_tagNext (c : Cell) (f : Fire) (fl : BitVec 6) : (c.flagged f fl).tagNext = c.tagNext := rfl
@[simp] theorem Cell.flagged_tagOld (c : Cell) (f : Fire) (fl : BitVec 6) : (c.flagged f fl).tagOld = c.tagOld := rfl
@[simp] theorem Cell.flagged_tagSize (c : Cell) (f : Fire) (fl : BitVec 6) : (c.flagged f fl).tagSize = c.tagSize := rfl
@[simp] theorem Cell.flagged_tagMap (c : Cell) (f : Fire) (fl : BitVec 6) : (c.flagged f fl).tagMap = c.tagMap := rfl
@[simp] theorem Cell.flagged_mx (c : Cell) (f : Fire) (fl : BitVec 6) : (c.flagged f fl).mx = c.mx := rfl
@[simp] theorem Cell.flagged_evtBusy (c : Cell) (f : Fire) (fl : BitVec 6) : (c.flagged f fl).evtBusy = c.evtBusy := rfl
@[simp] theorem Cell.flagged_arrBits (c : Cell) (f : Fire) (fl : BitVec 6) : (c.flagged f fl).arrBits = c.arrBits := rfl
@[simp] theorem Cell.flagged_stop (c : Cell) (f : Fire) (fl : BitVec 6) : (c.flagged f fl).stop = c.stop := rfl
@[simp] theorem Cell.flagged_fw (c : Cell) (f : Fire) (fl : BitVec 6) : (c.flagged f fl).fw = c.fw := rfl
@[simp] theorem Cell.flagged_coal (c : Cell) (f : Fire) (fl : BitVec 6) : (c.flagged f fl).coal = c.coal := rfl
@[simp] theorem Cell.flagged_outOrd (c : Cell) (f : Fire) (fl : BitVec 6) : (c.flagged f fl).outOrd = c.outOrd := rfl
@[simp] theorem Cell.flagged_outUnord (c : Cell) (f : Fire) (fl : BitVec 6) : (c.flagged f fl).outUnord = c.outUnord := rfl
@[simp] theorem Cell.flagged_owned (c : Cell) (f : Fire) (fl : BitVec 6) : (c.flagged f fl).owned = c.owned := rfl
@[simp] theorem Cell.flagged_trans (c : Cell) (f : Fire) (fl : BitVec 6) : (c.flagged f fl).trans = c.trans := rfl
@[simp] theorem Cell.flagged_flush (c : Cell) (f : Fire) (fl : BitVec 6) : (c.flagged f fl).flush = c.flush := rfl
@[simp] theorem Cell.flagged_chwBusy (c : Cell) (f : Fire) (fl : BitVec 6) : (c.flagged f fl).chwBusy = c.chwBusy := rfl
@[simp] theorem Cell.flagged_chrBusy (c : Cell) (f : Fire) (fl : BitVec 6) : (c.flagged f fl).chrBusy = c.chrBusy := rfl
@[simp] theorem Cell.flagged_joined (c : Cell) (f : Fire) (fl : BitVec 6) : (c.flagged f fl).joined = c.joined := rfl
@[simp] theorem Cell.flagged_snap (c : Cell) (f : Fire) (fl : BitVec 6) : (c.flagged f fl).snap = c.snap := rfl
@[simp] theorem Cell.flagged_freed (c : Cell) (f : Fire) (fl : BitVec 6) : (c.flagged f fl).freed = c.freed := rfl
@[simp] theorem Cell.flagged_lands (c : Cell) (f : Fire) (fl : BitVec 6) : (c.flagged f fl).lands = c.lands := rfl
@[simp] theorem Pilot.next_online (p : Pilot) : (p.next).online = p.online := rfl
@[simp] theorem Pilot.next_g (p : Pilot) : (p.next).g = p.g := rfl
@[simp] theorem Pilot.next_status (p : Pilot) : (p.next).status = p.status := rfl
@[simp] theorem Pilot.next_cause (p : Pilot) : (p.next).cause = p.cause := rfl
@[simp] theorem Pilot.next_epc (p : Pilot) : (p.next).epc = p.epc := rfl
@[simp] theorem Pilot.next_tval (p : Pilot) : (p.next).tval = p.tval := rfl
@[simp] theorem Pilot.next_tvec (p : Pilot) : (p.next).tvec = p.tvec := rfl
@[simp] theorem Pilot.next_scratch (p : Pilot) : (p.next).scratch = p.scratch := rfl
@[simp] theorem Pilot.next_evqbase (p : Pilot) : (p.next).evqbase = p.evqbase := rfl
@[simp] theorem Pilot.next_evqhead (p : Pilot) : (p.next).evqhead = p.evqhead := rfl
@[simp] theorem Pilot.next_evqtail (p : Pilot) : (p.next).evqtail = p.evqtail := rfl
@[simp] theorem Pilot.next_vdid (p : Pilot) : (p.next).vdid = p.vdid := rfl
@[simp] theorem Pilot.next_cycles (p : Pilot) : (p.next).cycles = p.cycles := rfl
@[simp] theorem Pilot.next_l1d (p : Pilot) : (p.next).l1d = p.l1d := rfl
@[simp] theorem Pilot.next_l1i (p : Pilot) : (p.next).l1i = p.l1i := rfl
@[simp] theorem Pilot.next_stores (p : Pilot) : (p.next).stores = p.stores := rfl
@[simp] theorem Pilot.next_held (p : Pilot) : (p.next).held = p.held := rfl
@[simp] theorem Pilot.next_woke (p : Pilot) : (p.next).woke = p.woke := rfl
@[simp] theorem Pilot.next_ans (p : Pilot) : (p.next).ans = p.ans := rfl
@[simp] theorem Pilot.next_arr (p : Pilot) : (p.next).arr = p.arr := rfl
@[simp] theorem Pilot.next_redOp (p : Pilot) : (p.next).redOp = p.redOp := rfl
@[simp] theorem Pilot.next_latched (p : Pilot) : (p.next).latched = p.latched := rfl
@[simp] theorem Pilot.next_async (p : Pilot) : (p.next).async = p.async := rfl
@[simp] theorem Pilot.next_walk (p : Pilot) : (p.next).walk = p.walk := rfl
@[simp] theorem Pilot.next_acc (p : Pilot) : (p.next).acc = p.acc := rfl
@[simp] theorem Pilot.next_late (p : Pilot) : (p.next).late = p.late := rfl
@[simp] theorem Pilot.next_rel (p : Pilot) : (p.next).rel = p.rel := rfl
@[simp] theorem Pilot.next_join (p : Pilot) : (p.next).join = p.join := rfl
@[simp] theorem Pilot.trap_online (p : Pilot) (k e t : DWord) : (p.trap k e t).online = p.online := rfl
@[simp] theorem Pilot.trap_g (p : Pilot) (k e t : DWord) : (p.trap k e t).g = p.g := rfl
@[simp] theorem Pilot.trap_tvec (p : Pilot) (k e t : DWord) : (p.trap k e t).tvec = p.tvec := rfl
@[simp] theorem Pilot.trap_scratch (p : Pilot) (k e t : DWord) : (p.trap k e t).scratch = p.scratch := rfl
@[simp] theorem Pilot.trap_evqbase (p : Pilot) (k e t : DWord) : (p.trap k e t).evqbase = p.evqbase := rfl
@[simp] theorem Pilot.trap_evqhead (p : Pilot) (k e t : DWord) : (p.trap k e t).evqhead = p.evqhead := rfl
@[simp] theorem Pilot.trap_evqtail (p : Pilot) (k e t : DWord) : (p.trap k e t).evqtail = p.evqtail := rfl
@[simp] theorem Pilot.trap_vdid (p : Pilot) (k e t : DWord) : (p.trap k e t).vdid = p.vdid := rfl
@[simp] theorem Pilot.trap_cycles (p : Pilot) (k e t : DWord) : (p.trap k e t).cycles = p.cycles := rfl
@[simp] theorem Pilot.trap_l1d (p : Pilot) (k e t : DWord) : (p.trap k e t).l1d = p.l1d := rfl
@[simp] theorem Pilot.trap_l1i (p : Pilot) (k e t : DWord) : (p.trap k e t).l1i = p.l1i := rfl
@[simp] theorem Pilot.trap_stores (p : Pilot) (k e t : DWord) : (p.trap k e t).stores = p.stores := rfl
@[simp] theorem Pilot.trap_held (p : Pilot) (k e t : DWord) : (p.trap k e t).held = p.held := rfl
@[simp] theorem Pilot.trap_woke (p : Pilot) (k e t : DWord) : (p.trap k e t).woke = p.woke := rfl
@[simp] theorem Pilot.trap_arr (p : Pilot) (k e t : DWord) : (p.trap k e t).arr = p.arr := rfl
@[simp] theorem Pilot.trap_redOp (p : Pilot) (k e t : DWord) : (p.trap k e t).redOp = p.redOp := rfl
@[simp] theorem Pilot.trap_latched (p : Pilot) (k e t : DWord) : (p.trap k e t).latched = p.latched := rfl
@[simp] theorem Pilot.trap_async (p : Pilot) (k e t : DWord) : (p.trap k e t).async = p.async := rfl
@[simp] theorem Pilot.trap_late (p : Pilot) (k e t : DWord) : (p.trap k e t).late = p.late := rfl
@[simp] theorem Pilot.trap_rel (p : Pilot) (k e t : DWord) : (p.trap k e t).rel = p.rel := rfl
@[simp] theorem Pilot.trap_join (p : Pilot) (k e t : DWord) : (p.trap k e t).join = p.join := rfl
@[simp] theorem Pilot.eret_online (p : Pilot) : (p.eret).online = p.online := rfl
@[simp] theorem Pilot.eret_g (p : Pilot) : (p.eret).g = p.g := rfl
@[simp] theorem Pilot.eret_cause (p : Pilot) : (p.eret).cause = p.cause := rfl
@[simp] theorem Pilot.eret_epc (p : Pilot) : (p.eret).epc = p.epc := rfl
@[simp] theorem Pilot.eret_tval (p : Pilot) : (p.eret).tval = p.tval := rfl
@[simp] theorem Pilot.eret_tvec (p : Pilot) : (p.eret).tvec = p.tvec := rfl
@[simp] theorem Pilot.eret_scratch (p : Pilot) : (p.eret).scratch = p.scratch := rfl
@[simp] theorem Pilot.eret_evqbase (p : Pilot) : (p.eret).evqbase = p.evqbase := rfl
@[simp] theorem Pilot.eret_evqhead (p : Pilot) : (p.eret).evqhead = p.evqhead := rfl
@[simp] theorem Pilot.eret_evqtail (p : Pilot) : (p.eret).evqtail = p.evqtail := rfl
@[simp] theorem Pilot.eret_vdid (p : Pilot) : (p.eret).vdid = p.vdid := rfl
@[simp] theorem Pilot.eret_cycles (p : Pilot) : (p.eret).cycles = p.cycles := rfl
@[simp] theorem Pilot.eret_l1d (p : Pilot) : (p.eret).l1d = p.l1d := rfl
@[simp] theorem Pilot.eret_l1i (p : Pilot) : (p.eret).l1i = p.l1i := rfl
@[simp] theorem Pilot.eret_stores (p : Pilot) : (p.eret).stores = p.stores := rfl
@[simp] theorem Pilot.eret_wait (p : Pilot) : (p.eret).wait = p.wait := rfl
@[simp] theorem Pilot.eret_held (p : Pilot) : (p.eret).held = p.held := rfl
@[simp] theorem Pilot.eret_woke (p : Pilot) : (p.eret).woke = p.woke := rfl
@[simp] theorem Pilot.eret_ans (p : Pilot) : (p.eret).ans = p.ans := rfl
@[simp] theorem Pilot.eret_arr (p : Pilot) : (p.eret).arr = p.arr := rfl
@[simp] theorem Pilot.eret_redOp (p : Pilot) : (p.eret).redOp = p.redOp := rfl
@[simp] theorem Pilot.eret_latched (p : Pilot) : (p.eret).latched = p.latched := rfl
@[simp] theorem Pilot.eret_async (p : Pilot) : (p.eret).async = p.async := rfl
@[simp] theorem Pilot.eret_walk (p : Pilot) : (p.eret).walk = p.walk := rfl
@[simp] theorem Pilot.eret_acc (p : Pilot) : (p.eret).acc = p.acc := rfl
@[simp] theorem Pilot.eret_late (p : Pilot) : (p.eret).late = p.late := rfl
@[simp] theorem Pilot.eret_rel (p : Pilot) : (p.eret).rel = p.rel := rfl
@[simp] theorem Pilot.eret_join (p : Pilot) : (p.eret).join = p.join := rfl
@[simp] theorem Pilot.setReg_online (p : Pilot) (i : Fin 32) (v : DWord) : (p.setReg i v).online = p.online := by
  unfold Pilot.setReg; split <;> rfl
@[simp] theorem Pilot.setReg_pc (p : Pilot) (i : Fin 32) (v : DWord) : (p.setReg i v).pc = p.pc := by
  unfold Pilot.setReg; split <;> rfl
@[simp] theorem Pilot.setReg_status (p : Pilot) (i : Fin 32) (v : DWord) : (p.setReg i v).status = p.status := by
  unfold Pilot.setReg; split <;> rfl
@[simp] theorem Pilot.setReg_cause (p : Pilot) (i : Fin 32) (v : DWord) : (p.setReg i v).cause = p.cause := by
  unfold Pilot.setReg; split <;> rfl
@[simp] theorem Pilot.setReg_epc (p : Pilot) (i : Fin 32) (v : DWord) : (p.setReg i v).epc = p.epc := by
  unfold Pilot.setReg; split <;> rfl
@[simp] theorem Pilot.setReg_tval (p : Pilot) (i : Fin 32) (v : DWord) : (p.setReg i v).tval = p.tval := by
  unfold Pilot.setReg; split <;> rfl
@[simp] theorem Pilot.setReg_tvec (p : Pilot) (i : Fin 32) (v : DWord) : (p.setReg i v).tvec = p.tvec := by
  unfold Pilot.setReg; split <;> rfl
@[simp] theorem Pilot.setReg_scratch (p : Pilot) (i : Fin 32) (v : DWord) : (p.setReg i v).scratch = p.scratch := by
  unfold Pilot.setReg; split <;> rfl
@[simp] theorem Pilot.setReg_evqbase (p : Pilot) (i : Fin 32) (v : DWord) : (p.setReg i v).evqbase = p.evqbase := by
  unfold Pilot.setReg; split <;> rfl
@[simp] theorem Pilot.setReg_evqhead (p : Pilot) (i : Fin 32) (v : DWord) : (p.setReg i v).evqhead = p.evqhead := by
  unfold Pilot.setReg; split <;> rfl
@[simp] theorem Pilot.setReg_evqtail (p : Pilot) (i : Fin 32) (v : DWord) : (p.setReg i v).evqtail = p.evqtail := by
  unfold Pilot.setReg; split <;> rfl
@[simp] theorem Pilot.setReg_vdid (p : Pilot) (i : Fin 32) (v : DWord) : (p.setReg i v).vdid = p.vdid := by
  unfold Pilot.setReg; split <;> rfl
@[simp] theorem Pilot.setReg_cycles (p : Pilot) (i : Fin 32) (v : DWord) : (p.setReg i v).cycles = p.cycles := by
  unfold Pilot.setReg; split <;> rfl
@[simp] theorem Pilot.setReg_l1d (p : Pilot) (i : Fin 32) (v : DWord) : (p.setReg i v).l1d = p.l1d := by
  unfold Pilot.setReg; split <;> rfl
@[simp] theorem Pilot.setReg_l1i (p : Pilot) (i : Fin 32) (v : DWord) : (p.setReg i v).l1i = p.l1i := by
  unfold Pilot.setReg; split <;> rfl
@[simp] theorem Pilot.setReg_stores (p : Pilot) (i : Fin 32) (v : DWord) : (p.setReg i v).stores = p.stores := by
  unfold Pilot.setReg; split <;> rfl
@[simp] theorem Pilot.setReg_wait (p : Pilot) (i : Fin 32) (v : DWord) : (p.setReg i v).wait = p.wait := by
  unfold Pilot.setReg; split <;> rfl
@[simp] theorem Pilot.setReg_held (p : Pilot) (i : Fin 32) (v : DWord) : (p.setReg i v).held = p.held := by
  unfold Pilot.setReg; split <;> rfl
@[simp] theorem Pilot.setReg_woke (p : Pilot) (i : Fin 32) (v : DWord) : (p.setReg i v).woke = p.woke := by
  unfold Pilot.setReg; split <;> rfl
@[simp] theorem Pilot.setReg_ans (p : Pilot) (i : Fin 32) (v : DWord) : (p.setReg i v).ans = p.ans := by
  unfold Pilot.setReg; split <;> rfl
@[simp] theorem Pilot.setReg_arr (p : Pilot) (i : Fin 32) (v : DWord) : (p.setReg i v).arr = p.arr := by
  unfold Pilot.setReg; split <;> rfl
@[simp] theorem Pilot.setReg_redOp (p : Pilot) (i : Fin 32) (v : DWord) : (p.setReg i v).redOp = p.redOp := by
  unfold Pilot.setReg; split <;> rfl
@[simp] theorem Pilot.setReg_latched (p : Pilot) (i : Fin 32) (v : DWord) : (p.setReg i v).latched = p.latched := by
  unfold Pilot.setReg; split <;> rfl
@[simp] theorem Pilot.setReg_async (p : Pilot) (i : Fin 32) (v : DWord) : (p.setReg i v).async = p.async := by
  unfold Pilot.setReg; split <;> rfl
@[simp] theorem Pilot.setReg_walk (p : Pilot) (i : Fin 32) (v : DWord) : (p.setReg i v).walk = p.walk := by
  unfold Pilot.setReg; split <;> rfl
@[simp] theorem Pilot.setReg_acc (p : Pilot) (i : Fin 32) (v : DWord) : (p.setReg i v).acc = p.acc := by
  unfold Pilot.setReg; split <;> rfl
@[simp] theorem Pilot.setReg_late (p : Pilot) (i : Fin 32) (v : DWord) : (p.setReg i v).late = p.late := by
  unfold Pilot.setReg; split <;> rfl
@[simp] theorem Pilot.setReg_rel (p : Pilot) (i : Fin 32) (v : DWord) : (p.setReg i v).rel = p.rel := by
  unfold Pilot.setReg; split <;> rfl
@[simp] theorem Pilot.setReg_join (p : Pilot) (i : Fin 32) (v : DWord) : (p.setReg i v).join = p.join := by
  unfold Pilot.setReg; split <;> rfl

end Sys2Proof.Machine
end

