-- ==== Sys2Proof/Laws/Table.lean ====
section
/-! SUPPORT. Tables by number, vectors, and memory in canonical form: what a read finds after an update, and that every
memory operation keeps the form. -/

namespace Sys2Proof.Machine

@[simp] theorem tblGet?_nil {α : Type} (n : Nat) : tblGet? ([] : Tbl α) n = none := rfl
@[simp] theorem tblGet_nil {α : Type} (d : α) (n : Nat) : tblGet d ([] : Tbl α) n = d := rfl

@[simp] theorem tblGet?_put_same {α : Type} (t : Tbl α) (n : Nat) (v : α) : tblGet? (tblPut t n v) n = some v := by
  induction t with
  | nil => simp [tblPut, tblGet?]
  | cons h t ih =>
    obtain ⟨k, x⟩ := h
    simp only [tblPut]
    split
    · simp [tblGet?]
    · split
      · simp [tblGet?]
      · simp [tblGet?, *]

theorem tblGet?_put_ne {α : Type} (t : Tbl α) (n m : Nat) (v : α) (h : m ≠ n) : tblGet? (tblPut t n v) m = tblGet? t m := by
  induction t with
  | nil => simp [tblPut, tblGet?, h.symm]
  | cons e t ih =>
    obtain ⟨k, x⟩ := e
    simp only [tblPut]
    split
    · simp [tblGet?, h.symm]
    · split
      · next h2 => subst h2; simp [tblGet?, h.symm]
      · simp only [tblGet?, ih]

@[simp] theorem tblGet_put_same {α : Type} (d : α) (t : Tbl α) (n : Nat) (v : α) : tblGet d (tblPut t n v) n = v := by
  simp [tblGet]

theorem tblGet_put_ne {α : Type} (d : α) (t : Tbl α) (n m : Nat) (v : α) (h : m ≠ n) :
    tblGet d (tblPut t n v) m = tblGet d t m := by
  simp [tblGet, tblGet?_put_ne t n m v h]

theorem tblGet_put {α : Type} (d : α) (t : Tbl α) (n m : Nat) (v : α) :
    tblGet d (tblPut t n v) m = if m = n then v else tblGet d t m := by
  by_cases h : m = n
  · subst h; simp
  · simp [h, tblGet_put_ne]

theorem tblGet?_del_ne {α : Type} (t : Tbl α) (n m : Nat) (h : m ≠ n) : tblGet? (tblDel t n) m = tblGet? t m := by
  induction t with
  | nil => rfl
  | cons e t ih =>
    obtain ⟨k, x⟩ := e
    simp only [tblDel]
    split
    · next h2 => subst h2; simp [tblGet?, h.symm]
    · simp only [tblGet?, ih]

/-- A table whose values are changed one by one: the value found is the one found before, changed. -/
theorem tblGet?_map {α : Type} (f : Nat → α → α) (t : Tbl α) (n : Nat) :
    tblGet? (t.map fun x => (x.1, f x.1 x.2)) n = (tblGet? t n).map (f n) := by
  induction t with
  | nil => rfl
  | cons e t ih =>
    obtain ⟨k, x⟩ := e
    simp only [List.map_cons, tblGet?]
    split
    · next h => subst h; rfl
    · exact ih

@[simp] theorem vset_same {α : Type} {n : Nat} (v : Vector α n) (i : Fin n) (x : α) : (vset v i x)[i.val] = x := by
  simp [vset]

theorem vset_ne {α : Type} {n : Nat} (v : Vector α n) (i j : Fin n) (x : α) (h : j ≠ i) : (vset v i x)[j.val] = v[j.val] := by
  have h' : ¬ i.val = j.val := fun e => h (Fin.ext e.symm)
  simp [vset, h']

theorem vset_get {α : Type} {n : Nat} (v : Vector α n) (i j : Fin n) (x : α) :
    (vset v i x)[j.val] = if j = i then x else v[j.val] := by
  split
  · next h => subst h; exact vset_same v j x
  · next h => exact vset_ne v i j x h

/-! The canonical form (log 4). -/

theorem memAbove_mono (m : List Host.Cell) (lo hi : Nat) (h : lo ≤ hi) (k : memAbove m hi = true) : memAbove m lo = true := by
  cases m with
  | nil => rfl
  | cons e t =>
    obtain ⟨a, v⟩ := e
    simp only [memAbove, Bool.and_eq_true, decide_eq_true_eq] at k ⊢
    exact ⟨⟨by omega, k.1.2⟩, k.2⟩

theorem memAbove_put (m : List Host.Cell) (lo a : Nat) (v : Byte) (ha : lo ≤ a) (hv : v ≠ memDefault)
    (h : memAbove m lo = true) : memAbove (tblPut m a v) lo = true := by
  induction m generalizing lo with
  | nil => simp [tblPut, memAbove, ha, hv]
  | cons e t ih =>
    obtain ⟨k, x⟩ := e
    simp only [memAbove, Bool.and_eq_true, decide_eq_true_eq] at h
    simp only [tblPut]
    split
    · next h1 =>
      have := memAbove_mono t (a + 1) (k + 1) (by omega) h.2
      simp [memAbove, ha, hv, h.1.2, h.2]
      omega
    · split
      · next h1 => subst h1; simp [memAbove, ha, hv, h.2]
      · next h1 h2 =>
        simp only [memAbove, Bool.and_eq_true, decide_eq_true_eq]
        exact ⟨h.1, ih (k + 1) (by omega) h.2⟩

theorem memAbove_del (m : List Host.Cell) (lo a : Nat) (h : memAbove m lo = true) : memAbove (tblDel m a) lo = true := by
  induction m generalizing lo with
  | nil => rfl
  | cons e t ih =>
    obtain ⟨k, x⟩ := e
    simp only [memAbove, Bool.and_eq_true, decide_eq_true_eq] at h
    simp only [tblDel]
    split
    · exact memAbove_mono t lo (k + 1) (by omega) h.2
    · simp only [memAbove, Bool.and_eq_true, decide_eq_true_eq]
      exact ⟨h.1, ih (k + 1) h.2⟩

/-- One byte written keeps the canonical form. -/
theorem memWf_write (m : List Host.Cell) (a : Nat) (v : Byte) (h : memWf m = true) : memWf (memWrite m a v) = true := by
  unfold memWrite
  split
  · exact memAbove_del m 0 a h
  · next hv => exact memAbove_put m 0 a v (Nat.zero_le a) hv h

/-- Consecutive bytes written keep the canonical form. -/
theorem memWf_writes (bs : List Byte) : ∀ (m : List Host.Cell) (a : Nat), memWf m = true → memWf (memWrites m a bs) = true := by
  induction bs with
  | nil => intro m a h; exact h
  | cons b bs ih => intro m a h; exact ih _ _ (memWf_write m a b h)

theorem tblGet?_above (m : List Host.Cell) (lo a : Nat) (h : memAbove m lo = true) (ha : a < lo) : tblGet? m a = none := by
  induction m generalizing lo with
  | nil => rfl
  | cons e t ih =>
    obtain ⟨k, x⟩ := e
    simp only [memAbove, Bool.and_eq_true, decide_eq_true_eq] at h
    have : k ≠ a := by omega
    simp only [tblGet?, this, if_false]
    exact ih (k + 1) h.2 (by omega)

theorem tblGet?_del_same (m : List Host.Cell) (lo a : Nat) (h : memAbove m lo = true) : tblGet? (tblDel m a) a = none := by
  induction m generalizing lo with
  | nil => rfl
  | cons e t ih =>
    obtain ⟨k, x⟩ := e
    simp only [memAbove, Bool.and_eq_true, decide_eq_true_eq] at h
    simp only [tblDel]
    split
    · next h1 => subst h1; exact tblGet?_above t (k + 1) k h.2 (by omega)
    · next h1 => simp only [tblGet?, h1, if_false]; exact ih (k + 1) h.2

/-- A byte read after it is written. -/
theorem memRead_write_same (m : List Host.Cell) (a : Nat) (v : Byte) (h : memWf m = true) :
    memRead (memWrite m a v) a = v := by
  unfold memWrite memRead
  split
  · next hv => simp [tblGet, tblGet?_del_same m 0 a h, hv]
  · simp

/-- Every other byte reads as before. -/
theorem memRead_write_ne (m : List Host.Cell) (a b : Nat) (v : Byte) (h : b ≠ a) :
    memRead (memWrite m a v) b = memRead m b := by
  unfold memWrite memRead
  split
  · simp [tblGet, tblGet?_del_ne m a b h]
  · exact tblGet_put_ne _ _ _ _ _ h

/-- Bytes outside those written read as before. -/
theorem memRead_writes_out (bs : List Byte) : ∀ (m : List Host.Cell) (a b : Nat), (b < a ∨ a + bs.length ≤ b) →
    memRead (memWrites m a bs) b = memRead m b := by
  induction bs with
  | nil => intros; rfl
  | cons x xs ih =>
    intro m a b h
    simp only [List.length_cons] at h
    simp only [memWrites]
    rw [ih _ _ _ (by omega), memRead_write_ne _ _ _ _ (by omega)]

/-- The bytes written read as written. -/
theorem memRead_writes_in (bs : List Byte) : ∀ (m : List Host.Cell) (a i : Nat), memWf m = true → (hi : i < bs.length) →
    memRead (memWrites m a bs) (a + i) = bs[i] := by
  induction bs with
  | nil => intro m a i _ hi; exact absurd hi (by simp)
  | cons x xs ih =>
    intro m a i h hi
    simp only [memWrites]
    cases i with
    | zero =>
      rw [memRead_writes_out _ _ _ _ (by omega)]
      simpa using memRead_write_same m a x h
    | succ i =>
      have := ih (memWrite m a x) (a + 1) i (memWf_write m a x h) (by simpa using hi)
      rw [show a + (i + 1) = a + 1 + i by omega, this]
      simp

end Sys2Proof.Machine
end

