-- ==== Sys2Proof/Laws/Access.lean ====
section
/-! SUPPORT. What a reading of one unit of the state finds after an update of the same unit or of another. -/

namespace Sys2Proof.Machine

@[simp] theorem State.cell_set_same (s : State) (n : Nat) (v : Cell) : (s.setCell n v).cell n = v := by
  simp [State.cell, State.setCell]
theorem State.cell_set_ne (s : State) (n m : Nat) (v : Cell) (h : m ≠ n) : (s.setCell n v).cell m = s.cell m := by
  simp [State.cell, State.setCell, tblGet_put_ne _ _ _ _ _ h]
@[simp] theorem State.cell_mod_same (s : State) (n : Nat) (f : Cell → Cell) : (s.modCell n f).cell n = f (s.cell n) := by
  simp [State.modCell]
theorem State.cell_mod_ne (s : State) (n m : Nat) (f : Cell → Cell) (h : m ≠ n) : (s.modCell n f).cell m = s.cell m := by
  simp [State.modCell, State.cell_set_ne _ _ _ _ h]
@[simp] theorem State.quay_set_same (s : State) (n : Nat) (v : Quay) : (s.setQuay n v).quay n = v := by
  simp [State.quay, State.setQuay]
theorem State.quay_set_ne (s : State) (n m : Nat) (v : Quay) (h : m ≠ n) : (s.setQuay n v).quay m = s.quay m := by
  simp [State.quay, State.setQuay, tblGet_put_ne _ _ _ _ _ h]
@[simp] theorem State.quay_mod_same (s : State) (n : Nat) (f : Quay → Quay) : (s.modQuay n f).quay n = f (s.quay n) := by
  simp [State.modQuay]
theorem State.quay_mod_ne (s : State) (n m : Nat) (f : Quay → Quay) (h : m ≠ n) : (s.modQuay n f).quay m = s.quay m := by
  simp [State.modQuay, State.quay_set_ne _ _ _ _ h]
@[simp] theorem State.pilot_set_same (s : State) (n : Nat) (v : Pilot) : (s.setPilot n v).pilot n = v := by
  simp [State.pilot, State.setPilot]
theorem State.pilot_set_ne (s : State) (n m : Nat) (v : Pilot) (h : m ≠ n) : (s.setPilot n v).pilot m = s.pilot m := by
  simp [State.pilot, State.setPilot, tblGet_put_ne _ _ _ _ _ h]
@[simp] theorem State.pilot_mod_same (s : State) (n : Nat) (f : Pilot → Pilot) : (s.modPilot n f).pilot n = f (s.pilot n) := by
  simp [State.modPilot]
theorem State.pilot_mod_ne (s : State) (n m : Nat) (f : Pilot → Pilot) (h : m ≠ n) : (s.modPilot n f).pilot m = s.pilot m := by
  simp [State.modPilot, State.pilot_set_ne _ _ _ _ h]
@[simp] theorem State.beacon_set_same (s : State) (n : Nat) (v : Beacon) : (s.setBeacon n v).beacon n = v := by
  simp [State.beacon, State.setBeacon]
theorem State.beacon_set_ne (s : State) (n m : Nat) (v : Beacon) (h : m ≠ n) : (s.setBeacon n v).beacon m = s.beacon m := by
  simp [State.beacon, State.setBeacon, tblGet_put_ne _ _ _ _ _ h]
@[simp] theorem State.beacon_mod_same (s : State) (n : Nat) (f : Beacon → Beacon) : (s.modBeacon n f).beacon n = f (s.beacon n) := by
  simp [State.modBeacon]
theorem State.beacon_mod_ne (s : State) (n m : Nat) (f : Beacon → Beacon) (h : m ≠ n) : (s.modBeacon n f).beacon m = s.beacon m := by
  simp [State.modBeacon, State.beacon_set_ne _ _ _ _ h]
@[simp] theorem State.part_set_same (s : State) (n : Nat) (v : Part) : (s.setPart n v).part n = v := by
  simp [State.part, State.setPart]
theorem State.part_set_ne (s : State) (n m : Nat) (v : Part) (h : m ≠ n) : (s.setPart n v).part m = s.part m := by
  simp [State.part, State.setPart, tblGet_put_ne _ _ _ _ _ h]
@[simp] theorem State.part_mod_same (s : State) (n : Nat) (f : Part → Part) : (s.modPart n f).part n = f (s.part n) := by
  simp [State.modPart]
theorem State.part_mod_ne (s : State) (n m : Nat) (f : Part → Part) (h : m ≠ n) : (s.modPart n f).part m = s.part m := by
  simp [State.modPart, State.part_set_ne _ _ _ _ h]
@[simp] theorem State.vd_set_same (s : State) (n : Nat) (v : Vd) : (s.setVd n v).vd n = v := by
  simp [State.vd, State.setVd]
theorem State.vd_set_ne (s : State) (n m : Nat) (v : Vd) (h : m ≠ n) : (s.setVd n v).vd m = s.vd m := by
  simp [State.vd, State.setVd, tblGet_put_ne _ _ _ _ _ h]
@[simp] theorem State.vd_mod_same (s : State) (n : Nat) (f : Vd → Vd) : (s.modVd n f).vd n = f (s.vd n) := by
  simp [State.modVd]
theorem State.vd_mod_ne (s : State) (n m : Nat) (f : Vd → Vd) (h : m ≠ n) : (s.modVd n f).vd m = s.vd m := by
  simp [State.modVd, State.vd_set_ne _ _ _ _ h]
@[simp] theorem State.region_set_same (s : State) (n : Nat) (v : Region) : (s.setRegion n v).region n = v := by
  simp [State.region, State.setRegion]
theorem State.region_set_ne (s : State) (n m : Nat) (v : Region) (h : m ≠ n) : (s.setRegion n v).region m = s.region m := by
  simp [State.region, State.setRegion, tblGet_put_ne _ _ _ _ _ h]
@[simp] theorem State.region_mod_same (s : State) (n : Nat) (f : Region → Region) : (s.modRegion n f).region n = f (s.region n) := by
  simp [State.modRegion]
theorem State.region_mod_ne (s : State) (n m : Nat) (f : Region → Region) (h : m ≠ n) : (s.modRegion n f).region m = s.region m := by
  simp [State.modRegion, State.region_set_ne _ _ _ _ h]
@[simp] theorem State.port_set_same (s : State) (n : Nat) (v : SwPort) : (s.setPort n v).port n = v := by
  simp [State.port, State.setPort]
theorem State.port_set_ne (s : State) (n m : Nat) (v : SwPort) (h : m ≠ n) : (s.setPort n v).port m = s.port m := by
  simp [State.port, State.setPort, tblGet_put_ne _ _ _ _ _ h]
@[simp] theorem State.port_mod_same (s : State) (n : Nat) (f : SwPort → SwPort) : (s.modPort n f).port n = f (s.port n) := by
  simp [State.modPort]
theorem State.port_mod_ne (s : State) (n m : Nat) (f : SwPort → SwPort) (h : m ≠ n) : (s.modPort n f).port m = s.port m := by
  simp [State.modPort, State.port_set_ne _ _ _ _ h]
@[simp] theorem State.cell_setQuay (s : State) (n m : Nat) (v : Quay) : (s.setQuay n v).cell m = s.cell m := rfl
@[simp] theorem State.cell_modQuay (s : State) (n m : Nat) (f : Quay → Quay) : (s.modQuay n f).cell m = s.cell m := rfl
@[simp] theorem State.cell_setPilot (s : State) (n m : Nat) (v : Pilot) : (s.setPilot n v).cell m = s.cell m := rfl
@[simp] theorem State.cell_modPilot (s : State) (n m : Nat) (f : Pilot → Pilot) : (s.modPilot n f).cell m = s.cell m := rfl
@[simp] theorem State.cell_setBeacon (s : State) (n m : Nat) (v : Beacon) : (s.setBeacon n v).cell m = s.cell m := rfl
@[simp] theorem State.cell_modBeacon (s : State) (n m : Nat) (f : Beacon → Beacon) : (s.modBeacon n f).cell m = s.cell m := rfl
@[simp] theorem State.cell_setPart (s : State) (n m : Nat) (v : Part) : (s.setPart n v).cell m = s.cell m := rfl
@[simp] theorem State.cell_modPart (s : State) (n m : Nat) (f : Part → Part) : (s.modPart n f).cell m = s.cell m := rfl
@[simp] theorem State.cell_setVd (s : State) (n m : Nat) (v : Vd) : (s.setVd n v).cell m = s.cell m := rfl
@[simp] theorem State.cell_modVd (s : State) (n m : Nat) (f : Vd → Vd) : (s.modVd n f).cell m = s.cell m := rfl
@[simp] theorem State.cell_setRegion (s : State) (n m : Nat) (v : Region) : (s.setRegion n v).cell m = s.cell m := rfl
@[simp] theorem State.cell_modRegion (s : State) (n m : Nat) (f : Region → Region) : (s.modRegion n f).cell m = s.cell m := rfl
@[simp] theorem State.cell_setPort (s : State) (n m : Nat) (v : SwPort) : (s.setPort n v).cell m = s.cell m := rfl
@[simp] theorem State.cell_modPort (s : State) (n m : Nat) (f : SwPort → SwPort) : (s.modPort n f).cell m = s.cell m := rfl
@[simp] theorem State.cell_setChan (s : State) (n m : Nat) (v : Chan) : (s.setChan n v).cell m = s.cell m := rfl
@[simp] theorem State.cell_modChan (s : State) (n m : Nat) (f : Chan → Chan) : (s.modChan n f).cell m = s.cell m := rfl
@[simp] theorem State.cell_at (s : State) (d k n m : Nat) (e : Instr) : (s.at d k n e).cell m = s.cell m := rfl
@[simp] theorem State.cell_post (s : State) (p n m : Nat) (c : Option Nat) (b : Wide) : (s.post p n c b).cell m = s.cell m := rfl
@[simp] theorem State.cell_modMe (s : State) (f : Pilot → Pilot) (m : Nat) : (s.modMe f).cell m = s.cell m := rfl
@[simp] theorem State.cell_ret (s : State) (d : Fin 32) (v : DWord) (m : Nat) : (s.ret d v).cell m = s.cell m := rfl
@[simp] theorem State.cell_trap (s : State) (k v : DWord) (m : Nat) : (s.trap k v).cell m = s.cell m := rfl
@[simp] theorem State.quay_setCell (s : State) (n m : Nat) (v : Cell) : (s.setCell n v).quay m = s.quay m := rfl
@[simp] theorem State.quay_modCell (s : State) (n m : Nat) (f : Cell → Cell) : (s.modCell n f).quay m = s.quay m := rfl
@[simp] theorem State.quay_setPilot (s : State) (n m : Nat) (v : Pilot) : (s.setPilot n v).quay m = s.quay m := rfl
@[simp] theorem State.quay_modPilot (s : State) (n m : Nat) (f : Pilot → Pilot) : (s.modPilot n f).quay m = s.quay m := rfl
@[simp] theorem State.quay_setBeacon (s : State) (n m : Nat) (v : Beacon) : (s.setBeacon n v).quay m = s.quay m := rfl
@[simp] theorem State.quay_modBeacon (s : State) (n m : Nat) (f : Beacon → Beacon) : (s.modBeacon n f).quay m = s.quay m := rfl
@[simp] theorem State.quay_setPart (s : State) (n m : Nat) (v : Part) : (s.setPart n v).quay m = s.quay m := rfl
@[simp] theorem State.quay_modPart (s : State) (n m : Nat) (f : Part → Part) : (s.modPart n f).quay m = s.quay m := rfl
@[simp] theorem State.quay_setVd (s : State) (n m : Nat) (v : Vd) : (s.setVd n v).quay m = s.quay m := rfl
@[simp] theorem State.quay_modVd (s : State) (n m : Nat) (f : Vd → Vd) : (s.modVd n f).quay m = s.quay m := rfl
@[simp] theorem State.quay_setRegion (s : State) (n m : Nat) (v : Region) : (s.setRegion n v).quay m = s.quay m := rfl
@[simp] theorem State.quay_modRegion (s : State) (n m : Nat) (f : Region → Region) : (s.modRegion n f).quay m = s.quay m := rfl
@[simp] theorem State.quay_setPort (s : State) (n m : Nat) (v : SwPort) : (s.setPort n v).quay m = s.quay m := rfl
@[simp] theorem State.quay_modPort (s : State) (n m : Nat) (f : SwPort → SwPort) : (s.modPort n f).quay m = s.quay m := rfl
@[simp] theorem State.quay_at (s : State) (d k n m : Nat) (e : Instr) : (s.at d k n e).quay m = s.quay m := rfl
@[simp] theorem State.quay_post (s : State) (p n m : Nat) (c : Option Nat) (b : Wide) : (s.post p n c b).quay m = s.quay m := rfl
@[simp] theorem State.quay_modMe (s : State) (f : Pilot → Pilot) (m : Nat) : (s.modMe f).quay m = s.quay m := rfl
@[simp] theorem State.quay_ret (s : State) (d : Fin 32) (v : DWord) (m : Nat) : (s.ret d v).quay m = s.quay m := rfl
@[simp] theorem State.quay_trap (s : State) (k v : DWord) (m : Nat) : (s.trap k v).quay m = s.quay m := rfl
@[simp] theorem State.pilot_setCell (s : State) (n m : Nat) (v : Cell) : (s.setCell n v).pilot m = s.pilot m := rfl
@[simp] theorem State.pilot_modCell (s : State) (n m : Nat) (f : Cell → Cell) : (s.modCell n f).pilot m = s.pilot m := rfl
@[simp] theorem State.pilot_setQuay (s : State) (n m : Nat) (v : Quay) : (s.setQuay n v).pilot m = s.pilot m := rfl
@[simp] theorem State.pilot_modQuay (s : State) (n m : Nat) (f : Quay → Quay) : (s.modQuay n f).pilot m = s.pilot m := rfl
@[simp] theorem State.pilot_setBeacon (s : State) (n m : Nat) (v : Beacon) : (s.setBeacon n v).pilot m = s.pilot m := rfl
@[simp] theorem State.pilot_modBeacon (s : State) (n m : Nat) (f : Beacon → Beacon) : (s.modBeacon n f).pilot m = s.pilot m := rfl
@[simp] theorem State.pilot_setPart (s : State) (n m : Nat) (v : Part) : (s.setPart n v).pilot m = s.pilot m := rfl
@[simp] theorem State.pilot_modPart (s : State) (n m : Nat) (f : Part → Part) : (s.modPart n f).pilot m = s.pilot m := rfl
@[simp] theorem State.pilot_setVd (s : State) (n m : Nat) (v : Vd) : (s.setVd n v).pilot m = s.pilot m := rfl
@[simp] theorem State.pilot_modVd (s : State) (n m : Nat) (f : Vd → Vd) : (s.modVd n f).pilot m = s.pilot m := rfl
@[simp] theorem State.pilot_setRegion (s : State) (n m : Nat) (v : Region) : (s.setRegion n v).pilot m = s.pilot m := rfl
@[simp] theorem State.pilot_modRegion (s : State) (n m : Nat) (f : Region → Region) : (s.modRegion n f).pilot m = s.pilot m := rfl
@[simp] theorem State.pilot_setPort (s : State) (n m : Nat) (v : SwPort) : (s.setPort n v).pilot m = s.pilot m := rfl
@[simp] theorem State.pilot_modPort (s : State) (n m : Nat) (f : SwPort → SwPort) : (s.modPort n f).pilot m = s.pilot m := rfl
@[simp] theorem State.pilot_setChan (s : State) (n m : Nat) (v : Chan) : (s.setChan n v).pilot m = s.pilot m := rfl
@[simp] theorem State.pilot_modChan (s : State) (n m : Nat) (f : Chan → Chan) : (s.modChan n f).pilot m = s.pilot m := rfl
@[simp] theorem State.pilot_at (s : State) (d k n m : Nat) (e : Instr) : (s.at d k n e).pilot m = s.pilot m := rfl
@[simp] theorem State.pilot_post (s : State) (p n m : Nat) (c : Option Nat) (b : Wide) : (s.post p n c b).pilot m = s.pilot m := rfl
@[simp] theorem State.beacon_setCell (s : State) (n m : Nat) (v : Cell) : (s.setCell n v).beacon m = s.beacon m := rfl
@[simp] theorem State.beacon_modCell (s : State) (n m : Nat) (f : Cell → Cell) : (s.modCell n f).beacon m = s.beacon m := rfl
@[simp] theorem State.beacon_setQuay (s : State) (n m : Nat) (v : Quay) : (s.setQuay n v).beacon m = s.beacon m := rfl
@[simp] theorem State.beacon_modQuay (s : State) (n m : Nat) (f : Quay → Quay) : (s.modQuay n f).beacon m = s.beacon m := rfl
@[simp] theorem State.beacon_setPilot (s : State) (n m : Nat) (v : Pilot) : (s.setPilot n v).beacon m = s.beacon m := rfl
@[simp] theorem State.beacon_modPilot (s : State) (n m : Nat) (f : Pilot → Pilot) : (s.modPilot n f).beacon m = s.beacon m := rfl
@[simp] theorem State.beacon_setPart (s : State) (n m : Nat) (v : Part) : (s.setPart n v).beacon m = s.beacon m := rfl
@[simp] theorem State.beacon_modPart (s : State) (n m : Nat) (f : Part → Part) : (s.modPart n f).beacon m = s.beacon m := rfl
@[simp] theorem State.beacon_setVd (s : State) (n m : Nat) (v : Vd) : (s.setVd n v).beacon m = s.beacon m := rfl
@[simp] theorem State.beacon_modVd (s : State) (n m : Nat) (f : Vd → Vd) : (s.modVd n f).beacon m = s.beacon m := rfl
@[simp] theorem State.beacon_setRegion (s : State) (n m : Nat) (v : Region) : (s.setRegion n v).beacon m = s.beacon m := rfl
@[simp] theorem State.beacon_modRegion (s : State) (n m : Nat) (f : Region → Region) : (s.modRegion n f).beacon m = s.beacon m := rfl
@[simp] theorem State.beacon_setPort (s : State) (n m : Nat) (v : SwPort) : (s.setPort n v).beacon m = s.beacon m := rfl
@[simp] theorem State.beacon_modPort (s : State) (n m : Nat) (f : SwPort → SwPort) : (s.modPort n f).beacon m = s.beacon m := rfl
@[simp] theorem State.beacon_setChan (s : State) (n m : Nat) (v : Chan) : (s.setChan n v).beacon m = s.beacon m := rfl
@[simp] theorem State.beacon_modChan (s : State) (n m : Nat) (f : Chan → Chan) : (s.modChan n f).beacon m = s.beacon m := rfl
@[simp] theorem State.beacon_at (s : State) (d k n m : Nat) (e : Instr) : (s.at d k n e).beacon m = s.beacon m := rfl
@[simp] theorem State.beacon_post (s : State) (p n m : Nat) (c : Option Nat) (b : Wide) : (s.post p n c b).beacon m = s.beacon m := rfl
@[simp] theorem State.beacon_modMe (s : State) (f : Pilot → Pilot) (m : Nat) : (s.modMe f).beacon m = s.beacon m := rfl
@[simp] theorem State.beacon_ret (s : State) (d : Fin 32) (v : DWord) (m : Nat) : (s.ret d v).beacon m = s.beacon m := rfl
@[simp] theorem State.beacon_trap (s : State) (k v : DWord) (m : Nat) : (s.trap k v).beacon m = s.beacon m := rfl
@[simp] theorem State.part_setCell (s : State) (n m : Nat) (v : Cell) : (s.setCell n v).part m = s.part m := rfl
@[simp] theorem State.part_modCell (s : State) (n m : Nat) (f : Cell → Cell) : (s.modCell n f).part m = s.part m := rfl
@[simp] theorem State.part_setQuay (s : State) (n m : Nat) (v : Quay) : (s.setQuay n v).part m = s.part m := rfl
@[simp] theorem State.part_modQuay (s : State) (n m : Nat) (f : Quay → Quay) : (s.modQuay n f).part m = s.part m := rfl
@[simp] theorem State.part_setPilot (s : State) (n m : Nat) (v : Pilot) : (s.setPilot n v).part m = s.part m := rfl
@[simp] theorem State.part_modPilot (s : State) (n m : Nat) (f : Pilot → Pilot) : (s.modPilot n f).part m = s.part m := rfl
@[simp] theorem State.part_setBeacon (s : State) (n m : Nat) (v : Beacon) : (s.setBeacon n v).part m = s.part m := rfl
@[simp] theorem State.part_modBeacon (s : State) (n m : Nat) (f : Beacon → Beacon) : (s.modBeacon n f).part m = s.part m := rfl
@[simp] theorem State.part_setVd (s : State) (n m : Nat) (v : Vd) : (s.setVd n v).part m = s.part m := rfl
@[simp] theorem State.part_modVd (s : State) (n m : Nat) (f : Vd → Vd) : (s.modVd n f).part m = s.part m := rfl
@[simp] theorem State.part_setRegion (s : State) (n m : Nat) (v : Region) : (s.setRegion n v).part m = s.part m := rfl
@[simp] theorem State.part_modRegion (s : State) (n m : Nat) (f : Region → Region) : (s.modRegion n f).part m = s.part m := rfl
@[simp] theorem State.part_setPort (s : State) (n m : Nat) (v : SwPort) : (s.setPort n v).part m = s.part m := rfl
@[simp] theorem State.part_modPort (s : State) (n m : Nat) (f : SwPort → SwPort) : (s.modPort n f).part m = s.part m := rfl
@[simp] theorem State.part_setChan (s : State) (n m : Nat) (v : Chan) : (s.setChan n v).part m = s.part m := rfl
@[simp] theorem State.part_modChan (s : State) (n m : Nat) (f : Chan → Chan) : (s.modChan n f).part m = s.part m := rfl
@[simp] theorem State.part_at (s : State) (d k n m : Nat) (e : Instr) : (s.at d k n e).part m = s.part m := rfl
@[simp] theorem State.part_post (s : State) (p n m : Nat) (c : Option Nat) (b : Wide) : (s.post p n c b).part m = s.part m := rfl
@[simp] theorem State.part_modMe (s : State) (f : Pilot → Pilot) (m : Nat) : (s.modMe f).part m = s.part m := rfl
@[simp] theorem State.part_ret (s : State) (d : Fin 32) (v : DWord) (m : Nat) : (s.ret d v).part m = s.part m := rfl
@[simp] theorem State.part_trap (s : State) (k v : DWord) (m : Nat) : (s.trap k v).part m = s.part m := rfl
@[simp] theorem State.vd_setCell (s : State) (n m : Nat) (v : Cell) : (s.setCell n v).vd m = s.vd m := rfl
@[simp] theorem State.vd_modCell (s : State) (n m : Nat) (f : Cell → Cell) : (s.modCell n f).vd m = s.vd m := rfl
@[simp] theorem State.vd_setQuay (s : State) (n m : Nat) (v : Quay) : (s.setQuay n v).vd m = s.vd m := rfl
@[simp] theorem State.vd_modQuay (s : State) (n m : Nat) (f : Quay → Quay) : (s.modQuay n f).vd m = s.vd m := rfl
@[simp] theorem State.vd_setPilot (s : State) (n m : Nat) (v : Pilot) : (s.setPilot n v).vd m = s.vd m := rfl
@[simp] theorem State.vd_modPilot (s : State) (n m : Nat) (f : Pilot → Pilot) : (s.modPilot n f).vd m = s.vd m := rfl
@[simp] theorem State.vd_setBeacon (s : State) (n m : Nat) (v : Beacon) : (s.setBeacon n v).vd m = s.vd m := rfl
@[simp] theorem State.vd_modBeacon (s : State) (n m : Nat) (f : Beacon → Beacon) : (s.modBeacon n f).vd m = s.vd m := rfl
@[simp] theorem State.vd_setPart (s : State) (n m : Nat) (v : Part) : (s.setPart n v).vd m = s.vd m := rfl
@[simp] theorem State.vd_modPart (s : State) (n m : Nat) (f : Part → Part) : (s.modPart n f).vd m = s.vd m := rfl
@[simp] theorem State.vd_setRegion (s : State) (n m : Nat) (v : Region) : (s.setRegion n v).vd m = s.vd m := rfl
@[simp] theorem State.vd_modRegion (s : State) (n m : Nat) (f : Region → Region) : (s.modRegion n f).vd m = s.vd m := rfl
@[simp] theorem State.vd_setPort (s : State) (n m : Nat) (v : SwPort) : (s.setPort n v).vd m = s.vd m := rfl
@[simp] theorem State.vd_modPort (s : State) (n m : Nat) (f : SwPort → SwPort) : (s.modPort n f).vd m = s.vd m := rfl
@[simp] theorem State.vd_setChan (s : State) (n m : Nat) (v : Chan) : (s.setChan n v).vd m = s.vd m := rfl
@[simp] theorem State.vd_modChan (s : State) (n m : Nat) (f : Chan → Chan) : (s.modChan n f).vd m = s.vd m := rfl
@[simp] theorem State.vd_at (s : State) (d k n m : Nat) (e : Instr) : (s.at d k n e).vd m = s.vd m := rfl
@[simp] theorem State.vd_post (s : State) (p n m : Nat) (c : Option Nat) (b : Wide) : (s.post p n c b).vd m = s.vd m := rfl
@[simp] theorem State.vd_modMe (s : State) (f : Pilot → Pilot) (m : Nat) : (s.modMe f).vd m = s.vd m := rfl
@[simp] theorem State.vd_ret (s : State) (d : Fin 32) (v : DWord) (m : Nat) : (s.ret d v).vd m = s.vd m := rfl
@[simp] theorem State.vd_trap (s : State) (k v : DWord) (m : Nat) : (s.trap k v).vd m = s.vd m := rfl
@[simp] theorem State.region_setCell (s : State) (n m : Nat) (v : Cell) : (s.setCell n v).region m = s.region m := rfl
@[simp] theorem State.region_modCell (s : State) (n m : Nat) (f : Cell → Cell) : (s.modCell n f).region m = s.region m := rfl
@[simp] theorem State.region_setQuay (s : State) (n m : Nat) (v : Quay) : (s.setQuay n v).region m = s.region m := rfl
@[simp] theorem State.region_modQuay (s : State) (n m : Nat) (f : Quay → Quay) : (s.modQuay n f).region m = s.region m := rfl
@[simp] theorem State.region_setPilot (s : State) (n m : Nat) (v : Pilot) : (s.setPilot n v).region m = s.region m := rfl
@[simp] theorem State.region_modPilot (s : State) (n m : Nat) (f : Pilot → Pilot) : (s.modPilot n f).region m = s.region m := rfl
@[simp] theorem State.region_setBeacon (s : State) (n m : Nat) (v : Beacon) : (s.setBeacon n v).region m = s.region m := rfl
@[simp] theorem State.region_modBeacon (s : State) (n m : Nat) (f : Beacon → Beacon) : (s.modBeacon n f).region m = s.region m := rfl
@[simp] theorem State.region_setPart (s : State) (n m : Nat) (v : Part) : (s.setPart n v).region m = s.region m := rfl
@[simp] theorem State.region_modPart (s : State) (n m : Nat) (f : Part → Part) : (s.modPart n f).region m = s.region m := rfl
@[simp] theorem State.region_setVd (s : State) (n m : Nat) (v : Vd) : (s.setVd n v).region m = s.region m := rfl
@[simp] theorem State.region_modVd (s : State) (n m : Nat) (f : Vd → Vd) : (s.modVd n f).region m = s.region m := rfl
@[simp] theorem State.region_setPort (s : State) (n m : Nat) (v : SwPort) : (s.setPort n v).region m = s.region m := rfl
@[simp] theorem State.region_modPort (s : State) (n m : Nat) (f : SwPort → SwPort) : (s.modPort n f).region m = s.region m := rfl
@[simp] theorem State.region_setChan (s : State) (n m : Nat) (v : Chan) : (s.setChan n v).region m = s.region m := rfl
@[simp] theorem State.region_modChan (s : State) (n m : Nat) (f : Chan → Chan) : (s.modChan n f).region m = s.region m := rfl
@[simp] theorem State.region_at (s : State) (d k n m : Nat) (e : Instr) : (s.at d k n e).region m = s.region m := rfl
@[simp] theorem State.region_post (s : State) (p n m : Nat) (c : Option Nat) (b : Wide) : (s.post p n c b).region m = s.region m := rfl
@[simp] theorem State.region_modMe (s : State) (f : Pilot → Pilot) (m : Nat) : (s.modMe f).region m = s.region m := rfl
@[simp] theorem State.region_ret (s : State) (d : Fin 32) (v : DWord) (m : Nat) : (s.ret d v).region m = s.region m := rfl
@[simp] theorem State.region_trap (s : State) (k v : DWord) (m : Nat) : (s.trap k v).region m = s.region m := rfl
@[simp] theorem State.port_setCell (s : State) (n m : Nat) (v : Cell) : (s.setCell n v).port m = s.port m := rfl
@[simp] theorem State.port_modCell (s : State) (n m : Nat) (f : Cell → Cell) : (s.modCell n f).port m = s.port m := rfl
@[simp] theorem State.port_setQuay (s : State) (n m : Nat) (v : Quay) : (s.setQuay n v).port m = s.port m := rfl
@[simp] theorem State.port_modQuay (s : State) (n m : Nat) (f : Quay → Quay) : (s.modQuay n f).port m = s.port m := rfl
@[simp] theorem State.port_setPilot (s : State) (n m : Nat) (v : Pilot) : (s.setPilot n v).port m = s.port m := rfl
@[simp] theorem State.port_modPilot (s : State) (n m : Nat) (f : Pilot → Pilot) : (s.modPilot n f).port m = s.port m := rfl
@[simp] theorem State.port_setBeacon (s : State) (n m : Nat) (v : Beacon) : (s.setBeacon n v).port m = s.port m := rfl
@[simp] theorem State.port_modBeacon (s : State) (n m : Nat) (f : Beacon → Beacon) : (s.modBeacon n f).port m = s.port m := rfl
@[simp] theorem State.port_setPart (s : State) (n m : Nat) (v : Part) : (s.setPart n v).port m = s.port m := rfl
@[simp] theorem State.port_modPart (s : State) (n m : Nat) (f : Part → Part) : (s.modPart n f).port m = s.port m := rfl
@[simp] theorem State.port_setVd (s : State) (n m : Nat) (v : Vd) : (s.setVd n v).port m = s.port m := rfl
@[simp] theorem State.port_modVd (s : State) (n m : Nat) (f : Vd → Vd) : (s.modVd n f).port m = s.port m := rfl
@[simp] theorem State.port_setRegion (s : State) (n m : Nat) (v : Region) : (s.setRegion n v).port m = s.port m := rfl
@[simp] theorem State.port_modRegion (s : State) (n m : Nat) (f : Region → Region) : (s.modRegion n f).port m = s.port m := rfl
@[simp] theorem State.port_setChan (s : State) (n m : Nat) (v : Chan) : (s.setChan n v).port m = s.port m := rfl
@[simp] theorem State.port_modChan (s : State) (n m : Nat) (f : Chan → Chan) : (s.modChan n f).port m = s.port m := rfl
@[simp] theorem State.port_at (s : State) (d k n m : Nat) (e : Instr) : (s.at d k n e).port m = s.port m := rfl
@[simp] theorem State.port_post (s : State) (p n m : Nat) (c : Option Nat) (b : Wide) : (s.post p n c b).port m = s.port m := rfl
@[simp] theorem State.port_modMe (s : State) (f : Pilot → Pilot) (m : Nat) : (s.modMe f).port m = s.port m := rfl
@[simp] theorem State.port_ret (s : State) (d : Fin 32) (v : DWord) (m : Nat) : (s.ret d v).port m = s.port m := rfl
@[simp] theorem State.port_trap (s : State) (k v : DWord) (m : Nat) : (s.trap k v).port m = s.port m := rfl

@[simp] theorem State.me_modMe (s : State) (f : Pilot → Pilot) : (s.modMe f).me = f s.me := by
  simp [State.me, State.modMe]
theorem State.pilot_modMe_ne (s : State) (f : Pilot → Pilot) (p : Nat) (h : p ≠ s.curPilot) : (s.modMe f).pilot p = s.pilot p := by
  simp [State.modMe, State.pilot_mod_ne _ _ _ _ h]
@[simp] theorem State.me_ret (s : State) (d : Fin 32) (v : DWord) : (s.ret d v).me = (s.me.setReg d v).next := by
  simp [State.ret]
@[simp] theorem State.me_trap (s : State) (k v : DWord) : (s.trap k v).me = s.me.trap k s.me.pc v := by
  simp [State.trap]

/-! A channel lives in its quay's table. -/

@[simp] theorem State.chan_set_same (s : State) (n : Nat) (v : Chan) : (s.setChan n v).chan n = v := by
  simp [State.chan, State.setChan]
@[simp] theorem State.chan_mod_same (s : State) (n : Nat) (f : Chan → Chan) : (s.modChan n f).chan n = f (s.chan n) := by
  simp [State.modChan]
theorem State.chan_set_ne (s : State) (n m : Nat) (v : Chan) (h : m ≠ n) : (s.setChan n v).chan m = s.chan m := by
  unfold State.chan State.setChan
  by_cases hq : m / 64 = n / 64
  · have hk : m % 64 ≠ n % 64 := by omega
    rw [hq, State.quay_mod_same, tblGet_put_ne _ _ _ _ _ hk]
  · rw [State.quay_mod_ne _ _ _ _ hq]
theorem State.chan_mod_ne (s : State) (n m : Nat) (f : Chan → Chan) (h : m ≠ n) : (s.modChan n f).chan m = s.chan m := by
  simp [State.modChan, State.chan_set_ne _ _ _ _ h]

/-! Registers of a pilot (01 R33: g0 reads zero and discards writes). -/

@[simp] theorem Pilot.reg_zero (p : Pilot) : p.reg 0 = 0 := rfl
@[simp] theorem Pilot.setReg_zero (p : Pilot) (v : DWord) : p.setReg 0 v = p := rfl
theorem Pilot.reg_setReg_same (p : Pilot) (i : Fin 32) (v : DWord) (h : i ≠ 0) : (p.setReg i v).reg i = v := by
  simp [Pilot.reg, Pilot.setReg, h]
theorem Pilot.reg_setReg_ne (p : Pilot) (i j : Fin 32) (v : DWord) (h : j ≠ i) : (p.setReg i v).reg j = p.reg j := by
  unfold Pilot.reg Pilot.setReg
  split
  · rfl
  · split
    · rfl
    · simp only [Fin.getElem_fin, vset_ne _ _ _ _ h]
@[simp] theorem Pilot.reg_next (p : Pilot) (i : Fin 32) : p.next.reg i = p.reg i := rfl

end Sys2Proof.Machine
end

