-- ==== Sys2Proof/Laws/Ahead.lean ====
section
/-! SUPPORT. What the walks ahead of turns can do to a state: they change the translation units, what crosses arbiters and what has been
paid for there, and nothing else; the turns that are taken are some of those listed, in their order. -/

namespace Sys2Proof.Machine

theorem State.walkStart_frame (s : State) (q : Nat) (who : Walker) (vd : Nat) (user : Bool) (va : DWord) (acc : Acc) (t : Nat) (k : BitVec 6) :
    ∃ qs ps n, s.walkStart q who vd user va acc t k = { s with quays := qs, passes := ps, seqNo := n } := by
  unfold State.walkStart
  simp only []
  split
  · exact ⟨_, _, _, rfl⟩
  · exact ⟨_, s.passes, _, rfl⟩

theorem State.walkFor_frame (s : State) (name : Nat × Nat) (x : Nat × Tlb) :
    ∃ qs ps n, s.walkFor name x = { s with quays := qs, passes := ps, seqNo := n } := by
  unfold State.walkFor
  split
  · exact s.walkStart_frame ..
  · exact ⟨s.quays, s.passes, s.seqNo, rfl⟩

theorem State.sendAhead_frame (s : State) (name : Nat × Nat) (l : List (Nat × List (Nat × Nat × Nat))) :
    ∃ ps n cl, s.sendAhead name l = { s with passes := ps, seqNo := n, cleared := cl } := by
  have go : ∀ (l : List (Nat × List (Nat × Nat × Nat))) (u : State), (∃ ps n cl, u = { s with passes := ps, seqNo := n, cleared := cl }) →
      ∃ ps n cl, l.foldl (fun s x => s.send x.1 0 rankFar 0 x.2 clsAhead (aheadNo name) none) u = { s with passes := ps, seqNo := n, cleared := cl } := by
    intro l
    induction l with
    | nil => exact fun u h => h
    | cons x xs ih =>
      rintro u ⟨ps, n, cl, rfl⟩
      exact ih _ ⟨_, _, _, rfl⟩
  exact go _ _ ⟨_, _, _, rfl⟩

/-- Only what belongs to the walks and to the arbiters of turns differs. -/
def State.SameButAhead (s t : State) : Prop :=
  ∃ qs ps n cl pd, t = { s with quays := qs, passes := ps, seqNo := n, cleared := cl, paid := pd }
theorem State.SameButAhead.refl (s : State) : s.SameButAhead s := ⟨s.quays, s.passes, s.seqNo, s.cleared, s.paid, rfl⟩
theorem State.SameButAhead.trans {s t u : State} (h : s.SameButAhead t) (g : t.SameButAhead u) : s.SameButAhead u := by
  obtain ⟨qs, ps, n, cl, pd, rfl⟩ := h
  obtain ⟨qs', ps', n', cl', pd', rfl⟩ := g
  exact ⟨qs', ps', n', cl', pd', rfl⟩
theorem State.SameButAhead.mem {s t : State} (h : s.SameButAhead t) : t.mem = s.mem ∧ t.memKey = s.memKey ∧ t.poison = s.poison := by
  obtain ⟨_, _, _, _, _, rfl⟩ := h
  exact ⟨rfl, rfl, rfl⟩

theorem State.cross_frame (s u : State) (name : Nat × Nat) : s.SameButAhead (s.cross u name).2 := by
  unfold State.cross
  simp only []
  split
  · exact ⟨s.quays, s.passes, s.seqNo, _, _, rfl⟩
  · split
    · exact .refl s
    · obtain ⟨ps, n, cl, h⟩ := s.sendAhead_frame name (s.newCharges u name)
      exact ⟨s.quays, ps, n, cl, s.paid, h⟩

theorem State.ready_frame (s : State) (t : Turn) : s.SameButAhead (s.ready t).2 := by
  unfold State.ready
  split
  · exact .refl s
  · split
    · exact .refl s
    · split
      · split
        · obtain ⟨qs, ps, n, h⟩ := s.walkFor_frame _ _
          exact ⟨qs, ps, n, s.cleared, s.paid, h⟩
        · exact s.cross_frame ..
      · exact .refl s

theorem State.nextInput_frame (l : List Instr) (w : List (Nat × Nat)) (s : State) : s.SameButAhead (s.nextInput w l).1 := by
  induction l generalizing s w with
  | nil => exact .refl s
  | cons i is ih =>
    simp only [State.nextInput]
    generalize ha : (if (inputSource i).any fun x => w.contains x then (false, s) else s.ready (.event i)) = a
    have h : s.SameButAhead a.2 := by
      rw [← ha]
      split
      · exact .refl s
      · exact s.ready_frame _
    split
    · exact h
    · exact h.trans (ih _ _)

theorem State.ahead_frame (l : List Turn) (s : State) : s.SameButAhead (s.ahead l).1 ∧ (s.ahead l).2.Sublist l := by
  induction l generalizing s with
  | nil => exact ⟨.refl s, .slnil⟩
  | cons t ts ih =>
    obtain ⟨h, sub⟩ := ih (s.ready t).2
    refine ⟨(s.ready_frame t).trans h, ?_⟩
    simp only [State.ahead]
    split
    · exact sub.cons_cons t
    · exact sub.cons t

theorem State.aheadDue_frame (l : List Pend) (s : State) :
    s.SameButAhead (s.aheadDue l).1 ∧ (s.aheadDue l).2.1.Sublist (l.map fun p => .event p.ev) ∧
      ∀ p ∈ (s.aheadDue l).2.2, ∃ q ∈ l, p.ev = q.ev := by
  induction l generalizing s with
  | nil => exact ⟨.refl s, .slnil, fun p h => by cases h⟩
  | cons t ts ih =>
    obtain ⟨h, sub, held⟩ := ih (s.ready (.event t.ev)).2
    have go := (s.ready_frame (.event t.ev)).trans h
    simp only [State.aheadDue, List.map_cons]
    split
    · exact ⟨go, sub.cons_cons _, fun p hp => let ⟨q, hq, e⟩ := held p hp; ⟨q, List.mem_cons_of_mem _ hq, e⟩⟩
    · refine ⟨go, sub.cons _, fun p hp => ?_⟩
      rcases List.mem_cons.mp hp with rfl | hp
      · exact ⟨t, List.mem_cons_self .., rfl⟩
      · obtain ⟨q, hq, e⟩ := held p hp
        exact ⟨q, List.mem_cons_of_mem _ hq, e⟩

end Sys2Proof.Machine
end

