-- ==== Sys2Proof/Laws/Exec.lean ====
section
/-! SUPPORT. What exec does on each constructor: its arm, one lemma each. -/

namespace Sys2Proof.Machine

@[simp] theorem exec_nop (s : State) : exec .nop s = execNop s := rfl
@[simp] theorem exec_mov (o : OpU) (s : State) : exec (.mov o) s = execMov o s := rfl
@[simp] theorem exec_sel (o : OpBF) (s : State) : exec (.sel o) s = execSel o s := rfl
@[simp] theorem exec_lane (o : OpUF) (s : State) : exec (.lane o) s = execLane o s := rfl
@[simp] theorem exec_perm (o : OpB) (s : State) : exec (.perm o) s = execPerm o s := rfl
@[simp] theorem exec_and (o : OpB) (s : State) : exec (.and o) s = execAnd o s := rfl
@[simp] theorem exec_or (o : OpB) (s : State) : exec (.or o) s = execOr o s := rfl
@[simp] theorem exec_xor (o : OpB) (s : State) : exec (.xor o) s = execXor o s := rfl
@[simp] theorem exec_andn (o : OpB) (s : State) : exec (.andn o) s = execAndn o s := rfl
@[simp] theorem exec_bfx (o : OpUIF) (s : State) : exec (.bfx o) s = execBfx o s := rfl
@[simp] theorem exec_bfi (o : OpUIW) (s : State) : exec (.bfi o) s = execBfi o s := rfl
@[simp] theorem exec_popc (o : OpU) (s : State) : exec (.popc o) s = execPopc o s := rfl
@[simp] theorem exec_clz (o : OpU) (s : State) : exec (.clz o) s = execClz o s := rfl
@[simp] theorem exec_pack (o : OpBF) (s : State) : exec (.pack o) s = execPack o s := rfl
@[simp] theorem exec_unpk (o : OpUF) (s : State) : exec (.unpk o) s = execUnpk o s := rfl
@[simp] theorem exec_add (e : ITy) (o : OpB) (s : State) : exec (.add e o) s = execAdd e o s := rfl
@[simp] theorem exec_sub (e : ITy) (o : OpB) (s : State) : exec (.sub e o) s = execSub e o s := rfl
@[simp] theorem exec_adds (e : ITy) (o : OpB) (s : State) : exec (.adds e o) s = execAdds e o s := rfl
@[simp] theorem exec_subs (e : ITy) (o : OpB) (s : State) : exec (.subs e o) s = execSubs e o s := rfl
@[simp] theorem exec_mul (e : ITy) (o : OpB) (s : State) : exec (.mul e o) s = execMul e o s := rfl
@[simp] theorem exec_mulh (e : ITy) (o : OpB) (s : State) : exec (.mulh e o) s = execMulh e o s := rfl
@[simp] theorem exec_mulhu (e : ITy) (o : OpB) (s : State) : exec (.mulhu e o) s = execMulhu e o s := rfl
@[simp] theorem exec_mad (e : ITy) (o : OpBW) (s : State) : exec (.mad e o) s = execMad e o s := rfl
@[simp] theorem exec_min (e : ITy) (o : OpB) (s : State) : exec (.min e o) s = execMin e o s := rfl
@[simp] theorem exec_max (e : ITy) (o : OpB) (s : State) : exec (.max e o) s = execMax e o s := rfl
@[simp] theorem exec_minu (e : ITy) (o : OpB) (s : State) : exec (.minu e o) s = execMinu e o s := rfl
@[simp] theorem exec_maxu (e : ITy) (o : OpB) (s : State) : exec (.maxu e o) s = execMaxu e o s := rfl
@[simp] theorem exec_abs (e : ITy) (o : OpU) (s : State) : exec (.abs e o) s = execAbs e o s := rfl
@[simp] theorem exec_shl (e : ITy) (o : OpB) (s : State) : exec (.shl e o) s = execShl e o s := rfl
@[simp] theorem exec_shr (e : ITy) (o : OpB) (s : State) : exec (.shr e o) s = execShr e o s := rfl
@[simp] theorem exec_sha (e : ITy) (o : OpB) (s : State) : exec (.sha e o) s = execSha e o s := rfl
@[simp] theorem exec_cmpeq (e : ITy) (o : OpB) (s : State) : exec (.cmpeq e o) s = execCmpeq e o s := rfl
@[simp] theorem exec_cmplt (e : ITy) (o : OpB) (s : State) : exec (.cmplt e o) s = execCmplt e o s := rfl
@[simp] theorem exec_cmpltu (e : ITy) (o : OpB) (s : State) : exec (.cmpltu e o) s = execCmpltu e o s := rfl
@[simp] theorem exec_cmple (e : ITy) (o : OpB) (s : State) : exec (.cmple e o) s = execCmple e o s := rfl
@[simp] theorem exec_fadd (e : FTy) (o : OpB) (s : State) : exec (.fadd e o) s = execFadd e o s := rfl
@[simp] theorem exec_fsub (e : FTy) (o : OpB) (s : State) : exec (.fsub e o) s = execFsub e o s := rfl
@[simp] theorem exec_fmul (e : FTy) (o : OpB) (s : State) : exec (.fmul e o) s = execFmul e o s := rfl
@[simp] theorem exec_ffma (e : FTy) (o : OpBW) (s : State) : exec (.ffma e o) s = execFfma e o s := rfl
@[simp] theorem exec_fmin (e : FTy) (o : OpB) (s : State) : exec (.fmin e o) s = execFmin e o s := rfl
@[simp] theorem exec_fmax (e : FTy) (o : OpB) (s : State) : exec (.fmax e o) s = execFmax e o s := rfl
@[simp] theorem exec_fcmpeq (e : FTy) (o : OpB) (s : State) : exec (.fcmpeq e o) s = execFcmpeq e o s := rfl
@[simp] theorem exec_fcmplt (e : FTy) (o : OpB) (s : State) : exec (.fcmplt e o) s = execFcmplt e o s := rfl
@[simp] theorem exec_fcmple (e : FTy) (o : OpB) (s : State) : exec (.fcmple e o) s = execFcmple e o s := rfl
@[simp] theorem exec_frcp (e : FTy) (o : OpU) (s : State) : exec (.frcp e o) s = execFrcp e o s := rfl
@[simp] theorem exec_frsq (e : FTy) (o : OpU) (s : State) : exec (.frsq e o) s = execFrsq e o s := rfl
@[simp] theorem exec_fexp2 (e : FTy) (o : OpU) (s : State) : exec (.fexp2 e o) s = execFexp2 e o s := rfl
@[simp] theorem exec_flog2 (o : OpUF) (s : State) : exec (.flog2 o) s = execFlog2 o s := rfl
@[simp] theorem exec_fcvt (o : OpUIF) (s : State) : exec (.fcvt o) s = execFcvt o s := rfl
@[simp] theorem exec_icvt (o : OpUIF) (s : State) : exec (.icvt o) s = execIcvt o s := rfl
@[simp] theorem exec_fsumr (o : OpUF) (s : State) : exec (.fsumr o) s = execFsumr o s := rfl
@[simp] theorem exec_fmaxr (o : OpUF) (s : State) : exec (.fmaxr o) s = execFmaxr o s := rfl
@[simp] theorem exec_isumr (o : OpUF) (s : State) : exec (.isumr o) s = execIsumr o s := rfl
@[simp] theorem exec_imaxr (o : OpUF) (s : State) : exec (.imaxr o) s = execImaxr o s := rfl
@[simp] theorem exec_fscl (o : OpBF) (s : State) : exec (.fscl o) s = execFscl o s := rfl
@[simp] theorem exec_pset (o : OpKF) (s : State) : exec (.pset o) s = execPset o s := rfl
@[simp] theorem exec_plog (o : OpPF) (s : State) : exec (.plog o) s = execPlog o s := rfl
@[simp] theorem exec_ptst (o : OpI) (s : State) : exec (.ptst o) s = execPtst o s := rfl
@[simp] theorem exec_berth (o : OpBN) (s : State) : exec (.berth o) s = execBerth o s := rfl
@[simp] theorem exec_cast (o : OpKB) (s : State) : exec (.cast o) s = execCast o s := rfl
@[simp] theorem exec_put (o : OpPO) (s : State) : exec (.put o) s = execPut o s := rfl
@[simp] theorem exec_get (o : OpU) (s : State) : exec (.get o) s = execGet o s := rfl
@[simp] theorem exec_getf (o : OpU) (s : State) : exec (.getf o) s = execGetf o s := rfl
@[simp] theorem exec_tag (o : OpB) (s : State) : exec (.tag o) s = execTag o s := rfl
@[simp] theorem exec_mark (o : OpUI) (s : State) : exec (.mark o) s = execMark o s := rfl
@[simp] theorem exec_seq (o : OpU) (s : State) : exec (.seq o) s = execSeq o s := rfl
@[simp] theorem exec_ord (o : OpU) (s : State) : exec (.ord o) s = execOrd o s := rfl
@[simp] theorem exec_steer (o : OpSF) (s : State) : exec (.steer o) s = execSteer o s := rfl
@[simp] theorem exec_merge (o : OpB) (s : State) : exec (.merge o) s = execMerge o s := rfl
@[simp] theorem exec_switch (o : OpKU) (s : State) : exec (.switch o) s = execSwitch o s := rfl
@[simp] theorem exec_dly (o : OpUF) (s : State) : exec (.dly o) s = execDly o s := rfl
@[simp] theorem exec_race (o : OpUI) (s : State) : exec (.race o) s = execRace o s := rfl
@[simp] theorem exec_bstat (o : OpI) (s : State) : exec (.bstat o) s = execBstat o s := rfl
@[simp] theorem exec_evt (o : OpKI) (s : State) : exec (.evt o) s = execEvt o s := rfl
@[simp] theorem exec_bcarr (o : OpNIF) (s : State) : exec (.bcarr o) s = execBcarr o s := rfl
@[simp] theorem exec_bcwt (o : OpI) (s : State) : exec (.bcwt o) s = execBcwt o s := rfl
@[simp] theorem exec_bcput (o : OpKI) (s : State) : exec (.bcput o) s = execBcput o s := rfl
@[simp] theorem exec_bcget (o : OpI) (s : State) : exec (.bcget o) s = execBcget o s := rfl
@[simp] theorem exec_bcred (o : OpUIF) (s : State) : exec (.bcred o) s = execBcred o s := rfl
@[simp] theorem exec_gen (o : OpO) (s : State) : exec (.gen o) s = execGen o s := rfl
@[simp] theorem exec_wid (o : OpI) (s : State) : exec (.wid o) s = execWid o s := rfl
@[simp] theorem exec_trap (o : OpKI) (s : State) : exec (.trap o) s = execTrap o s := rfl
@[simp] theorem exec_mxhdr (o : OpKU) (s : State) : exec (.mxhdr o) s = execMxhdr o s := rfl
@[simp] theorem exec_mxld (o : OpKI) (s : State) : exec (.mxld o) s = execMxld o s := rfl
@[simp] theorem exec_mxrow (o : OpU) (s : State) : exec (.mxrow o) s = execMxrow o s := rfl
@[simp] theorem exec_mxdrn (o : OpKU) (s : State) : exec (.mxdrn o) s = execMxdrn o s := rfl
@[simp] theorem exec_mxclr (s : State) : exec .mxclr s = execMxclr s := rfl
@[simp] theorem exec_mxcfg (o : OpKF) (s : State) : exec (.mxcfg o) s = execMxcfg o s := rfl
@[simp] theorem exec_qld (o : OpB) (s : State) : exec (.qld o) s = execQld o s := rfl
@[simp] theorem exec_qst (o : OpB) (s : State) : exec (.qst o) s = execQst o s := rfl
@[simp] theorem exec_qlds (o : OpUI) (s : State) : exec (.qlds o) s = execQlds o s := rfl
@[simp] theorem exec_qsts (o : OpUI) (s : State) : exec (.qsts o) s = execQsts o s := rfl
@[simp] theorem exec_qldf (o : OpB) (s : State) : exec (.qldf o) s = execQldf o s := rfl
@[simp] theorem exec_qstf (o : OpB) (s : State) : exec (.qstf o) s = execQstf o s := rfl
@[simp] theorem exec_qatm (o : OpBF) (s : State) : exec (.qatm o) s = execQatm o s := rfl
@[simp] theorem exec_qcpy (o : OpBF) (s : State) : exec (.qcpy o) s = execQcpy o s := rfl
@[simp] theorem exec_xlat (o : OpU) (s : State) : exec (.xlat o) s = execXlat o s := rfl
@[simp] theorem exec_hand (o : OpUI) (s : State) : exec (.hand o) s = execHand o s := rfl
@[simp] theorem exec_qfls (o : OpU) (s : State) : exec (.qfls o) s = execQfls o s := rfl
@[simp] theorem exec_qpf (o : OpKB) (s : State) : exec (.qpf o) s = execQpf o s := rfl
@[simp] theorem exec_chw (o : OpB) (s : State) : exec (.chw o) s = execChw o s := rfl
@[simp] theorem exec_chr (o : OpU) (s : State) : exec (.chr o) s = execChr o s := rfl
@[simp] theorem exec_chcl (o : OpKU) (s : State) : exec (.chcl o) s = execChcl o s := rfl
@[simp] theorem exec_chst (o : OpU) (s : State) : exec (.chst o) s = execChst o s := rfl
@[simp] theorem exec_blkmap (o : OpB) (s : State) : exec (.blkmap o) s = execBlkmap o s := rfl
@[simp] theorem exec_blkref (o : OpU) (s : State) : exec (.blkref o) s = execBlkref o s := rfl
@[simp] theorem exec_blkrel (o : OpU) (s : State) : exec (.blkrel o) s = execBlkrel o s := rfl
@[simp] theorem exec_qcmpl (o : OpU) (s : State) : exec (.qcmpl o) s = execQcmpl o s := rfl
@[simp] theorem exec_aluAdd (o : OpR3) (s : State) : exec (.aluAdd o) s = execAluAdd o s := rfl
@[simp] theorem exec_aluSub (o : OpR3) (s : State) : exec (.aluSub o) s = execAluSub o s := rfl
@[simp] theorem exec_aluAnd (o : OpR3) (s : State) : exec (.aluAnd o) s = execAluAnd o s := rfl
@[simp] theorem exec_aluOr (o : OpR3) (s : State) : exec (.aluOr o) s = execAluOr o s := rfl
@[simp] theorem exec_aluXor (o : OpR3) (s : State) : exec (.aluXor o) s = execAluXor o s := rfl
@[simp] theorem exec_aluAndn (o : OpR3) (s : State) : exec (.aluAndn o) s = execAluAndn o s := rfl
@[simp] theorem exec_aluSll (o : OpR3) (s : State) : exec (.aluSll o) s = execAluSll o s := rfl
@[simp] theorem exec_aluSrl (o : OpR3) (s : State) : exec (.aluSrl o) s = execAluSrl o s := rfl
@[simp] theorem exec_aluSra (o : OpR3) (s : State) : exec (.aluSra o) s = execAluSra o s := rfl
@[simp] theorem exec_aluSlt (o : OpR3) (s : State) : exec (.aluSlt o) s = execAluSlt o s := rfl
@[simp] theorem exec_aluSltu (o : OpR3) (s : State) : exec (.aluSltu o) s = execAluSltu o s := rfl
@[simp] theorem exec_aluMin (o : OpR3) (s : State) : exec (.aluMin o) s = execAluMin o s := rfl
@[simp] theorem exec_aluMax (o : OpR3) (s : State) : exec (.aluMax o) s = execAluMax o s := rfl
@[simp] theorem exec_aluMinu (o : OpR3) (s : State) : exec (.aluMinu o) s = execAluMinu o s := rfl
@[simp] theorem exec_aluMaxu (o : OpR3) (s : State) : exec (.aluMaxu o) s = execAluMaxu o s := rfl
@[simp] theorem exec_aluMul (o : OpR3) (s : State) : exec (.aluMul o) s = execAluMul o s := rfl
@[simp] theorem exec_aluMulh (o : OpR3) (s : State) : exec (.aluMulh o) s = execAluMulh o s := rfl
@[simp] theorem exec_aluMulhu (o : OpR3) (s : State) : exec (.aluMulhu o) s = execAluMulhu o s := rfl
@[simp] theorem exec_aluDiv (o : OpR3) (s : State) : exec (.aluDiv o) s = execAluDiv o s := rfl
@[simp] theorem exec_aluDivu (o : OpR3) (s : State) : exec (.aluDivu o) s = execAluDivu o s := rfl
@[simp] theorem exec_aluRem (o : OpR3) (s : State) : exec (.aluRem o) s = execAluRem o s := rfl
@[simp] theorem exec_aluRemu (o : OpR3) (s : State) : exec (.aluRemu o) s = execAluRemu o s := rfl
@[simp] theorem exec_aluClz (o : OpR2) (s : State) : exec (.aluClz o) s = execAluClz o s := rfl
@[simp] theorem exec_aluCtz (o : OpR2) (s : State) : exec (.aluCtz o) s = execAluCtz o s := rfl
@[simp] theorem exec_aluPopc (o : OpR2) (s : State) : exec (.aluPopc o) s = execAluPopc o s := rfl
@[simp] theorem exec_addi (o : OpI14) (s : State) : exec (.addi o) s = execAddi o s := rfl
@[simp] theorem exec_andi (o : OpI14) (s : State) : exec (.andi o) s = execAndi o s := rfl
@[simp] theorem exec_ori (o : OpI14) (s : State) : exec (.ori o) s = execOri o s := rfl
@[simp] theorem exec_xori (o : OpI14) (s : State) : exec (.xori o) s = execXori o s := rfl
@[simp] theorem exec_shi (o : OpShi) (s : State) : exec (.shi o) s = execShi o s := rfl
@[simp] theorem exec_slti (o : OpI14) (s : State) : exec (.slti o) s = execSlti o s := rfl
@[simp] theorem exec_sltiu (o : OpI14) (s : State) : exec (.sltiu o) s = execSltiu o s := rfl
@[simp] theorem exec_lui (o : OpI19) (s : State) : exec (.lui o) s = execLui o s := rfl
@[simp] theorem exec_adpc (o : OpI19) (s : State) : exec (.adpc o) s = execAdpc o s := rfl
@[simp] theorem exec_ld (o : OpMem) (s : State) : exec (.ld o) s = execLd o s := rfl
@[simp] theorem exec_st (o : OpMem) (s : State) : exec (.st o) s = execSt o s := rfl
@[simp] theorem exec_ldx (o : OpMem) (s : State) : exec (.ldx o) s = execLdx o s := rfl
@[simp] theorem exec_amo (o : OpAmo) (s : State) : exec (.amo o) s = execAmo o s := rfl
@[simp] theorem exec_beq (o : OpBr) (s : State) : exec (.beq o) s = execBeq o s := rfl
@[simp] theorem exec_bne (o : OpBr) (s : State) : exec (.bne o) s = execBne o s := rfl
@[simp] theorem exec_blt (o : OpBr) (s : State) : exec (.blt o) s = execBlt o s := rfl
@[simp] theorem exec_bge (o : OpBr) (s : State) : exec (.bge o) s = execBge o s := rfl
@[simp] theorem exec_bltu (o : OpBr) (s : State) : exec (.bltu o) s = execBltu o s := rfl
@[simp] theorem exec_bgeu (o : OpBr) (s : State) : exec (.bgeu o) s = execBgeu o s := rfl
@[simp] theorem exec_jal (o : OpI19) (s : State) : exec (.jal o) s = execJal o s := rfl
@[simp] theorem exec_jalr (o : OpI14) (s : State) : exec (.jalr o) s = execJalr o s := rfl
@[simp] theorem exec_fenceAcq (s : State) : exec .fenceAcq s = execFenceAcq s := rfl
@[simp] theorem exec_fenceRel (s : State) : exec .fenceRel s = execFenceRel s := rfl
@[simp] theorem exec_fenceFull (s : State) : exec .fenceFull s = execFenceFull s := rfl
@[simp] theorem exec_fenceIo (s : State) : exec .fenceIo s = execFenceIo s := rfl
@[simp] theorem exec_sysTrap (o : OpRA) (s : State) : exec (.sysTrap o) s = execSysTrap o s := rfl
@[simp] theorem exec_sysEret (s : State) : exec .sysEret s = execSysEret s := rfl
@[simp] theorem exec_sysWfe (s : State) : exec .sysWfe s = execSysWfe s := rfl
@[simp] theorem exec_sysIdle (s : State) : exec .sysIdle s = execSysIdle s := rfl
@[simp] theorem exec_sysTlbinv (o : OpRAB) (s : State) : exec (.sysTlbinv o) s = execSysTlbinv o s := rfl
@[simp] theorem exec_sysHalt (s : State) : exec .sysHalt s = execSysHalt s := rfl
@[simp] theorem exec_csrRd (o : OpCsrR) (s : State) : exec (.csrRd o) s = execCsrRd o s := rfl
@[simp] theorem exec_csrWr (o : OpCsrW) (s : State) : exec (.csrWr o) s = execCsrWr o s := rfl
@[simp] theorem exec_csrSet (o : OpCsrW) (s : State) : exec (.csrSet o) s = execCsrSet o s := rfl
@[simp] theorem exec_csrClr (o : OpCsrW) (s : State) : exec (.csrClr o) s = execCsrClr o s := rfl
@[simp] theorem exec_fabRload (o : OpR3) (s : State) : exec (.fabRload o) s = execFabRload o s := rfl
@[simp] theorem exec_fabRstart (o : OpR2) (s : State) : exec (.fabRstart o) s = execFabRstart o s := rfl
@[simp] theorem exec_fabRstop (o : OpR2) (s : State) : exec (.fabRstop o) s = execFabRstop o s := rfl
@[simp] theorem exec_fabRsave (o : OpR3) (s : State) : exec (.fabRsave o) s = execFabRsave o s := rfl
@[simp] theorem exec_fabRrest (o : OpR3) (s : State) : exec (.fabRrest o) s = execFabRrest o s := rfl
@[simp] theorem exec_fabRkill (o : OpR2) (s : State) : exec (.fabRkill o) s = execFabRkill o s := rfl
@[simp] theorem exec_fabRplace (o : OpR3) (s : State) : exec (.fabRplace o) s = execFabRplace o s := rfl
@[simp] theorem exec_fabRstat (o : OpR2) (s : State) : exec (.fabRstat o) s = execFabRstat o s := rfl
@[simp] theorem exec_chnChopen (o : OpR2) (s : State) : exec (.chnChopen o) s = execChnChopen o s := rfl
@[simp] theorem exec_chnChclose (o : OpR3) (s : State) : exec (.chnChclose o) s = execChnChclose o s := rfl
@[simp] theorem exec_chnChcloseFree (o : OpR3) (s : State) : exec (.chnChcloseFree o) s = execChnChcloseFree o s := rfl
@[simp] theorem exec_chnChput (o : OpR3) (s : State) : exec (.chnChput o) s = execChnChput o s := rfl
@[simp] theorem exec_chnChtake (o : OpR3) (s : State) : exec (.chnChtake o) s = execChnChtake o s := rfl
@[simp] theorem exec_chnChstat (o : OpR3) (s : State) : exec (.chnChstat o) s = execChnChstat o s := rfl
@[simp] theorem exec_bcnArrive (o : OpRA) (s : State) : exec (.bcnArrive o) s = execBcnArrive o s := rfl
@[simp] theorem exec_bcnWait (o : OpR3) (s : State) : exec (.bcnWait o) s = execBcnWait o s := rfl
@[simp] theorem exec_bcnCast (o : OpR3) (s : State) : exec (.bcnCast o) s = execBcnCast o s := rfl
@[simp] theorem exec_bcnCastConfigure (o : OpR3) (s : State) : exec (.bcnCastConfigure o) s = execBcnCastConfigure o s := rfl
@[simp] theorem exec_bcnRead (o : OpR3) (s : State) : exec (.bcnRead o) s = execBcnRead o s := rfl
@[simp] theorem exec_bcnReduceAnd (o : OpRAB) (s : State) : exec (.bcnReduceAnd o) s = execBcnReduceAnd o s := rfl
@[simp] theorem exec_bcnReduceOr (o : OpRAB) (s : State) : exec (.bcnReduceOr o) s = execBcnReduceOr o s := rfl
@[simp] theorem exec_bcnReduceMax (o : OpRAB) (s : State) : exec (.bcnReduceMax o) s = execBcnReduceMax o s := rfl
@[simp] theorem exec_bcnPreempt (o : OpR3) (s : State) : exec (.bcnPreempt o) s = execBcnPreempt o s := rfl
@[simp] theorem exec_mapBlkref (o : OpR3) (s : State) : exec (.mapBlkref o) s = execMapBlkref o s := rfl
@[simp] theorem exec_mapBlkrel (o : OpR3) (s : State) : exec (.mapBlkrel o) s = execMapBlkrel o s := rfl
@[simp] theorem exec_mapBlkset (o : OpR3) (s : State) : exec (.mapBlkset o) s = execMapBlkset o s := rfl
@[simp] theorem exec_mapBlkget (o : OpR3) (s : State) : exec (.mapBlkget o) s = execMapBlkget o s := rfl
@[simp] theorem exec_qosSlset (o : OpR3) (s : State) : exec (.qosSlset o) s = execQosSlset o s := rfl
@[simp] theorem exec_qosSlget (o : OpR2) (s : State) : exec (.qosSlget o) s = execQosSlget o s := rfl
@[simp] theorem exec_qosLend (o : OpR3) (s : State) : exec (.qosLend o) s = execQosLend o s := rfl
@[simp] theorem exec_evqPop (o : OpR2) (s : State) : exec (.evqPop o) s = execEvqPop o s := rfl
@[simp] theorem exec_evqPeek (o : OpR2) (s : State) : exec (.evqPeek o) s = execEvqPeek o s := rfl
@[simp] theorem exec_evqAck (o : OpR2) (s : State) : exec (.evqAck o) s = execEvqAck o s := rfl
@[simp] theorem exec_illegalInstruction (p : Nat) (w : Word) (s : State) : exec (.illegalInstruction p w) s = execIllegalInstruction p w s := rfl
@[simp] theorem exec_eventInterrupt (p : Nat) (s : State) : exec (.eventInterrupt p) s = execEventInterrupt p s := rfl
@[simp] theorem exec_wfeTimeout (p : Nat) (s : State) : exec (.wfeTimeout p) s = execWfeTimeout p s := rfl
@[simp] theorem exec_pilotAccessComplete (p : Nat × Nat) (s : State) : exec (.pilotAccessComplete p) s = execPilotAccessComplete p s := rfl
@[simp] theorem exec_tokenArrival (c : Nat) (ctx : Nat) (port : Nat) (slot : Nat) (t : Token) (s : State) : exec (.tokenArrival c ctx port slot t) s = execTokenArrival c ctx port slot t s := rfl
@[simp] theorem exec_markerJoin (c : Nat) (s : State) : exec (.markerJoin c) s = execMarkerJoin c s := rfl
@[simp] theorem exec_hardwareMarkerForward (c : Nat) (s : State) : exec (.hardwareMarkerForward c) s = execHardwareMarkerForward c s := rfl
@[simp] theorem exec_countTrigger (c : Nat) (s : State) : exec (.countTrigger c) s = execCountTrigger c s := rfl
@[simp] theorem exec_switchCompletion (c : Nat) (s : State) : exec (.switchCompletion c) s = execSwitchCompletion c s := rfl
@[simp] theorem exec_berthRequestArrival (st : StoreId) (r : BReq) (s : State) : exec (.berthRequestArrival st r) s = execBerthRequestArrival st r s := rfl
@[simp] theorem exec_roadsteadEntry (st : StoreId) (s : State) : exec (.roadsteadEntry st) s = execRoadsteadEntry st s := rfl
@[simp] theorem exec_allocatorGrant (c : Nat) (ctx : Nat) (port : Nat) (s : State) : exec (.allocatorGrant c ctx port) s = execAllocatorGrant c ctx port s := rfl
@[simp] theorem exec_grantArrival (g : Grant) (s : State) : exec (.grantArrival g) s = execGrantArrival g s := rfl
@[simp] theorem exec_dlyDeferredWrite (c : Nat) (s : State) : exec (.dlyDeferredWrite c) s = execDlyDeferredWrite c s := rfl
@[simp] theorem exec_drainTokenWrite (c : Nat) (s : State) : exec (.drainTokenWrite c) s = execDrainTokenWrite c s := rfl
@[simp] theorem exec_regionCompletionEvent (r : Nat) (s : State) : exec (.regionCompletionEvent r) s = execRegionCompletionEvent r s := rfl
@[simp] theorem exec_beaconArrivalAtRoot (m : BcnMsg) (s : State) : exec (.beaconArrivalAtRoot m) s = execBeaconArrivalAtRoot m s := rfl
@[simp] theorem exec_releaseAtStrip (strip : Nat) (r : BcnRel) (s : State) : exec (.releaseAtStrip strip r) s = execReleaseAtStrip strip r s := rfl
@[simp] theorem exec_broadcastAtStrip (ch : Nat) (strip : Nat) (v : DWord) (s : State) : exec (.broadcastAtStrip ch strip v) s = execBroadcastAtStrip ch strip v s := rfl
@[simp] theorem exec_eventRecordPost (part : Nat) (s : State) : exec (.eventRecordPost part) s = execEventRecordPost part s := rfl
@[simp] theorem exec_translationStart (c : Nat) (s : State) : exec (.translationStart c) s = execTranslationStart c s := rfl
@[simp] theorem exec_walkReadReply (q : Nat) (k : Nat) (s : State) : exec (.walkReadReply q k) s = execWalkReadReply q k s := rfl
@[simp] theorem exec_accessedDirtyUpdate (q : Nat) (k : Nat) (s : State) : exec (.accessedDirtyUpdate q k) s = execAccessedDirtyUpdate q k s := rfl
@[simp] theorem exec_frameWindowRefill (c : Nat) (n : Nat) (s : State) : exec (.frameWindowRefill c n) s = execFrameWindowRefill c n s := rfl
@[simp] theorem exec_blockMapLookup (c : Nat) (s : State) : exec (.blockMapLookup c) s = execBlockMapLookup c s := rfl
@[simp] theorem exec_sliceServe (id : Nat) (s : State) : exec (.sliceServe id) s = execSliceServe id s := rfl
@[simp] theorem exec_requestCompletion (id : Nat) (s : State) : exec (.requestCompletion id) s = execRequestCompletion id s := rfl
@[simp] theorem exec_coalesceTimeout (c : Nat) (line : Nat) (s : State) : exec (.coalesceTimeout c line) s = execCoalesceTimeout c line s := rfl
@[simp] theorem exec_handInstall (c : Nat) (s : State) : exec (.handInstall c) s = execHandInstall c s := rfl
@[simp] theorem exec_flushResult (c : Nat) (s : State) : exec (.flushResult c) s = execFlushResult c s := rfl
@[simp] theorem exec_channelAllocation (ch : Nat) (s : State) : exec (.channelAllocation ch) s = execChannelAllocation ch s := rfl
@[simp] theorem exec_channelWriteToken (ch : Nat) (s : State) : exec (.channelWriteToken ch) s = execChannelWriteToken ch s := rfl
@[simp] theorem exec_channelReadServe (ch : Nat) (s : State) : exec (.channelReadServe ch) s = execChannelReadServe ch s := rfl
@[simp] theorem exec_basinMoveStart (ch : Nat) (s : State) : exec (.basinMoveStart ch) s = execBasinMoveStart ch s := rfl
@[simp] theorem exec_basinMoveLand (ch : Nat) (s : State) : exec (.basinMoveLand ch) s = execBasinMoveLand ch s := rfl
@[simp] theorem exec_basinAccessReissue (ch : Nat) (s : State) : exec (.basinAccessReissue ch) s = execBasinAccessReissue ch s := rfl
@[simp] theorem exec_spliceComplete (ch : Nat) (s : State) : exec (.spliceComplete ch) s = execSpliceComplete ch s := rfl
@[simp] theorem exec_blockMapOpServe (id : Nat) (s : State) : exec (.blockMapOpServe id) s = execBlockMapOpServe id s := rfl
@[simp] theorem exec_freeFramePush (ch : Nat) (s : State) : exec (.freeFramePush ch) s = execFreeFramePush ch s := rfl
@[simp] theorem exec_dredgerRound (part : Nat) (s : State) : exec (.dredgerRound part) s = execDredgerRound part s := rfl
@[simp] theorem exec_dredgerSample (part : Nat) (s : State) : exec (.dredgerSample part) s = execDredgerSample part s := rfl
@[simp] theorem exec_dredgerResult (part : Nat) (s : State) : exec (.dredgerResult part) s = execDredgerResult part s := rfl
@[simp] theorem exec_quantumExpiry (r : Nat) (s : State) : exec (.quantumExpiry r) s = execQuantumExpiry r s := rfl
@[simp] theorem exec_preemptSignal (r : Nat) (s : State) : exec (.preemptSignal r) s = execPreemptSignal r s := rfl
@[simp] theorem exec_readPhaseEnd (r : Nat) (s : State) : exec (.readPhaseEnd r) s = execReadPhaseEnd r s := rfl
@[simp] theorem exec_haltComplete (r : Nat) (s : State) : exec (.haltComplete r) s = execHaltComplete r s := rfl
@[simp] theorem exec_loadingEnd (r : Nat) (s : State) : exec (.loadingEnd r) s = execLoadingEnd r s := rfl
@[simp] theorem exec_saveComplete (r : Nat) (s : State) : exec (.saveComplete r) s = execSaveComplete r s := rfl
@[simp] theorem exec_restoreComplete (r : Nat) (s : State) : exec (.restoreComplete r) s = execRestoreComplete r s := rfl
@[simp] theorem exec_killComplete (r : Nat) (s : State) : exec (.killComplete r) s = execKillComplete r s := rfl
@[simp] theorem exec_notifyWrite (vf : Nat) (v : Word) (s : State) : exec (.notifyWrite vf v) s = execNotifyWrite vf v s := rfl
@[simp] theorem exec_pfnotifyWrite (n : Nat) (v : Word) (s : State) : exec (.pfnotifyWrite n v) s = execPfnotifyWrite n v s := rfl
@[simp] theorem exec_hostMemoryRead (fn : HostFn) (off : Nat) (size : Nat) (s : State) : exec (.hostMemoryRead fn off size) s = execHostMemoryRead fn off size s := rfl
@[simp] theorem exec_hostMemoryWrite (fn : HostFn) (off : Nat) (bytes : List Byte) (s : State) : exec (.hostMemoryWrite fn off bytes) s = execHostMemoryWrite fn off bytes s := rfl
@[simp] theorem exec_hostChannelWrite (fn : HostFn) (off : Nat) (bytes : List Byte) (s : State) : exec (.hostChannelWrite fn off bytes) s = execHostChannelWrite fn off bytes s := rfl
@[simp] theorem exec_pfvdWrite (v : DWord) (s : State) : exec (.pfvdWrite v) s = execPfvdWrite v s := rfl
@[simp] theorem exec_shadowCopyStart (v : DWord) (s : State) : exec (.shadowCopyStart v) s = execShadowCopyStart v s := rfl
@[simp] theorem exec_shadowCopyDone (s : State) : exec .shadowCopyDone s = execShadowCopyDone s := rfl
@[simp] theorem exec_hblossClear (v : DWord) (s : State) : exec (.hblossClear v) s = execHblossClear v s := rfl
@[simp] theorem exec_isoerrRead (s : State) : exec .isoerrRead s = execIsoerrRead s := rfl
@[simp] theorem exec_pfdropsRead (s : State) : exec .pfdropsRead s = execPfdropsRead s := rfl
@[simp] theorem exec_dropsRead (vf : Nat) (s : State) : exec (.dropsRead vf) s = execDropsRead vf s := rfl
@[simp] theorem exec_registerWrite (off : Nat) (v : DWord) (s : State) : exec (.registerWrite off v) s = execRegisterWrite off v s := rfl
@[simp] theorem exec_powerGood (imagesOk : Bool) (s : State) : exec (.powerGood imagesOk) s = execPowerGood imagesOk s := rfl
@[simp] theorem exec_linkActive (s : State) : exec .linkActive s = execLinkActive s := rfl
@[simp] theorem exec_powerStateEntry (strip : Nat) (s : State) : exec (.powerStateEntry strip) s = execPowerStateEntry strip s := rfl
@[simp] theorem exec_powerStateWake (strip : Nat) (s : State) : exec (.powerStateWake strip) s = execPowerStateWake strip s := rfl
@[simp] theorem exec_getVersion (die : Nat) (s : State) : exec (.getVersion die) s = execGetVersion die s := rfl
@[simp] theorem exec_getCapabilities (die : Nat) (s : State) : exec (.getCapabilities die) s = execGetCapabilities die s := rfl
@[simp] theorem exec_negotiateAlgorithms (die : Nat) (s : State) : exec (.negotiateAlgorithms die) s = execNegotiateAlgorithms die s := rfl
@[simp] theorem exec_getDigests (die : Nat) (s : State) : exec (.getDigests die) s = execGetDigests die s := rfl
@[simp] theorem exec_getCertificate (die : Nat) (s : State) : exec (.getCertificate die) s = execGetCertificate die s := rfl
@[simp] theorem exec_challenge (die : Nat) (nonce : Wide) (s : State) : exec (.challenge die nonce) s = execChallenge die nonce s := rfl
@[simp] theorem exec_getMeasurements (die : Nat) (nonce : Wide) (s : State) : exec (.getMeasurements die nonce) s = execGetMeasurements die nonce s := rfl
@[simp] theorem exec_keyExchange (die : Nat) (share : Wide) (s : State) : exec (.keyExchange die share) s = execKeyExchange die share s := rfl
@[simp] theorem exec_finish (die : Nat) (verifies : Bool) (s : State) : exec (.finish die verifies) s = execFinish die verifies s := rfl
@[simp] theorem exec_endSession (die : Nat) (s : State) : exec (.endSession die) s = execEndSession die s := rfl
@[simp] theorem exec_ideKmExchange (fn : HostFn) (s : State) : exec (.ideKmExchange fn) s = execIdeKmExchange fn s := rfl
@[simp] theorem exec_startInterfaceRequest (vf : Nat) (s : State) : exec (.startInterfaceRequest vf) s = execStartInterfaceRequest vf s := rfl
@[simp] theorem exec_ideIntegrityFailure (vf : Nat) (s : State) : exec (.ideIntegrityFailure vf) s = execIdeIntegrityFailure vf s := rfl
@[simp] theorem exec_seawayPortTraining (port : Nat) (phyUp : Bool) (session : Option Nat) (s : State) : exec (.seawayPortTraining port phyUp session) s = execSeawayPortTraining port phyUp session s := rfl
@[simp] theorem exec_heartbeatSend (port : Nat) (s : State) : exec (.heartbeatSend port) s = execHeartbeatSend port s := rfl
@[simp] theorem exec_heartbeatLoss (port : Nat) (s : State) : exec (.heartbeatLoss port) s = execHeartbeatLoss port s := rfl
@[simp] theorem exec_seawayRowReceive (port : Nat) (row : SwRow) (s : State) : exec (.seawayRowReceive port row) s = execSeawayRowReceive port row s := rfl
@[simp] theorem exec_parkedRowRetry (port : Nat × Nat) (s : State) : exec (.parkedRowRetry port) s = execParkedRowRetry port s := rfl
@[simp] theorem exec_remoteWriteCompletion (port : Nat) (ch : Nat) (s : State) : exec (.remoteWriteCompletion port ch) s = execRemoteWriteCompletion port ch s := rfl
@[simp] theorem exec_ackTimeout (port : Nat) (ch : Nat) (s : State) : exec (.ackTimeout port ch) s = execAckTimeout port ch s := rfl
@[simp] theorem exec_acknowledgementReceive (port : Nat) (row : SwRow) (s : State) : exec (.acknowledgementReceive port row) s = execAcknowledgementReceive port row s := rfl
@[simp] theorem exec_sendQueueTailStore (vd : Nat) (s : State) : exec (.sendQueueTailStore vd) s = execSendQueueTailStore vd s := rfl
@[simp] theorem exec_seawayRowSend (vd : Nat) (s : State) : exec (.seawayRowSend vd) s = execSeawayRowSend vd s := rfl
@[simp] theorem exec_seawayKeyLoad (port : Nat) (ch : Nat) (key : Wide) (s : State) : exec (.seawayKeyLoad port ch key) s = execSeawayKeyLoad port ch key s := rfl
@[simp] theorem exec_receiveTableWrite (port : Nat) (ch : Nat) (e : RxTarget) (s : State) : exec (.receiveTableWrite port ch e) s = execReceiveTableWrite port ch e s := rfl
@[simp] theorem exec_correctableError (u : HwUnit) (s : State) : exec (.correctableError u) s = execCorrectableError u s := rfl
@[simp] theorem exec_uncorrectableError (u : HwUnit) (s : State) : exec (.uncorrectableError u) s = execUncorrectableError u s := rfl
@[simp] theorem exec_beaconUncorrectableError (ch : Nat) (s : State) : exec (.beaconUncorrectableError ch) s = execBeaconUncorrectableError ch s := rfl
@[simp] theorem exec_isolationError (u : HwUnit × Nat) (s : State) : exec (.isolationError u) s = execIsolationError u s := rfl
@[simp] theorem exec_linkCrcReplay (k : Nat) (s : State) : exec (.linkCrcReplay k) s = execLinkCrcReplay k s := rfl
@[simp] theorem exec_partitionForm (id : Nat) (d : PartDesc) (s : State) : exec (.partitionForm id d) s = execPartitionForm id d s := rfl
@[simp] theorem exec_stripRelease (strip : Nat) (s : State) : exec (.stripRelease strip) s = execStripRelease strip s := rfl
@[simp] theorem exec_stripOnline (strip : Nat) (d : OnlineDesc) (s : State) : exec (.stripOnline strip d) s = execStripOnline strip d s := rfl
@[simp] theorem exec_placeMapWrite (part : Nat) (m : PlaceMaps) (s : State) : exec (.placeMapWrite part m) s = execPlaceMapWrite part m s := rfl
@[simp] theorem exec_vdCreate (n : Nat) (d : VdDesc) (s : State) : exec (.vdCreate n d) s = execVdCreate n d s := rfl
@[simp] theorem exec_vdDestroy (n : Nat) (s : State) : exec (.vdDestroy n) s = execVdDestroy n s := rfl
@[simp] theorem exec_keySlotLoad (k : Nat) (key : BitVec 512) (s : State) : exec (.keySlotLoad k key) s = execKeySlotLoad k key s := rfl
@[simp] theorem exec_supervisorPilotNamed (part : Nat) (strip : Nat) (s : State) : exec (.supervisorPilotNamed part strip) s = execSupervisorPilotNamed part strip s := rfl
@[simp] theorem exec_pilotOnline (strip : Nat) (pc : DWord) (vdid : BitVec 3) (s : State) : exec (.pilotOnline strip pc vdid) s = execPilotOnline strip pc vdid s := rfl
@[simp] theorem exec_berthWaySet (q : Nat) (n : Nat) (s : State) : exec (.berthWaySet q n) s = execBerthWaySet q n s := rfl
@[simp] theorem exec_moduleReset (s : State) : exec .moduleReset s = execModuleReset s := rfl
@[simp] theorem exec_arbitration (cls : Nat) (inst : Nat) (s : State) : exec (.arbitration cls inst) s = execArbitration cls inst s := rfl
@[simp] theorem exec_stickyFlagClear (c : Nat) (mask : BitVec 6) (s : State) : exec (.stickyFlagClear c mask) s = execStickyFlagClear c mask s := rfl
@[simp] theorem exec_tdiLock (vf : Nat) (s : State) : exec (.tdiLock vf) s = execTdiLock vf s := rfl
@[simp] theorem exec_tdiUnlock (vf : Nat) (s : State) : exec (.tdiUnlock vf) s = execTdiUnlock vf s := rfl
@[simp] theorem exec_linkLeavesDlActive (s : State) : exec .linkLeavesDlActive s = execLinkLeavesDlActive s := rfl
@[simp] theorem exec_firmwareImageStaging (die : Nat) (img : FwImage) (s : State) : exec (.firmwareImageStaging die img) s = execFirmwareImageStaging die img s := rfl
@[simp] theorem exec_sendQueuePlace (vd : Nat) (va : DWord) (s : State) : exec (.sendQueuePlace vd va) s = execSendQueuePlace vd va s := rfl
@[simp] theorem exec_partitionRemove (id : Nat) (s : State) : exec (.partitionRemove id) s = execPartitionRemove id s := rfl

end Sys2Proof.Machine
end

