-- ==== Sys2Proof/Laws/Firing.lean ====
section
/-! SUPPORT. The end of a firing: what pops, writes and the arithmetic trap can change. -/

namespace Sys2Proof.Machine

/-- What pops can change: the store and what of it was freed, the rings of the active context, its join, the switch count and the
joined mark. -/
def PopsOnly (c d : Cell) : Prop :=
  d = { c with store := d.store, ctxs := d.ctxs, swcnt := d.swcnt, joined := d.joined, freed := d.freed } ∧
    (∀ x : Fin 4, d.ctxs[x] = { c.ctxs[x] with rings := d.ctxs[x].rings, join7 := d.ctxs[x].join7 }) ∧
    ∀ x : Fin 4, x ≠ c.actx → d.ctxs[x] = c.ctxs[x]

theorem PopsOnly.refl (c : Cell) : PopsOnly c c := ⟨rfl, fun _ => rfl, fun _ _ => rfl⟩

theorem PopsOnly.actx {c d : Cell} (h : PopsOnly c d) : d.actx = c.actx := by rw [h.1]

theorem PopsOnly.trans {c d e : Cell} (h : PopsOnly c d) (k : PopsOnly d e) : PopsOnly c e := by
  refine ⟨?_, fun x => ?_, fun x hx => ?_⟩
  · have h1 := h.1
    have k1 := k.1
    rw [h1] at k1
    exact k1
  · rw [k.2.1 x, h.2.1 x]
  · rw [k.2.2 x (by rw [h.actx]; exact hx), h.2.2 x hx]

/-- A change of the active context's rings and join alone. -/
theorem PopsOnly.ofCtx (c : Cell) (x : Fin 4) (f : Ctx → Ctx) (hx : x = c.actx)
    (hf : ∀ k, f k = { k with rings := (f k).rings, join7 := (f k).join7 }) : PopsOnly c (c.modCtx x f) := by
  refine ⟨rfl, fun y => ?_, fun y hy => ?_⟩
  · by_cases h : y = x
    · subst h
      simp only [Cell.modCtx, Cell.setCtx, Fin.getElem_fin, vset_same]
      exact hf _
    · simp only [Cell.modCtx, Cell.setCtx, Fin.getElem_fin, vset_ne _ _ _ _ h]
  · subst hx
    simp only [Cell.modCtx, Cell.setCtx, Fin.getElem_fin, vset_ne _ _ _ _ hy]

theorem PopsOnly.setSlot (c : Cell) (i : Nat) (v : Slot) : PopsOnly c (c.setSlot i v) := ⟨rfl, fun _ => rfl, fun _ _ => rfl⟩

theorem popsOnly_advance (c : Cell) (p : Fin 4) : PopsOnly c (c.advance c.actx p) := by
  unfold Cell.advance
  exact PopsOnly.ofCtx c _ _ rfl (fun k => rfl)

/-- A pop of an in-port of the active context. -/
theorem popsOnly_pop (c : Cell) (p : Fin 4) (w : Bool) : PopsOnly c (c.pop c.actx p w) := by
  unfold Cell.pop
  simp only []
  split
  · have h := (PopsOnly.setSlot c (c.headIdx c.actx p) (c.slot (c.headIdx c.actx p)).freed).trans (popsOnly_advance (c.setSlot _ _) p)
    exact h.trans ⟨rfl, fun _ => rfl, fun _ _ => rfl⟩
  · exact PopsOnly.setSlot c _ _

theorem popsOnly_pops (ps : List (Fin 4)) : ∀ c : Cell, PopsOnly c (ps.foldl Cell.popPort c) := by
  induction ps with
  | nil => exact PopsOnly.refl
  | cons p ps ih => intro c; exact (popsOnly_pop c p _).trans (ih _)

theorem popsOnly_count (c : Cell) (t : Word) (ps : List (Fin 4)) : PopsOnly c (c.count t ps) := by
  unfold Cell.count
  simp only []
  have h1 : PopsOnly c (if (ps.contains 0 && c.dataAt 0) = true then { c with swcnt := c.swcnt + 1 } else c) := by
    split
    · exact ⟨rfl, fun _ => rfl, fun _ _ => rfl⟩
    · exact PopsOnly.refl c
  split
  · refine h1.trans (PopsOnly.ofCtx _ _ _ rfl fun k => ?_)
    have fold : ∀ (l : List (Fin 4)) (g : Ctx → Fin 4 → Ctx), (∀ p k, g k p = { k with rings := (g k p).rings, join7 := (g k p).join7 }) →
        ∀ k, l.foldl g k = { k with rings := (l.foldl g k).rings, join7 := (l.foldl g k).join7 } := by
      intro l g hg
      induction l with
      | nil => intro k; rfl
      | cons a l ih =>
        intro k
        have h := ih (g k a)
        rw [hg a k] at h
        simp only [List.foldl_cons]
        rw [hg a k]
        exact h
    have h := fold four (fun x p => if (bdEn x.binds[p] && bdDcnt x.binds[p] != 0) = true then
        x.modRing p fun r => { r with arr := r.arr - bdDcnt x.binds[p] } else x) (by
      intro p k
      split <;> rfl) k
    exact h
  · exact h1

theorem popsOnly_claim (c : Cell) (final : Fin 4) (t : Word) (ps : List (Fin 4)) : PopsOnly c (c.claimJoin final t ps) := by
  unfold Cell.claimJoin
  split
  · split
    · have h := PopsOnly.ofCtx c c.actx (fun x => { x with join7 := true }) rfl (fun _ => rfl)
      exact ⟨rfl, h.2.1, h.2.2⟩
    · exact PopsOnly.refl c
  · exact PopsOnly.refl c

/-- The pops of a firing. -/
theorem popsOnly_all (c : Cell) (final : Fin 4) (t : Word) (ps : List (Fin 4)) :
    PopsOnly c (ps.foldl Cell.popPort ((c.claimJoin final t ps).count t ps)) :=
  ((popsOnly_claim c final t ps).trans (popsOnly_count _ t ps)).trans (popsOnly_pops ps _)

/-! What an operation of a firing leaves alone: all but the cells, the schedule, the passes, the records and `fired`; and of the cells
all but one. -/

/-- The state changes at one cell, in the schedule, the passes, the records and `fired` alone. -/
def AtCell (c : Nat) (s t : State) : Prop :=
  t = { s with cells := t.cells, pend := t.pend, seqNo := t.seqNo, passes := t.passes, records := t.records, fired := t.fired } ∧
    ∀ d, d ≠ c → t.cell d = s.cell d

theorem AtCell.refl (c : Nat) (s : State) : AtCell c s s := ⟨rfl, fun _ _ => rfl⟩
theorem AtCell.trans {c : Nat} {s t u : State} (h : AtCell c s t) (k : AtCell c t u) : AtCell c s u := by
  refine ⟨?_, fun d hd => (k.2 d hd).trans (h.2 d hd)⟩
  have h1 := h.1
  have k1 := k.1
  rw [h1] at k1
  exact k1

theorem atCell_modCell (s : State) (c : Nat) (f : Cell → Cell) : AtCell c s (s.modCell c f) :=
  ⟨rfl, fun _ hd => State.cell_mod_ne _ _ _ _ hd⟩
theorem atCell_at (s : State) (c d k n : Nat) (e : Instr) : AtCell c s (s.at d k n e) := ⟨rfl, fun _ _ => rfl⟩
theorem atCell_sendVia (s : State) (c vd q rk lat : Nat) (td : List (Nat × Nat × Nat)) (k n : Nat) (e : Option Instr) (v : Option Via) :
    AtCell c s (s.sendVia vd q rk lat td k n e v) := ⟨rfl, fun _ _ => rfl⟩
/-- A token on its way is scheduled, or passes the die boundaries first. -/
theorem fly_cases (s : State) (c d : Nat) (x p : Fin 4) (i l : Nat) (t : Token) :
    (∃ n e, s.fly c d x p i l t = s.at l clsArrive n e) ∨
      ∃ vd q td n e v, s.fly c d x p i l t = s.sendVia vd q 0 l td clsArrive n e v := by
  unfold State.fly
  simp only []
  split
  · exact .inl ⟨_, _, rfl⟩
  · exact .inr ⟨_, _, _, _, _, _, rfl⟩
theorem atCell_fly (s : State) (k c d : Nat) (x p : Fin 4) (i l : Nat) (t : Token) : AtCell k s (s.fly c d x p i l t) := by
  obtain ⟨n, e, h⟩ | ⟨vd, q, td, n, e, v, h⟩ := fly_cases s c d x p i l t <;> rw [h]
  · exact atCell_at _ _ _ _ _ _
  · exact atCell_sendVia _ _ _ _ _ _ _ _ _ _ _
@[simp] theorem State.cell_fly (s : State) (k c d : Nat) (x p : Fin 4) (i l : Nat) (t : Token) :
    (s.fly c d x p i l t).cell k = s.cell k := by
  obtain ⟨n, e, h⟩ | ⟨vd, q, td, n, e, v, h⟩ := fly_cases s c d x p i l t <;> rw [h] <;> rfl
@[simp] theorem State.records_fly (s : State) (c d : Nat) (x p : Fin 4) (i l : Nat) (t : Token) :
    (s.fly c d x p i l t).records = s.records := by
  obtain ⟨n, e, h⟩ | ⟨vd, q, td, n, e, v, h⟩ := fly_cases s c d x p i l t <;> rw [h] <;> rfl
theorem atCell_post (s : State) (c p n : Nat) (x : Option Nat) (b : Wide) : AtCell c s (s.post p n x b) := ⟨rfl, fun _ _ => rfl⟩
theorem atCell_fired (s : State) (c : Nat) : AtCell c s { s with fired := true } := ⟨rfl, fun _ _ => rfl⟩

theorem AtCell.cellHdr {c : Nat} {s t : State} (h : AtCell c s t) (hr : (t.cell c).region = (s.cell c).region) :
    t.cellHdr c = s.cellHdr c := by
  have hg : t.regions = s.regions := by rw [h.1]
  simp only [State.cellHdr, State.cellRegion, hr, State.region, hg]

theorem AtCell.trig {s t : State} (h : AtCell s.curCell s t) : t.curCell = s.curCell ∧ t.curSlot = s.curSlot := by
  rw [h.1]; exact ⟨rfl, rfl⟩

theorem atCell_writeDst (s : State) (c : Nat) (d : Dst) (t : Token) : AtCell c s (s.writeDst c d t) := by
  cases d with
  | w i => exact atCell_modCell s c fun cl => { cl with w := vset cl.w i t.pay }
  | out n =>
    have h : AtCell c s (s.deliver c n (s.cell c).ctx.hands[n].wr t) := by
      unfold State.deliver
      exact atCell_fly _ _ _ _ _ _ _ _ _
    exact h.trans (atCell_modCell _ c fun cl => cl.modCtx cl.actx fun x => x.modHand n Handle.wrote)
  | pr => exact atCell_modCell s c fun cl => { cl with p := (lane t.pay 0).setWidth 8 }
  | h _ => exact AtCell.refl _ _
  | nul => exact AtCell.refl _ _

/-- The cell after a destination's write. -/
theorem cell_writeDst (s : State) (c : Nat) (d : Dst) (t : Token) : (s.writeDst c d t).cell c =
    match d with
    | .w i => { s.cell c with w := vset (s.cell c).w i t.pay }
    | .out n => (s.cell c).modCtx (s.cell c).actx fun x => x.modHand n Handle.wrote
    | .pr => { s.cell c with p := (lane t.pay 0).setWidth 8 }
    | .h _ => s.cell c
    | .nul => s.cell c := by
  cases d with
  | w i => simp [State.writeDst]
  | out n => simp [State.writeDst, State.writeOut, State.countWrite, State.deliver]
  | pr => simp [State.writeDst]
  | h _ => rfl
  | nul => rfl

theorem records_writeDst (s : State) (c : Nat) (d : Dst) (t : Token) : (s.writeDst c d t).records = s.records := by
  cases d with
  | out n => simp [State.writeDst, State.writeOut, State.countWrite, State.deliver]
  | _ => rfl

theorem pend_writeDst (s : State) (c : Nat) (d : Dst) (t : Token) (h : ∀ n, d ≠ .out n) :
    (s.writeDst c d t).pend = s.pend ∧ (s.writeDst c d t).seqNo = s.seqNo := by
  cases d with
  | out n => exact absurd rfl (h n)
  | _ => exact ⟨rfl, rfl⟩

theorem atCell_stopCell (s : State) (c : Nat) (k d : Byte) (n : Nat) (v : DWord) (x y : Word) :
    AtCell c s (s.stopCell c k d n v x y) := by
  unfold State.stopCell
  split
  · exact AtCell.refl _ _
  · exact (atCell_modCell _ _ _).trans (atCell_post _ _ _ _ _ _)

/-- A stop changes the cell's stop, and freezes its deferred writes unless they are frozen. -/
theorem cell_stopCell (s : State) (c : Nat) (k d : Byte) (n : Nat) (v : DWord) (x y : Word) :
    (s.stopCell c k d n v x y).cell c =
      if (s.cell c).stop.stopped then s.cell c
      else { s.cell c with
        stop := ⟨true, k, x⟩
        dly := if (s.cellRegion c).gated then (s.cell c).dly else (s.cell c).dly.map fun e => { e with due := e.due - s.clk } } := by
  unfold State.stopCell
  split
  · rfl
  · simp only [State.cell_post, State.cell_mod_same, Cell.freeze]
    split <;> rfl

theorem atCell_popAll (s : State) (c : Nat) (t : Word) (ps : List (Fin 4)) : AtCell c s (s.popAll c t ps) := atCell_modCell _ _ _
theorem popsOnly_popAll (s : State) (c : Nat) (t : Word) (ps : List (Fin 4)) : PopsOnly (s.cell c) ((s.popAll c t ps).cell c) := by
  unfold State.popAll
  rw [State.cell_mod_same]
  exact popsOnly_all _ _ _ _

theorem atCell_arithTrap (s : State) (c : Nat) (o fl : BitVec 6) : AtCell c s (s.arithTrap c o fl) := by
  unfold State.arithTrap
  split
  · exact AtCell.refl _ _
  · exact atCell_stopCell _ _ _ _ _ _ _ _

/-- The end of a firing changes its own cell, the schedule, the records and `fired` alone. -/
theorem atCell_finish (s : State) (f : Fire) (ps : List (Fin 4)) (v : Wide) (tag : Tag) (fl : BitVec 6) :
    AtCell s.curCell s (s.finish f ps v tag fl) := by
  unfold State.finish
  exact ((((atCell_modCell _ _ _).trans (atCell_writeDst _ _ _ _)).trans (atCell_writeDst _ _ _ _)).trans
    (atCell_popAll _ _ _ _)).trans ((atCell_arithTrap _ _ _ _).trans (atCell_fired _ _))

@[simp] theorem State.cell_fired (s : State) (c : Nat) (b : Bool) : State.cell { s with fired := b } c = s.cell c := rfl

/-- The arithmetic trap changes a cell's stop and its deferred writes alone. -/
theorem cell_arithTrap (s : State) (c : Nat) (o fl : BitVec 6) :
    ∃ st dl, (s.arithTrap c o fl).cell c = { s.cell c with stop := st, dly := dl } := by
  unfold State.arithTrap
  split
  · exact ⟨_, _, rfl⟩
  · rw [cell_stopCell]
    split <;> exact ⟨_, _, rfl⟩

/-- The end of a firing: flags, the writes to x and y, the pops (up to here the state `u`), and the arithmetic trap. -/
theorem finish_parts (s : State) (f : Fire) (ps : List (Fin 4)) (v : Wide) (tag : Tag) (fl : BitVec 6) :
    ∃ u : State,
      PopsOnly ((((s.modCell s.curCell fun cl => cl.flagged f fl).writeDst s.curCell f.x ⟨v, tag⟩).writeDst s.curCell f.y
        ⟨v, tag⟩).cell s.curCell) (u.cell s.curCell) ∧
      AtCell s.curCell s u ∧ u.records = s.records ∧ u.clk = s.clk ∧ u.curSlot = s.curSlot ∧
      s.finish f ps v tag fl = { u.arithTrap s.curCell (s.cell s.curCell).flags fl with fired := true } := by
  have h := (((atCell_modCell s s.curCell fun cl => cl.flagged f fl).trans
    (atCell_writeDst _ s.curCell f.x ⟨v, tag⟩)).trans (atCell_writeDst _ _ f.y ⟨v, tag⟩)).trans
      (atCell_popAll _ _ s.trig ps)
  refine ⟨_, popsOnly_popAll _ _ s.trig ps, h, ?_, ?_, ?_, rfl⟩
  · simp [State.popAll, records_writeDst]
  · rw [h.1]
  · rw [h.1]

/-! An instruction that is one firing. -/

theorem firesWith_op (i : Instr) (f : Fire) (op : Cell → Wide → Wide → Wide × BitVec 6)
    (R : Cell → Wide → Wide → Wide → Flags → Prop) (h : ∀ s, exec i s = s.fireOp f op)
    (hr : ∀ c a b, R c a b (op c a b).1 (op c a b).2) : FiresWith i f R := by
  intro s hs
  refine ⟨_, _, ?_, hr (s.cell s.curCell) ((s.cell s.curCell).srcO f.a).pay ((s.cell s.curCell).srcO f.b).pay⟩
  rw [h, State.fireOp]
  simp [hs]

theorem firesWith_pure (i : Instr) (f : Fire) (op : Cell → Wide → Wide → Wide)
    (R : Cell → Wide → Wide → Wide → Flags → Prop) (h : ∀ s, exec i s = s.firePure f op)
    (hr : ∀ c a b, R c a b (op c a b) 0) : FiresWith i f R :=
  firesWith_op i f (fun c a b => (op c a b, 0)) R h hr

/-- A firing whose result the instruction gives: it waits, or answers the end of the firing. -/
theorem fireTag_next (s : State) (f : Fire) (ok : Bool) (v : Wide) (tag : Tag) (upd : Cell → Cell)
    (h : ((s.cell s.curCell).ready f && ok) = true) :
    s.fireTag f ok v tag upd = .next ((s.modCell s.curCell upd).finish f f.popped v tag 0) := by
  unfold State.fireTag
  simp only [h, if_true]

end Sys2Proof.Machine
end

