-- ==== Sys2Proof/Laws/Lanes.lean ====
section
/-! SUPPORT. Elements of payloads: element i of a payload built from a list is entry i of the list, so element-wise operations
act element by element. -/

namespace Sys2Proof.Machine

theorem ofElts_bit {n : Nat} (hn : 0 < n) (xs : List (BitVec n)) : ∀ k, k < 256 →
    (ofElts xs).getLsbD k = (xs.getD (k / n) 0).getLsbD (k % n) := by
  induction xs with
  | nil => intro k _; simp [ofElts]
  | cons x xs ih =>
    intro k hk
    simp only [ofElts, BitVec.getLsbD_or, BitVec.getLsbD_shiftLeft, BitVec.getLsbD_setWidth, hk, decide_true, Bool.true_and]
    by_cases h : k < n
    · simp [h, Nat.div_eq_of_lt h, Nat.mod_eq_of_lt h]
    · have h1 : k / n = (k - n) / n + 1 := by
        have := Nat.div_eq_sub_div hn (Nat.le_of_not_lt h); omega
      have h2 : k % n = (k - n) % n := Nat.mod_eq_sub_mod (Nat.le_of_not_lt h)
      have h3 : x.getLsbD k = false := BitVec.getLsbD_of_ge x k (Nat.le_of_not_lt h)
      simp [h, h3, ih (k - n) (by omega), h1, h2]

/-- Element i of a payload built from a list. -/
theorem elt_ofElts {n : Nat} (hn : 0 < n) (xs : List (BitVec n)) (i : Nat) (hi : n * (i + 1) ≤ 256) :
    elt n (ofElts xs) i = xs.getD i 0 := by
  apply BitVec.eq_of_getLsbD_eq
  intro j hj
  have h : n * i + j < 256 := by rw [Nat.mul_succ] at hi; omega
  simp only [elt, BitVec.getLsbD_extractLsb', hj, decide_true, Bool.true_and]
  rw [ofElts_bit hn xs _ h]
  have h1 : (n * i + j) / n = i := by
    rw [Nat.mul_add_div hn, Nat.div_eq_of_lt hj]; omega
  have h2 : (n * i + j) % n = j := by
    rw [Nat.mul_add_mod, Nat.mod_eq_of_lt hj]
  rw [h1, h2]

theorem elts_length (n : Nat) (v : Wide) : (elts n v).length = 256 / n := by simp [elts]

theorem elts_getD (n : Nat) (v : Wide) (i : Nat) (hi : i < 256 / n) : (elts n v).getD i 0 = elt n v i := by
  simp [elts, hi]

/-- Elements in range end within the payload. -/
theorem elt_fits {n i : Nat} (hi : i < 256 / n) : n * (i + 1) ≤ 256 := by
  have h := Nat.mul_le_mul_left n (Nat.succ_le_of_lt hi)
  exact Nat.le_trans h (Nat.mul_div_le 256 n)

theorem pos_of_elt {n i : Nat} (hi : i < 256 / n) : 0 < n := by
  rcases Nat.eq_zero_or_pos n with h | h
  · subst h; simp at hi
  · exact h

theorem elt_map1 (n : Nat) (f : BitVec n → BitVec n) (a : Wide) (i : Nat) (hi : i < 256 / n) :
    elt n (map1 n f a) i = f (elt n a i) := by
  rw [map1, elt_ofElts (pos_of_elt hi) _ i (elt_fits hi)]
  simp [elts, hi]

theorem elt_map2 (n : Nat) (f : BitVec n → BitVec n → BitVec n) (a b : Wide) (i : Nat) (hi : i < 256 / n) :
    elt n (map2 n f a b) i = f (elt n a i) (elt n b i) := by
  rw [map2, elt_ofElts (pos_of_elt hi) _ i (elt_fits hi)]
  simp [elts, hi, List.getElem?_zipWith]

theorem elt_map3 (n : Nat) (f : BitVec n → BitVec n → BitVec n → BitVec n) (a b c : Wide) (i : Nat) (hi : i < 256 / n) :
    elt n (map3 n f a b c) i = f (elt n a i) (elt n b i) (elt n c i) := by
  rw [map3, elt_ofElts (pos_of_elt hi) _ i (elt_fits hi)]
  simp [elts, hi, List.getElem?_zipWith]

/-- Element i of an operation with flags. -/
theorem elt_mapF1 (n m : Nat) (hm : 0 < m) (f : BitVec n → BitVec m × Flags) (a : Wide) (i : Nat) (hi : i < 256 / n)
    (hf : m * (i + 1) ≤ 256) : elt m (mapF1 n f a).1 i = (f (elt n a i)).1 := by
  rw [mapF1, gather, elt_ofElts hm _ i hf]
  simp [elts, hi]

theorem elt_mapF2 (n : Nat) (f : BitVec n → BitVec n → BitVec n × Flags) (a b : Wide) (i : Nat) (hi : i < 256 / n) :
    elt n (mapF2 n f a b).1 i = (f (elt n a i) (elt n b i)).1 := by
  rw [mapF2, gather, elt_ofElts (pos_of_elt hi) _ i (elt_fits hi)]
  simp [elts, hi, List.getElem?_zipWith]

/-- The union of flags holds a flag when one of them does. -/
theorem flOr_bit (fs : List Flags) (k : Nat) : (flOr fs).getLsbD k = fs.any fun f => f.getLsbD k := by
  have h : ∀ (fs : List Flags) (a : Flags), (fs.foldl (· ||| ·) a).getLsbD k = (a.getLsbD k || fs.any fun f => f.getLsbD k) := by
    intro fs
    induction fs with
    | nil => intro a; simp
    | cons f fs ih => intro a; simp [ih, Bool.or_assoc]
  simp [flOr, h]

end Sys2Proof.Machine
end

