-- ==== Sys2Proof/Laws/Memory.lean ====
section
/-! SUPPORT. Memory under keys: what one byte written does to every byte read, and that writes keep the canonical form. -/

namespace Sys2Proof.Machine

/-! Reads of several bytes. -/

theorem memReads_length (m : List Host.Cell) (n : Nat) : ∀ a, (memReads m a n).length = n := by
  induction n with
  | zero => intro a; rfl
  | succ n ih => intro a; simp [memReads, ih]

theorem memReads_getElem (m : List Host.Cell) (n : Nat) : ∀ a i, (h : i < (memReads m a n).length) →
    (memReads m a n)[i] = memRead m (a + i) := by
  induction n with
  | zero => intro a i h; exact absurd h (by simp [memReads])
  | succ n ih =>
    intro a i h
    cases i with
    | zero => rfl
    | succ i => simp only [memReads, List.getElem_cons_succ]; rw [ih]; congr 1; omega

@[simp] theorem State.bytesAt_length (s : State) (k : BitVec 6) (n : Nat) : ∀ a, (s.bytesAt k a n).length = n := by
  induction n with
  | zero => intro a; rfl
  | succ n ih => intro a; simp [State.bytesAt, ih]

theorem State.bytesAt_getElem (s : State) (k : BitVec 6) (n : Nat) : ∀ a i, (h : i < (s.bytesAt k a n).length) →
    (s.bytesAt k a n)[i] = s.byteAt k (a + i) := by
  induction n with
  | zero => intro a i h; exact absurd h (by simp [State.bytesAt])
  | succ n ih =>
    intro a i h
    cases i with
    | zero => rfl
    | succ i => simp only [State.bytesAt, List.getElem_cons_succ]; rw [ih]; congr 1; omega

/-! A byte read depends on the keys and its sector alone. -/

@[simp] theorem State.keyVal_mem (s : State) (m : List Host.Cell) (t : Tbl (BitVec 512)) (k : BitVec 6) :
    State.keyVal { s with mem := m, memKey := t } k = s.keyVal k := rfl

/-- Two states that agree on a sector read its bytes alike. -/
theorem State.byteAt_congr (s t : State) (k : BitVec 6) (b : Nat) (hk : s.keySlots = t.keySlots)
    (ht : tblGet? s.memKey (b / 16) = tblGet? t.memKey (b / 16))
    (hm : ∀ i < 16, memRead s.mem (b / 16 * 16 + i) = memRead t.mem (b / 16 * 16 + i)) : s.byteAt k b = t.byteAt k b := by
  have hb : memRead s.mem b = memRead t.mem b := by
    have := hm (b % 16) (by omega)
    rwa [show b / 16 * 16 + b % 16 = b by omega] at this
  have hr : memReads s.mem (b / 16 * 16) 16 = memReads t.mem (b / 16 * 16) 16 := by
    apply List.ext_getElem
    · simp [memReads_length]
    · intro i h1 h2
      rw [memReads_getElem, memReads_getElem]
      exact hm i (by simpa [memReads_length] using h1)
  unfold State.byteAt State.keyVal
  rw [ht, hk, hb, hr]

/-! The sector of a write. -/

/-- A rekeyed sector is kept under the key. -/
theorem State.rekey_key (s : State) (k : BitVec 6) (a : Nat) :
    tblGet? (s.rekey k a).memKey (a / 16) = some (s.keyVal k) := by
  unfold State.rekey
  split
  · simp
  · next kv h =>
    split
    · next e => rw [h, e]
    · simp

/-- Rekeying a sector leaves every other sector, and everything but memory, as it is. -/
theorem State.rekey_frame (s : State) (k : BitVec 6) (a : Nat) :
    { s.rekey k a with mem := s.mem, memKey := s.memKey } = s ∧
    (∀ n, n ≠ a / 16 → tblGet? (s.rekey k a).memKey n = tblGet? s.memKey n) ∧
    (∀ b, b / 16 ≠ a / 16 → memRead (s.rekey k a).mem b = memRead s.mem b) := by
  unfold State.rekey
  split
  · exact ⟨rfl, fun n h => tblGet?_put_ne _ _ _ _ h, fun _ _ => rfl⟩
  · split
    · exact ⟨rfl, fun _ _ => rfl, fun _ _ => rfl⟩
    · refine ⟨rfl, fun n h => tblGet?_put_ne _ _ _ _ h, fun b h => ?_⟩
      exact memRead_writes_out _ _ _ _ (by simp only [State.bytesAt_length]; omega)

/-- The bytes of a rekeyed sector are those read under the key. -/
theorem State.rekey_read (s : State) (k : BitVec 6) (a b : Nat) (hm : memWf s.mem = true) (h : b / 16 = a / 16) :
    memRead (s.rekey k a).mem b = s.byteAt k b := by
  unfold State.rekey
  split
  · next h1 => simp only [State.byteAt, h, h1]
  · next kv h1 =>
    split
    · next e => simp only [State.byteAt, h, h1]; rw [if_pos e]
    · have hl : b - a / 16 * 16 < (s.bytesAt k (a / 16 * 16) 16).length := by simp only [State.bytesAt_length]; omega
      have h2 := memRead_writes_in (s.bytesAt k (a / 16 * 16) 16) s.mem (a / 16 * 16) (b - a / 16 * 16) hm hl
      rw [show a / 16 * 16 + (b - a / 16 * 16) = b by omega, State.bytesAt_getElem] at h2
      rw [show a / 16 * 16 + (b - a / 16 * 16) = b by omega] at h2
      exact h2

theorem memOk_rekey (s : State) (k : BitVec 6) (a : Nat) (h : MemOk s) : MemOk (s.rekey k a) := by
  unfold State.rekey
  split
  · exact h
  · split
    · exact h
    · exact memWf_writes _ _ _ h

/-! One byte written. -/

@[simp] theorem State.keySlots_putByte (s : State) (k : BitVec 6) (a : Nat) (v : Byte) : (s.putByte k a v).keySlots = s.keySlots := by
  have h := congrArg State.keySlots (s.rekey_frame k a).1
  exact h

@[simp] theorem State.keyVal_putByte (s : State) (k j : BitVec 6) (a : Nat) (v : Byte) : (s.putByte k a v).keyVal j = s.keyVal j := by
  simp only [State.keyVal, State.keySlots_putByte]

theorem memOk_putByte (s : State) (k : BitVec 6) (a : Nat) (v : Byte) (h : MemOk s) : MemOk (s.putByte k a v) :=
  memWf_write _ _ _ (memOk_rekey s k a h)

/-- A byte written is read back under its key. -/
theorem State.byteAt_putByte_same (s : State) (k : BitVec 6) (a : Nat) (v : Byte) (h : MemOk s) : (s.putByte k a v).byteAt k a = v := by
  unfold State.byteAt
  have hk : tblGet? (s.putByte k a v).memKey (a / 16) = some (s.keyVal k) := s.rekey_key k a
  rw [hk]
  simp only [State.keyVal_putByte, if_true]
  exact memRead_write_same _ _ _ (memOk_rekey s k a h)

/-- Every other byte reads as before under that key. -/
theorem State.byteAt_putByte_ne (s : State) (k : BitVec 6) (a b : Nat) (v : Byte) (h : MemOk s) (hb : b ≠ a) :
    (s.putByte k a v).byteAt k b = s.byteAt k b := by
  by_cases hs : b / 16 = a / 16
  · have hk : tblGet? (s.putByte k a v).memKey (b / 16) = some (s.keyVal k) := by rw [hs]; exact s.rekey_key k a
    rw [← s.rekey_read k a b h hs]
    unfold State.byteAt
    rw [hk]
    simp only [State.keyVal_putByte, if_true]
    exact memRead_write_ne _ _ _ _ hb
  · have f := s.rekey_frame k a
    refine State.byteAt_congr _ _ _ _ (s.keySlots_putByte k a v) (f.2.1 _ hs) fun i hi => ?_
    · unfold State.putByte
      rw [memRead_write_ne _ _ _ _ (by omega)]
      exact f.2.2 _ (by omega)

/-- No byte of another sector changes under any key. -/
theorem State.byteAt_putByte_sector (s : State) (k j : BitVec 6) (a b : Nat) (v : Byte) (hs : b / 16 ≠ a / 16) :
    (s.putByte k a v).byteAt j b = s.byteAt j b := by
  have f := s.rekey_frame k a
  refine State.byteAt_congr _ _ _ _ (s.keySlots_putByte k a v) (f.2.1 _ hs) fun i hi => ?_
  · unfold State.putByte
    rw [memRead_write_ne _ _ _ _ (by omega)]
    exact f.2.2 _ (by omega)

/-- Nothing but memory and its keys changes. -/
theorem State.putByte_frame (s : State) (k : BitVec 6) (a : Nat) (v : Byte) :
    { s.putByte k a v with mem := s.mem, memKey := s.memKey } = s := (s.rekey_frame k a).1

/-! Bytes written, stores and accesses keep the canonical form. -/

theorem memOk_putBytes (k : BitVec 6) (bs : List Byte) : ∀ (s : State) (a : Nat), MemOk s → MemOk (s.putBytes k a bs) := by
  induction bs with
  | nil => intro s a h; exact h
  | cons b bs ih => intro s a h; exact ih _ _ (memOk_putByte s k a b h)

theorem memOk_store (s : State) (k : BitVec 6) (a : Nat) (bs : List Byte) (h : MemOk s) : MemOk (s.store k a bs) := by
  unfold State.store
  simp only
  split <;> exact memOk_putBytes k bs s a h

/-- Nothing but memory and its keys changes. -/
theorem State.putBytes_frame (k : BitVec 6) (bs : List Byte) : ∀ (s : State) (a : Nat),
    { s.putBytes k a bs with mem := s.mem, memKey := s.memKey } = s := by
  induction bs with
  | nil => intro s a; rfl
  | cons b bs ih =>
    intro s a
    have h1 : { s.putBytes k a (b :: bs) with mem := (s.putByte k a b).mem, memKey := (s.putByte k a b).memKey } = s.putByte k a b :=
      ih (s.putByte k a b) (a + 1)
    exact (congrArg (fun u : State => { u with mem := s.mem, memKey := s.memKey }) h1).trans (s.putByte_frame k a b)

end Sys2Proof.Machine
end

