-- ==== Sys2Proof/Tests/Slice0.lean ====
section
/-! SUPPORT. The model's own tests: ill-formed terms that are refused, a word of each coded instruction decoded, and for each
statement of the certificates a concrete state and operands that meet its hypotheses, with one or two results worked out from the
spec's rules. Words are written from the encoding tables of 03; the rule a test rests on stands at it. -/

namespace Sys2Proof.Tests

open Machine

set_option Elab.async false

/-! Helpers. -/

/-- A payload from its lanes. -/
def W (l : List Nat) : Wide := BitVec.ofNat 256 (packN 32 l)

/-- A data token, and a marker of level n. -/
def tok (l : List Nat) : Token := ⟨W l, .zero⟩
def mark (n : Nat) (l : List Nat) : Token := ⟨W l, ⟨BitVec.ofNat 3 n, false, 9⟩⟩

/-- An instruction answers a next state that passes a check. -/
def ends (i : Instr) (s : State) (P : State → Bool) : Bool :=
  match exec i s with
  | .next t => P t
  | _ => false

/-- An instruction leaves the state as it is: it waits. -/
def waits (i : Instr) (s : State) : Bool := ends i s fun t => t == s

/-- An instruction stops its cell with a cause and a detail, and posts one record. -/
def stops (i : Instr) (s : State) (cause detail : Nat) : Bool := !(s.cell s.curCell).stop.stopped && ends i s fun t =>
  (t.cell s.curCell).stop.stopped && (t.cell s.curCell).stop.cause.toNat == cause &&
    t.records.map (fun r => (r.body.toNat % 256, r.body.toNat / 2 ^ 64 % 256, r.body.toNat / 2 ^ 72 % 256)) == [(6, cause, detail)]

/-- A ring of four slots on in-port p, holding one token. -/
def hold (c : Cell) (p : Fin 4) (t : Token) : Cell :=
  (c.modCtx 0 fun x => { x with
    binds := vset x.binds p (BitVec.ofNat 64 (p.val * 4 + 3 * 2 ^ 10 + 2 ^ 37))
    rings := vset x.rings p ⟨0, 1, none, 1, 1⟩ }).setSlot (p.val * 4) ⟨t.pay, t.tag, 0xFF, 1⟩

/-- A berth of four slots on each out port, routed to the cell of strip 1. -/
def berths (c : Cell) : Cell := c.modCtx 0 fun x => { x with
  hands := .replicate 4 ⟨true, 0, 0, 3, 8, false⟩
  routes := .replicate 4 (BitVec.ofNat 64 (1 + 2 * 2 ^ 3 + 1024 * 2 ^ 5)) }

/-- Cell c with two tokens at in-ports 0 and 1, w1 = 5 in lane 0, p = 1. -/
def at2 (c : Nat) (a b : Token) : State :=
  let s := State.reset.modCell c fun k => { berths (hold (hold k 0 a) 1 b) with w := vset k.w 1 (W [5]), p := 1 }
  { s with curCell := c }
def two (a b : Token) : State := at2 0 a b

/-- An instruction that only computes is ready on two payloads, and gives a result in w1 and flags; both tokens are popped. -/
def gives (i : Instr) (a b r : List Nat) (fl : Nat) (s : State := two (tok a) (tok b)) : Bool :=
  match computeForm i with
  | some f => (s.cell 0).ready f && ends i s fun t => (t.cell 0).w[1] == W r && (t.cell 0).flags.toNat == fl &&
      f.popped.all fun p => (t.cell 0).ctx.rings[p].held == 0
  | none => false

def oU : OpU := ⟨.inp 0, .w 1, .nul, true, .ofA⟩
def oB : OpB := ⟨.inp 0, .inp 1, .w 1, .nul, true, true, .ofA⟩
def oBW : OpBW := ⟨.inp 0, .inp 1, 1, .nul, true, true, .ofA⟩
def oUF (y : Fin 32) : OpUF := ⟨.inp 0, .w 1, y, true, .ofA⟩
def oBF (y : Fin 32) : OpBF := ⟨.inp 0, .inp 1, .w 1, y, true, true, .ofA⟩
def oUIF (b y : Fin 32) : OpUIF := ⟨.inp 0, b, .w 1, y, true, .ofA⟩
def oI (b : Fin 32) : OpI := ⟨b, .w 1, .nul, .zero⟩
def oUI (b : Fin 32) : OpUI := ⟨.inp 0, b, .w 1, .nul, true, .ofA⟩
def oKU : OpKU := ⟨.inp 0, true⟩
def oKB : OpKB := ⟨.inp 0, .inp 1, true, true⟩
def oKI (b : Fin 32) : OpKI := ⟨.inp 0, b, true⟩
def oKF (y : Fin 32) : OpKF := ⟨.inp 0, y, true⟩

/-- cfmt set: a binary8 format and a rounding mode (01 R21). -/
def withCfmt (s : State) (v : Nat) : State := s.modCell 0 fun c => { c with cfmt := BitVec.ofNat 10 v }

/-- n in each lane. -/
def all8 (n : Nat) : List Nat := List.replicate 8 n

/-! Well-formed terms and words. -/

/-- 03 R70 to R72, R74 to R87: one term for each check of a field that the rows fix. -/
theorem test_fields_refused : [
    Instr.sel ⟨.inp 0, .inp 1, .w 1, 16, true, true, .ofA⟩, .lane ⟨.inp 0, .w 1, 8, true, .ofA⟩, .pack ⟨.inp 0, .inp 1, .w 1, 16, true, true, .ofA⟩,
    .unpk ⟨.inp 0, .w 1, 16, true, .ofA⟩, .fscl ⟨.inp 0, .inp 1, .w 1, 4, true, true, .ofA⟩, .cast ⟨.inp 0, .inp 1, false, true⟩, .tag ⟨.inp 0, .inp 1, .w 1, .nul, true, true, .zero⟩,
    .seq ⟨.inp 0, .w 1, .nul, true, .zero⟩, .merge ⟨.inp 0, .inp 1, .w 1, .nul, false, true, .ofA⟩, .merge ⟨.inp 0, .inp 1, .w 1, .nul, true, false, .ofA⟩,
    .steer ⟨.inp 0, .inp 1, 16, true, true, .ofA⟩, .dly ⟨.inp 0, .w 1, 8, true, .ofA⟩, .race ⟨.inp 0, 8, .w 1, .nul, true, .ofA⟩, .bcarr ⟨0, 2⟩,
    .bcred ⟨.inp 0, 0, .w 1, 4, true, .ofA⟩, .mxld ⟨.inp 0, 4, true⟩, .qcpy ⟨.inp 0, .inp 1, .w 1, 2, true, true, .ofA⟩, .ld ⟨3, 2, .q, 0⟩, .ldx ⟨3, 2, .q, 0⟩,
    .st ⟨3, 2, .q, 0⟩, .st ⟨4, 2, .bu, 0⟩, .st ⟨4, 2, .hu, 0⟩, .st ⟨4, 2, .wu, 0⟩, .csrRd ⟨1, 0x106⟩, .csrWr ⟨1, 0x203⟩, .csrSet ⟨1, 0x302⟩, .csrClr ⟨1, 0x401⟩].all
    (fun i => !i.fieldsOk && !i.wf) = true := by decide +kernel

/-- 03 R70, R72, R76, R78; 06 R142; 07 R175; 08 R189: one term for each check of a slot's word at load. -/
theorem test_words_refused : [
    Instr.mov ⟨.inp 0, .h 0, .nul, true, .ofA⟩, .mov ⟨.inp 0, .w 1, .h 0, true, .ofA⟩, .mov ⟨.inp 0, .nul, .w 1, true, .ofA⟩, .mov ⟨.inp 0, .w 1, .w 1, true, .ofA⟩,
    .mov ⟨.w 0, .w 1, .nul, true, .ofA⟩, .mov ⟨.inp 0, .w 1, .nul, true, .ofB⟩, .add .i32 ⟨.inp 0, .inp 0, .w 1, .nul, true, true, .ofA⟩, .add .i32 ⟨.inp 0, .w 1, .w 1, .nul, true, true, .ofA⟩,
    .mad .i32 ⟨.w 0, .inp 0, 1, .nul, true, true, .ofA⟩, .gen ⟨.w 1, .nul, .ofB⟩, .ptst ⟨9, .w 1, .nul, .zero⟩, .bstat ⟨13, .w 1, .nul, .zero⟩, .wid ⟨7, .w 1, .nul, .zero⟩,
    .unpk ⟨.inp 0, .w 1, 4, true, .ofA⟩, .pack ⟨.inp 0, .inp 1, .w 1, 13, true, true, .ofA⟩, .sel ⟨.inp 0, .inp 1, .w 1, 9, true, true, .ofA⟩, .lane ⟨.w 0, .w 1, 0, true, .ofA⟩,
    .merge ⟨.inp 0, .w 1, .w 1, .nul, true, true, .ofA⟩, .mark ⟨.inp 0, 0, .w 1, .nul, true, .ofA⟩, .mark ⟨.inp 0, 8, .w 1, .nul, true, .ofA⟩, .race ⟨.w 0, 0, .w 1, .nul, false, .ofA⟩,
    .hand ⟨.inp 0, 16, .w 1, .nul, true, .ofA⟩, .qlds ⟨.inp 0, 9, .w 1, .nul, true, .ofA⟩, .flog2 ⟨.inp 0, .w 1, 4, true, .ofA⟩, .isumr ⟨.inp 0, .w 1, 7, true, .ofA⟩,
    .fcvt ⟨.inp 0, 8, .w 1, 9, true, .ofA⟩, .icvt ⟨.inp 0, 8, .w 1, 8, true, .ofA⟩, .bcred ⟨.inp 0, 0, .w 1, 3, true, .ofA⟩, .pset ⟨.inp 0, 24, true⟩, .mxcfg ⟨.inp 0, 5, true⟩,
    .plog ⟨0, 16, 0⟩, .steer ⟨.inp 0, .inp 1, 0, true, true, .ofA⟩, .cast ⟨.inp 0, .w 1, true, false⟩, .qatm ⟨.inp 0, .inp 1, .w 1, 12, true, true, .ofA⟩,
    .qld ⟨.inp 0, .inp 1, .pr, .nul, true, true, .ofA⟩, .xlat ⟨.inp 0, .w 1, .pr, true, .ofA⟩, .mxrow ⟨.inp 0, .w 1, .nul, true, .ofA⟩, .switch ⟨.w 0, true⟩, .evt ⟨.w 0, 0, true⟩].all
    (fun i => i.fieldsOk && !i.wf) = true := by decide +kernel

/-- Terms at the ends of these fields that are well formed. -/
theorem test_well_formed : [
    Instr.sel ⟨.inp 0, .inp 1, .w 1, 8, true, true, .ofA⟩, .lane ⟨.inp 3, .out 3, 7, true, .next⟩, .mark ⟨.inp 0, 7, .w 7, .pr, true, .ofA⟩, .wid ⟨6, .w 1, .nul, .zero⟩, .bstat ⟨12, .w 1, .nul, .zero⟩,
    .cast ⟨.inp 0, .w 0, true, false⟩, .hand ⟨.inp 0, 15, .w 1, .nul, true, .ofA⟩, .qlds ⟨.inp 0, 8, .w 1, .nul, true, .ofA⟩, .steer ⟨.inp 0, .inp 1, 15, true, true, .ofA⟩, .st ⟨4, 2, .q, 0⟩,
    .csrRd ⟨1, 0x400⟩, .bcnCastConfigure ⟨1, 2, 3⟩, .moduleReset].all (fun i => i.wf) = true := by decide +kernel

/-- A word, numbered as the opcode table numbers it, and what it decodes to. -/
def decodes (t : Nat × Instr) : Bool := decodeTableWord 32 t.1 == some t.2

/-! A word of each constructor that has one, composed from the fields of 03 R62 to R85 as the opcode table places them. -/

theorem test_decode_untyped : [
    (0x00002310, .nop),
    (0x01B80300, .mov ⟨.k 7, .w 1, .pr, false, .ofA⟩),
    (0x02D9CED1, .sel ⟨.k 11, .w 7, .w 7, 13, false, false, .ofB⟩),
    (0x03901A00, .lane ⟨.k 2, .out 1, 0, false, .ofA⟩),
    (0x04235F12, .perm ⟨.w 4, .h 1, .out 3, .nul, false, false, .zero⟩),
    (0x057CE0F1, .and ⟨.h 3, .k 3, .pr, .out 3, false, false, .ofB⟩),
    (0x064A051D, .or ⟨.inp 1, .inp 0, .w 2, .nul, true, true, .ofB⟩),
    (0x0758D2E8, .xor ⟨.inp 3, .w 3, .h 1, .out 2, true, false, .ofA⟩),
    (0x08FB5241, .andn ⟨.k 15, .h 1, .h 1, .w 4, false, false, .ofB⟩),
    (0x095B5089, .bfx ⟨.inp 3, 13, .h 0, 8, true, .ofB⟩),
    (0x0A494080, .bfi ⟨.inp 1, 5, 0, 8, false, .ofA⟩),
    (0x0B48201A, .popc ⟨.inp 1, .pr, .w 1, true, .zero⟩),
    (0x0CF01813, .clz ⟨.k 14, .out 0, .w 1, false, .next⟩),
    (0x0D3246E6, .pack ⟨.w 6, .inp 1, .w 3, 14, false, true, .zero⟩),
    (0x0E801623, .unpk ⟨.k 0, .h 3, 2, false, .next⟩)
    ].all decodes = true := by decide +kernel
theorem test_decode_integer : [
    (0x124550F3, .add .i32 ⟨.inp 0, .k 5, .h 0, .out 3, false, false, .next⟩),
    (0x15526304, .sub .i16 ⟨.inp 2, .inp 1, .nul, .pr, false, true, .ofA⟩),
    (0x1A42CCB7, .adds .i32 ⟨.inp 0, .inp 3, .w 6, .h 3, false, true, .next⟩),
    (0x1FAF80F3, .subs .i64 ⟨.k 5, .k 14, .w 0, .out 3, false, false, .next⟩),
    (0x2242C45F, .mul .i32 ⟨.inp 0, .inp 3, .w 2, .w 5, true, true, .next⟩),
    (0x2541A042, .mulh .i16 ⟨.inp 0, .w 6, .pr, .w 4, false, false, .zero⟩),
    (0x2B5256E9, .mulhu .i64 ⟨.inp 2, .inp 1, .h 3, .out 2, true, false, .ofB⟩),
    (0x2F48CE39, .mad .i64 ⟨.inp 1, .w 3, 7, .w 3, true, false, .ofB⟩),
    (0x30E250E4, .min .i8 ⟨.k 12, .inp 1, .h 0, .out 2, false, true, .ofA⟩),
    (0x375BDA28, .max .i64 ⟨.inp 3, .h 3, .out 1, .w 2, true, false, .ofA⟩),
    (0x394E5E59, .minu .i16 ⟨.inp 1, .k 9, .out 3, .w 5, true, false, .ofB⟩),
    (0x3D4222EE, .maxu .i16 ⟨.inp 0, .inp 0, .nul, .out 2, true, true, .zero⟩),
    (0x43700620, .abs .i64 ⟨.h 2, .w 3, .w 2, false, .ofA⟩),
    (0x464A901A, .shl .i32 ⟨.inp 1, .inp 2, .h 0, .w 1, true, false, .zero⟩),
    (0x492200A4, .shr .i16 ⟨.w 4, .inp 0, .w 0, .h 2, false, true, .ofA⟩),
    (0x4F5A8C96, .sha .i64 ⟨.inp 3, .inp 2, .w 6, .h 1, false, true, .zero⟩),
    (0x536246D4, .cmpeq .i64 ⟨.h 0, .inp 1, .w 3, .out 1, false, true, .ofA⟩),
    (0x57500481, .cmplt .i64 ⟨.inp 2, .w 0, .w 2, .h 0, false, false, .ofB⟩),
    (0x5BEA9C06, .cmpltu .i64 ⟨.k 13, .inp 2, .out 2, .w 0, false, true, .zero⟩),
    (0x5E4ADE81, .cmple .i32 ⟨.inp 1, .inp 3, .out 3, .h 0, false, false, .ofB⟩)
    ].all decodes = true := by decide +kernel
theorem test_decode_float : [
    (0x61CCD273, .fadd .bf16 ⟨.k 9, .k 3, .h 1, .w 7, false, false, .next⟩),
    (0x64D84E21, .fsub .b8 ⟨.k 11, .w 1, .w 7, .w 2, false, false, .ofB⟩),
    (0x687A9C20, .fmul .b8 ⟨.h 3, .inp 2, .out 2, .w 2, false, false, .ofA⟩),
    (0x6CEAC811, .ffma .b8 ⟨.k 13, .inp 3, 4, .w 1, false, false, .ofB⟩),
    (0x71420CFC, .fmin .bf16 ⟨.inp 0, .inp 0, .w 6, .out 3, true, true, .ofA⟩),
    (0x76F49C22, .fmax .f16 ⟨.k 14, .k 2, .out 2, .w 2, false, false, .zero⟩),
    (0x7B521675, .fcmpeq .f32 ⟨.inp 2, .inp 0, .h 3, .w 7, false, true, .ofB⟩),
    (0x7F5696CB, .fcmplt .f32 ⟨.inp 2, .k 10, .h 3, .out 0, true, false, .next⟩),
    (0x820284C4, .fcmple .f16 ⟨.w 0, .inp 2, .w 2, .out 0, false, true, .ofA⟩),
    (0x87401240, .frcp .f32 ⟨.inp 0, .h 1, .w 4, false, .ofA⟩),
    (0x8940191A, .frsq .bf16 ⟨.inp 0, .out 0, .nul, true, .zero⟩),
    (0x8D582241, .fexp2 .bf16 ⟨.inp 3, .nul, .w 4, false, .ofB⟩)
    ].all decodes = true := by decide +kernel
theorem test_decode_conversion : [
    (0x9050103A, .flog2 ⟨.inp 2, .h 0, 3, true, .zero⟩),
    (0x9120CCE1, .fcvt ⟨.w 4, 3, .w 6, 14, false, .ofB⟩),
    (0x925B6239, .icvt ⟨.inp 3, 13, .nul, 3, true, .ofB⟩),
    (0x9358201B, .fsumr ⟨.inp 3, .pr, 1, true, .next⟩),
    (0x94502013, .fmaxr ⟨.inp 2, .pr, 1, false, .next⟩),
    (0x9558008B, .isumr ⟨.inp 3, .w 0, 8, true, .next⟩),
    (0x96580EB8, .imaxr ⟨.inp 3, .w 7, 11, true, .ofA⟩),
    (0x9774C830, .fscl ⟨.h 2, .k 3, .w 4, 3, false, false, .ofA⟩),
    (0x98202290, .pset ⟨.w 4, 9, false⟩),
    (0x99662230, .plog ⟨12, 24, 3⟩),
    (0x9A0010A3, .ptst ⟨0, .h 0, .h 2, .next⟩)
    ].all decodes = true := by decide +kernel
theorem test_decode_token : [
    (0xA003D670, .berth ⟨3, 239⟩),
    (0xA15AE31C, .cast ⟨.inp 3, .inp 3, true, true⟩),
    (0xA242DB1D, .put ⟨.inp 0, .inp 3, 1, true, true, .ofB⟩),
    (0xA3F80C90, .get ⟨.k 15, .w 6, .h 1, false, .ofA⟩),
    (0xA4401E5A, .getf ⟨.inp 0, .out 3, .w 5, true, .zero⟩),
    (0xA56A4254, .tag ⟨.h 1, .inp 1, .w 1, .w 5, false, true, .ofA⟩),
    (0xA64860E1, .mark ⟨.inp 1, 1, .pr, .out 2, false, .ofB⟩),
    (0xA7480020, .seq ⟨.inp 1, .w 0, .w 2, false, .ofA⟩),
    (0xA8C01690, .ord ⟨.k 8, .h 3, .h 1, false, .ofA⟩),
    (0xA94AE21A, .steer ⟨.inp 1, .inp 3, 1, true, false, .zero⟩),
    (0xAA4A906F, .merge ⟨.inp 1, .inp 2, .h 0, .w 6, true, true, .next⟩),
    (0xAB502318, .switch ⟨.inp 2, true⟩),
    (0xAC200052, .dly ⟨.w 4, .w 0, 5, false, .zero⟩),
    (0xAD585E52, .race ⟨.inp 3, 1, .out 3, .w 5, false, .zero⟩),
    (0xAE0014E1, .bstat ⟨0, .h 2, .out 2, .ofB⟩),
    (0xAF496310, .evt ⟨.inp 1, 5, false⟩)
    ].all decodes = true := by decide +kernel
theorem test_decode_beacon_and_matrix : [
    (0xB006A200, .bcarr ⟨26, 0⟩),
    (0xB1009A31, .bcwt ⟨2, .out 1, .w 3, .ofB⟩),
    (0xB2342310, .bcput ⟨.w 6, 16, false⟩),
    (0xB3068E41, .bcget ⟨26, .w 7, .w 4, .ofB⟩),
    (0xB457500A, .bcred ⟨.inp 2, 29, .h 0, 0, true, .zero⟩),
    (0xB5000E53, .gen ⟨.w 7, .w 5, .next⟩),
    (0xB603CCA2, .wid ⟨15, .w 6, .h 2, .zero⟩),
    (0xB7766310, .trap ⟨.h 2, 25, false⟩),
    (0xB8302310, .mxhdr ⟨.w 6, false⟩),
    (0xB950A310, .mxld ⟨.inp 2, 2, false⟩),
    (0xBAB82051, .mxrow ⟨.k 7, .pr, .w 5, false, .ofB⟩),
    (0xBB302310, .mxdrn ⟨.w 6, false⟩),
    (0xBC002310, .mxclr),
    (0xBD502200, .mxcfg ⟨.inp 2, 0, false⟩)
    ].all decodes = true := by decide +kernel
theorem test_decode_quay : [
    (0xC04A02FB, .qld ⟨.inp 1, .inp 0, .w 1, .out 3, true, false, .next⟩),
    (0xC1CAD2D4, .qst ⟨.k 9, .inp 3, .h 1, .out 1, false, true, .ofA⟩),
    (0xC24CD868, .qlds ⟨.inp 1, 19, .out 0, .w 6, true, .ofA⟩),
    (0xC356CA48, .qsts ⟨.inp 2, 27, .w 5, .w 4, true, .ofA⟩),
    (0xC4B24A25, .qldf ⟨.k 6, .inp 1, .w 5, .w 2, false, true, .ofB⟩),
    (0xC5520A74, .qstf ⟨.inp 2, .inp 0, .w 5, .w 7, false, true, .ofA⟩),
    (0xC6C20E03, .qatm ⟨.k 8, .inp 0, .w 7, 0, false, false, .next⟩),
    (0xC7DAA016, .qcpy ⟨.k 11, .inp 2, .pr, 1, false, true, .zero⟩),
    (0xC8481C5B, .xlat ⟨.inp 1, .out 2, .w 5, true, .next⟩),
    (0xC9565D02, .hand ⟨.inp 2, 25, .out 2, .pr, false, .zero⟩),
    (0xCA1820C2, .qfls ⟨.w 3, .pr, .out 0, false, .zero⟩),
    (0xCB42631C, .qpf ⟨.inp 0, .inp 1, true, true⟩),
    (0xCC4A510E, .chw ⟨.inp 1, .inp 1, .h 0, .pr, true, true, .zero⟩),
    (0xCDC80A81, .chr ⟨.k 9, .w 5, .h 0, false, .ofB⟩),
    (0xCE802310, .chcl ⟨.k 0, false⟩),
    (0xCF581688, .chst ⟨.inp 3, .h 3, .h 0, true, .ofA⟩),
    (0xD05CA08B, .blkmap ⟨.inp 3, .k 2, .pr, .h 0, true, false, .next⟩),
    (0xD1901B01, .blkref ⟨.k 2, .out 1, .pr, false, .ofB⟩),
    (0xD2080201, .blkrel ⟨.w 1, .w 1, .w 0, false, .ofB⟩),
    (0xD3500869, .qcmpl ⟨.inp 2, .w 4, .w 6, true, .ofB⟩)
    ].all decodes = true := by decide +kernel
theorem test_decode_pilot_alu_1 : [
    (0xE0BF9400, .aluAdd ⟨23, 30, 10⟩),
    (0xE0401E01, .aluSub ⟨8, 0, 15⟩),
    (0xE04F0C02, .aluAnd ⟨9, 28, 6⟩),
    (0xE0226203, .aluOr ⟨4, 9, 17⟩),
    (0xE0CC0004, .aluXor ⟨25, 16, 0⟩),
    (0xE01DB805, .aluAndn ⟨3, 22, 28⟩),
    (0xE0FBD406, .aluSll ⟨31, 15, 10⟩),
    (0xE0008607, .aluSrl ⟨0, 2, 3⟩),
    (0xE00E5608, .aluSra ⟨1, 25, 11⟩),
    (0xE07A8609, .aluSlt ⟨15, 10, 3⟩),
    (0xE030180A, .aluSltu ⟨6, 0, 12⟩),
    (0xE04E980B, .aluMin ⟨9, 26, 12⟩),
    (0xE0D2E60C, .aluMax ⟨26, 11, 19⟩),
    (0xE024C60D, .aluMinu ⟨4, 19, 3⟩),
    (0xE0F0300E, .aluMaxu ⟨30, 0, 24⟩),
    (0xE0DF4A10, .aluMul ⟨27, 29, 5⟩),
    (0xE0E2DC11, .aluMulh ⟨28, 11, 14⟩),
    (0xE0341C12, .aluMulhu ⟨6, 16, 14⟩),
    (0xE011EA13, .aluDiv ⟨2, 7, 21⟩),
    (0xE080E214, .aluDivu ⟨16, 3, 17⟩)
    ].all decodes = true := by decide +kernel
theorem test_decode_pilot_alu_2 : [
    (0xE0DC2415, .aluRem ⟨27, 16, 18⟩),
    (0xE0694016, .aluRemu ⟨13, 5, 0⟩),
    (0xE0540018, .aluClz ⟨10, 16⟩),
    (0xE07B0019, .aluCtz ⟨15, 12⟩),
    (0xE055001A, .aluPopc ⟨10, 20⟩),
    (0xE1662A0E, .addi ⟨12, 24, 10766⟩),
    (0xE27E3C18, .andi ⟨15, 24, 15384⟩),
    (0xE3F00364, .ori ⟨30, 0, 868⟩),
    (0xE4DBA764, .xori ⟨27, 14, 10084⟩),
    (0xE56E4095, .shi ⟨13, 25, .sra, 21⟩),
    (0xE6488371, .slti ⟨9, 2, 881⟩),
    (0xE73994B6, .sltiu ⟨7, 6, 5302⟩),
    (0xE8B244FB, .lui ⟨22, 148731⟩),
    (0xE9087E71, .adpc ⟨1, 32369⟩),
    (0xEA120115, .ld ⟨2, 8, .b, 277⟩),
    (0xEB111330, .st ⟨2, 4, .h, 816⟩),
    (0xEC260BF1, .ldx ⟨4, 24, .bu, 1009⟩),
    (0xED6B4E09, .amo ⟨13, 13, 7, false, false, false, .cas⟩),
    (0xEEF190FA, .beq ⟨30, 6, 4346⟩),
    (0xEF3365B0, .bne ⟨6, 13, 9648⟩)
    ].all decodes = true := by decide +kernel
theorem test_decode_pilot_system_1 : [
    (0xF0A5763D, .blt ⟨20, 21, 13885⟩),
    (0xF1806CEA, .bge ⟨16, 1, 11498⟩),
    (0xF2848632, .bltu ⟨16, 18, 1586⟩),
    (0xF3BD3CF0, .bgeu ⟨23, 20, 15600⟩),
    (0xF4907EE6, .jal ⟨18, 32486⟩),
    (0xF5D077DD, .jalr ⟨26, 1, 14301⟩),
    (0xF6000000, .fenceAcq),
    (0xF6000001, .fenceRel),
    (0xF6000002, .fenceFull),
    (0xF6000003, .fenceIo),
    (0xF7018000, .sysTrap ⟨6⟩),
    (0xF7000001, .sysEret),
    (0xF7000002, .sysWfe),
    (0xF7000003, .sysIdle),
    (0xF705BC04, .sysTlbinv ⟨22, 30⟩),
    (0xF7000005, .sysHalt),
    (0xF8180301, .csrRd ⟨3, 769⟩),
    (0xF8015105, .csrWr ⟨5, 261⟩),
    (0xF802A100, .csrSet ⟨10, 256⟩),
    (0xF8003202, .csrClr ⟨0, 514⟩)
    ].all decodes = true := by decide +kernel
theorem test_decode_pilot_system_2 : [
    (0xF990C000, .fabRload ⟨18, 3, 0⟩),
    (0xF9B7C001, .fabRstart ⟨22, 31⟩),
    (0xF937C002, .fabRstop ⟨6, 31⟩),
    (0xF95FEC03, .fabRsave ⟨11, 31, 22⟩),
    (0xF982A404, .fabRrest ⟨16, 10, 18⟩),
    (0xF96B8005, .fabRkill ⟨13, 14⟩),
    (0xF9FA8E06, .fabRplace ⟨31, 10, 7⟩),
    (0xF92FC007, .fabRstat ⟨5, 31⟩),
    (0xFA350000, .chnChopen ⟨6, 20⟩),
    (0xFAB1B201, .chnChclose ⟨22, 6, 25⟩),
    (0xFA0DDA02, .chnChput ⟨1, 23, 13⟩),
    (0xFA9C3603, .chnChtake ⟨19, 16, 27⟩),
    (0xFA561C04, .chnChstat ⟨10, 24, 14⟩),
    (0xFB074000, .bcnArrive ⟨29⟩),
    (0xFB40AC01, .bcnWait ⟨8, 2, 22⟩),
    (0xFBA27802, .bcnCast ⟨20, 9, 28⟩),
    (0xFBE41C03, .bcnRead ⟨28, 16, 14⟩),
    (0xFB022A04, .bcnReduceAnd ⟨8, 21⟩),
    (0xFB075E14, .bcnReduceOr ⟨29, 15⟩),
    (0xFB032224, .bcnReduceMax ⟨12, 17⟩)
    ].all decodes = true := by decide +kernel
theorem test_decode_pilot_system_3 : [
    (0xFB9A5205, .bcnPreempt ⟨19, 9, 9⟩),
    (0xFC7D2C00, .mapBlkref ⟨15, 20, 22⟩),
    (0xFC53E801, .mapBlkrel ⟨10, 15, 20⟩),
    (0xFC640C02, .mapBlkset ⟨12, 16, 6⟩),
    (0xFC519803, .mapBlkget ⟨10, 6, 12⟩),
    (0xFDC25200, .qosSlset ⟨24, 9, 9⟩),
    (0xFD9CC001, .qosSlget ⟨19, 19⟩),
    (0xFDDC5802, .qosLend ⟨27, 17, 12⟩),
    (0xFE318000, .evqPop ⟨6, 6⟩),
    (0xFE8B4001, .evqPeek ⟨17, 13⟩),
    (0xFEC74002, .evqAck ⟨24, 29⟩)
    ].all decodes = true := by decide +kernel

/-! Cell instructions that compute (05). -/

/-- 05 R123 to R126. -/
theorem test_untyped_results : [
    gives (.mov oU) [7, 8] [] [7, 8] 0,
    gives (.sel (oBF 0)) [1, 2] [3, 4] [1, 2] 0, gives (.sel (oBF 7)) [1, 2] [3, 4] [3, 4] 0,
    gives (.sel (oBF 8)) [1, 2] [3, 4] [1, 4] 0,
    gives (.lane (oUF 1)) [1, 2] [] (all8 2) 0, gives (.lane (oUF 7)) [1, 2] [] [] 0,
    gives (.perm oB) [0x44332211] [0x8003] (0x11110044 :: List.replicate 7 0x11111111) 0,
    gives (.and oB) [0xF0F0] [0xFF00] [0xF000] 0, gives (.or oB) [0xF0F0] [0xFF00] [0xFFF0] 0,
    gives (.xor oB) [0xF0F0] [0xFF00] [0x0FF0] 0, gives (.andn oB) [0xF0F0] [0xFF00] [0x00F0] 0,
    gives (.bfx (oUIF 4 7)) [0xABCD] [] [0xBC] 0, gives (.bfx (oUIF 0 31)) [0xABCD0123] [] [0xABCD0123] 0,
    gives (.bfi ⟨.inp 0, 8, 1, 7, true, .ofA⟩) [0x3FF] [] [0xFF05] 0,
    gives (.popc oU) [0xF0F, 0xFFFFFFFF] [] [8, 32] 0, gives (.clz oU) [1, 0x80000000] [] ([31, 0] ++ List.replicate 6 32) 0
    ].all id = true := by decide +kernel

/-- 05 R123: NOP fires and writes nothing. -/
theorem test_nop : ends .nop (two (tok [1]) (tok [2])) (fun t => (t.cell 0).w[1] == W [5] && (t.cell 0).flags == 0) = true := by
  decide +kernel

/-- 05 R127, each kind of narrowing and widening. -/
theorem test_pack_unpk : [
    gives (.pack (oBF 1)) [0x01801234] [3] [0x8034, 0, 0, 0, 3] 0, gives (.pack (oBF 5)) [0x00800001] [] [0x7F01] 0x20,
    gives (.pack (oBF 9)) [0x8000012C] [] [0x00FF] 0x20, gives (.pack (oBF 3)) [1, 2, 3] [7] [1, 3, 0, 0, 7] 0,
    gives (.unpk (oUF 5)) [0xFF01] [] [0xFFFF0001] 0, gives (.unpk (oUF 1)) [0xFF01] [] [0x00FF0001] 0,
    gives (.unpk (oUF 15)) [0, 0, 0, 0, 0x80000000] [] [0x80000000, 0xFFFFFFFF] 0
    ].all id = true := by decide +kernel

/-- 05 R128. -/
theorem test_integer_results : [
    gives (.add .i32 oB) [0xFFFFFFFF] [3] [2] 0, gives (.add .i8 oB) [0x01FF] [0x0101] [0x0200] 0,
    gives (.sub .i16 oB) [0x00000001] [0x00010002] [0xFFFFFFFF] 0, gives (.mul .i64 oB) [0, 1] [5] [0, 5] 0,
    gives (.mulh .i32 oB) [0x80000000] [2] [0xFFFFFFFF] 0, gives (.mulhu .i32 oB) [0x80000000] [2] [1] 0,
    gives (.mulh .i8 oB) [0xFF] [0x01] [0xFF] 0, gives (.mad .i32 oBW) [2] [3] [11] 0,
    gives (.min .i8 oB) [0x80] [0x7F] [0x80] 0, gives (.max .i8 oB) [0x80] [0x7F] [0x7F] 0,
    gives (.minu .i8 oB) [0x80] [0x7F] [0x7F] 0, gives (.maxu .i8 oB) [0x80] [0x7F] [0x80] 0,
    gives (.shl .i32 oB) [1, 1] [31, 32] [0x80000000] 0, gives (.shr .i16 oB) [0x8000, 1] [15, 16] [1] 0,
    gives (.sha .i32 oB) [0xFFFFFFF8, 0x80000000] [1, 40] [0xFFFFFFFC, 0xFFFFFFFF] 0,
    gives (.cmpeq .i32 oB) [1, 2] [2, 2] (0 :: List.replicate 7 0xFFFFFFFF) 0,
    gives (.cmplt .i32 oB) [0xFFFFFFFF, 1] [1, 1] [0xFFFFFFFF] 0, gives (.cmpltu .i32 oB) [0xFFFFFFFF, 1] [1, 2] [0, 0xFFFFFFFF] 0,
    gives (.cmple .i64 oB) [1, 0, 2] [1, 0, 1] ([0xFFFFFFFF, 0xFFFFFFFF, 0, 0] ++ List.replicate 4 0xFFFFFFFF) 0
    ].all id = true := by decide +kernel

/-- 05 R128, R129: the clamps and their flag. -/
theorem test_saturating_results : [
    gives (.adds .i8 oB) [0x7F] [1] [0x7F] 0x20, gives (.adds .i8 oB) [0x7E] [1] [0x7F] 0,
    gives (.subs .i16 oB) [0x8000] [1] [0x8000] 0x20, gives (.abs .i8 oU) [0x80FF] [] [0x7F01] 0x20,
    gives (.abs .i64 oU) [0, 0x80000000] [] [0xFFFFFFFF, 0x7FFFFFFF] 0x20
    ].all id = true := by decide +kernel

/-- 05 R130, R131, 04 R94 to R99: 1.5 and 2.25; a tie to even; an overflow; NaNs and infinities. -/
theorem test_float_results : [
    gives (.fadd .f32 oB) [0x3FC00000] [0x40100000] [0x40700000] 0, gives (.fsub .f32 oB) [0x3FC00000] [0x40100000] [0xBF400000] 0,
    gives (.fmul .f32 oB) [0x3FC00000] [0x40100000] [0x40580000] 0,
    gives (.fadd .f16 oB) [0x3C00] [0x1000] [0x3C00] 0x10, gives (.fadd .bf16 oB) [0x3F80] [0x3F80] [0x4000] 0,
    gives (.fadd .f32 oB) [0x7F7FFFFF] [0x7F7FFFFF] [0x7F800000] 0x14,
    gives (.fadd .f32 oB) [0x7F800001] [0x3F800000] [0x7FC00000] 1, gives (.fadd .f32 oB) [0x7FC00001] [0x3F800000] [0x7FC00000] 0,
    gives (.fadd .f32 oB) [0x7F800000] [0xFF800000] [0x7FC00000] 1, gives (.fmul .f32 oB) [0x7F800000] [0x80000000] [0x7FC00000] 1,
    gives (.fmin .f32 oB) [0x3F800000] [0xBF800000] [0xBF800000] 0, gives (.fmax .f32 oB) [0x80000000] [0] [0] 0,
    gives (.fmin .f32 oB) [0x7FC00000] [0x3F800000] [0x7FC00000] 0,
    gives (.fcmpeq .f16 oB) [0x7E003C00] [0x7E003C00] (0x0000FFFF :: List.replicate 7 0xFFFFFFFF) 0,
    gives (.fcmplt .f16 oB) [0x7E003C00] [0x7E004000] [0x0000FFFF] 1,
    gives (.fcmple .f16 oB) [0x40003C00] [0x3C003C00] (0x0000FFFF :: List.replicate 7 0xFFFFFFFF) 0,
    gives (.ffma .f32 oBW) [0x3FC00000] [0x40100000] [0x40580000] 0x10,
    gives (.ffma .f32 oBW) [] [] [0x408C0000] 0 ((two (tok [0x3FC00000]) (tok [0x40100000])).modCell 0 fun c =>
      { c with w := vset c.w 1 (W [0x3F800000]) })
    ].all id = true := by decide +kernel

/-- 04 R97 to R99: 1 + 2^−24 in f32 by the rounding mode (cfmt<9:8>): even, toward zero, up, down. -/
theorem test_rounding_modes : [(0, 0x3F800000), (1, 0x3F800000), (2, 0x3F800001), (3, 0x3F800000)].all (fun m =>
    gives (.fadd .f32 oB) [] [] [m.2] 0x10 (withCfmt (two (tok [0x3F800000]) (tok [0x33800000])) (m.1 * 256))) = true := by decide +kernel

/-- 04 R98 to R101: the least subnormal of binary16 and half of it, a tie; a negative value in an unsigned binary8 format of precision 3, which
comes to zero or does not; A36 at 2^−126 and below. -/
theorem test_rounding_edges : Fmt.f16.put 0 (.fin false 1 (-24)) = (1, 0) ∧ Fmt.f16.put 0 (.fin false 1 (-25)) = (0, 0x18) ∧ Fmt.f16.put 2 (.fin false 1 (-25)) = (1, 0x18) ∧
    (Fmt.b8 0x0B).isUnsigned = true ∧ (Fmt.b8 0x0B).put 0 (.fin true 1 0) = (0xFF, 1) ∧ (Fmt.b8 0x0B).put 0 (.fin true 1 (-40)) = (0, 0x18) ∧
    (Fmt.b8 0x0B).put 3 (.fin true 1 (-40)) = (0xFF, 1) ∧ Fmt.a36.roundFlush 0 false 1 (-127) = (0, 0x18) ∧ Fmt.a36.roundFlush 0 false 1 (-126) = (0x8000000, 0) := by decide +kernel

/-- 05 R131: the hypotheses on special operands. -/
theorem witness_float_special_operands :
    (Fmt.f32.decode 0x7F800001).isSnan = true ∧ (Fmt.f32.decode 0x7FC00000).isNan = true ∧
    Fmt.f32.decode 0x7F800000 = .inf false ∧ Fmt.f32.decode 0xFF800000 = .inf true ∧ Fmt.f32.decode 0x80000000 = .fin true 0 (-149) ∧
    Fmt.f32.decode 0x3F800000 = .fin false (0x7FFFFF + 1) (-23) ∧ Fmt.f32.decode 0xBF800000 = .fin true (0x7FFFFF + 1) (-23) ∧
    faddOp .f32 0 0x7F800000 0xFF800000 = (0x7FC00000, 1) ∧ fsubOp .f32 0 0x7F800000 0x7F800000 = (0x7FC00000, 1) ∧
    fmulOp .f32 0 0xFF800000 0 = (0x7FC00000, 1) ∧ faddOp .f32 0 0x80000000 0x80000000 = (0x80000000, 0) ∧
    faddOp .f32 0 0x3F800000 0xBF800000 = (0, 0) ∧ faddOp .f32 3 0x3F800000 0xBF800000 = (0x80000000, 0) := by decide +kernel

/-- 05 R133, R134: exact results and special operands, all elements alike. -/
theorem test_transcendentals : [
    gives (.frcp .f16 oU) (all8 0x40004000) [] (all8 0x38003800) 0, gives (.frcp .f32 oU) [0x7F800000] [] (0 :: List.replicate 7 0x7F800000) 2,
    gives (.frsq .bf16 oU) (all8 0x40804080) [] (all8 0x3F003F00) 0, gives (.fexp2 .f16 oU) (all8 0x42004200) [] (all8 0x48004800) 0,
    gives (.flog2 (oUF 2)) (all8 0x48004800) [] (all8 0x42004200) 0, gives (.frsq .f32 oU) (all8 0xFF800000) [] (all8 0x7FC00000) 1,
    gives (.flog2 (oUF 3)) (all8 0) [] (all8 0xFF800000) 2, gives (.fexp2 .f32 oU) (all8 0xFF800000) [] [] 0
    ].all id = true := by decide +kernel

/-- 05 R134: the hypotheses on special operands, and a negative one. -/
theorem witness_transcendental_operands :
    Fmt.f32.isB8 = false ∧ Fmt.f32.decode 0 = .fin false 0 (-149) ∧ Fmt.f32.decode 0x7F800000 = .inf false ∧
    Fmt.f32.decode 0xFF800000 = .inf true ∧ (Fmt.f32.decode 0x7F800001).isNan = true ∧ Fmt.f32.decode 0xBF800000 = .fin true (0x7FFFFF + 1) (-23) ∧
    frsqOp .f32 0 0xBF800000 = (0x7FC00000, 1) ∧ flog2Op .f32 0 0x7F800001 = (0x7FC00000, 1) := by decide +kernel

/-- 04 R105: the spec's table of conversions from FP32 to b8p4se and to b8p4sf. -/
theorem test_convert_table :
    gives (.fcvt (oUIF 3 0)) [] [] [0x7E25CD40, 0x0000017F] 0x1C
      (withCfmt (two (tok [0x3F800000, 0xC0500000, 0x3DCCCCCD, 0x43680000, 0x43960000, 0x3AA00000, 0x39800000, 0x80000000]) (tok [])) 0x14) = true ∧
    gives (.fcvt (oUIF 3 0)) [] [] [0x7F7F7E80] 0x35
      (withCfmt (two (tok [0x7FA00000, 0x43680000, 0x43960000, 0x7F800000]) (tok [])) 0x04) = true := by decide +kernel

/-- 04 R105, 05 R135, R136: conversions to and between integers, and FSCL by 3. -/
theorem test_conversions : [
    gives (.fcvt (oUIF 3 10)) [0x40200000, 0xC0600000] [] [2, 0xFFFFFFFC] 0x10, gives (.fcvt (oUIF 3 8)) [0x7FC00000] [] [] 1,
    gives (.fcvt (oUIF 3 8)) [0xFF800000] [] [0x80] 0x21, gives (.fcvt (oUIF 10 3)) [0xFFFFFFFF] [] [0xBF800000] 0,
    gives (.icvt (oUIF 10 8)) [300, 0xFFFFFF00] [] [0x807F] 0x20, gives (.icvt (oUIF 8 12)) [0xFF] [] [] 0x20,
    gives (.icvt (oUIF 8 10)) [0xFF02] [] [2, 0xFFFFFFFF] 0, gives (.fscl (oBF 3)) [0x3FC00000] [3] [0x41400000] 0,
    gives (.fscl (oBF 3)) [0x7F800001] [3] [0x7FC00000] 1
    ].all id = true := by decide +kernel

/-- 04 R105: the hypotheses of Convert, from float and from integer sources. -/
theorem witness_convert :
    (fmtOfCode .reset 3).decode 0x7FC00000 = .nan false ∧ (fmtOfCode .reset 3).decode 0xFF800000 = .inf true ∧
    convert .reset 3 8 0x7FC00000 = (0, 1) ∧ convert .reset 3 8 0xFF800000 = (0x80, 0x21) ∧ convert .reset 3 2 0x3F800000 = (0x3C00, 0) ∧
    convert .reset 10 8 127 = (127, 0) ∧ convert .reset 10 8 128 = (127, 0x20) := by decide +kernel

/-- 05 R137: the reductions; the float sum is of neighbours level by level. -/
theorem test_reductions : [
    gives (.fsumr (oUF 3)) [0x3F800000, 0x40000000, 0x40400000] [] [0x40C00000] 0,
    gives (.fmaxr (oUF 3)) [0xBF800000, 0x40000000] [] [0x40000000] 0,
    gives (.isumr (oUF 10)) [0xFFFFFFFF, 3] [] [2] 0, gives (.isumr (oUF 14)) [0xFFFFFFFF, 3] [] [2, 1] 0,
    gives (.imaxr (oUF 10)) [0xFFFFFFFF, 3] [] [3] 0, gives (.imaxr (oUF 14)) [0xFFFFFFFF, 3] [] [0xFFFFFFFF] 0
    ].all id = true := by decide +kernel

/-- The predicates after an instruction, from p = 1. -/
def preds (i : Instr) (a : List Nat) (p : Nat) : Bool := ends i (two (tok a) (tok [])) fun t => (t.cell 0).p.toNat == p

/-- 05 R138 to R140. -/
theorem test_predicates : [
    (((two (tok [1]) (tok [])).cell 0).ready (ofKF (oKF 1))), preds (.pset (oKF 1)) [1] 3, preds (.pset (oKF 0)) [0] 0, preds (.pset (oKF 8)) [0] 1,
    preds (.pset (oKF 15)) [0] 0x81, preds (.pset (oKF 16)) [0, 1, 1] 6,
    preds (.plog ⟨0, 0, 1⟩) [] 3, preds (.plog ⟨8, 1, 7⟩) [] 0x81, preds (.plog ⟨16, 0, 0⟩) [] 0, preds (.plog ⟨24, 9, 2⟩) [] 1,
    gives (.ptst (oI 0)) [] [] [1] 0, gives (.ptst (oI 7)) [] [] [] 0, gives (.ptst (oI 8)) [] [] [1] 0
    ].all id = true := by decide +kernel

/-- 03 R68, 05 R120, 04 R102: what a firing writes: x and y, pr, sticky flags, seqc under rule 11. -/
theorem test_finish : (let s := two (tok [0x105]) (tok [2])
    let t := (s.finish ⟨none, none, .w 2, .pr, false, false, .next⟩ [] (W [0x1FF]) .zero 0x10).cell 0
    let u := (s.finish ⟨none, none, .w 2, .nul, false, false, .ofA⟩ [] (W [1]) .zero 0).cell 0
    t.w[2] = W [0x1FF] ∧ t.w[1] = W [5] ∧ t.p = 0xFF ∧ t.flags = 0x10 ∧ t.seqc = 1 ∧ u.p = 1 ∧ u.seqc = 0) := by decide +kernel

/-- 05 R120: a computing instruction and its frame: ADD to out port 2. -/
theorem witness_compute_frame : (computeForm (.add .i32 { oB with x := .out 2 })).isSome = true ∧
    ends (.add .i32 { oB with x := .out 2 }) (two (tok [1]) (tok [2])) (fun t =>
      (t.cell 0).stop == ((two (tok [1]) (tok [2])).cell 0).stop && t.pend.length == 1 && (t.cell 0).ctx.hands[2].wr == 1 &&
        (t.cell 0).ctx.hands[1].wr == 0 && (t.cell 0).w[1] == W [5]) = true ∧
    isPort (.out 2) = true ∧ isPort .nul = false ∧ (computeForm .nop).isSome = true := by decide +kernel

/-- Region 3 on cell 0, running, whose header enables traps. -/
def trapping (s : State) (traps : Nat) : State :=
  (s.modCell 0 fun c => { c with region := some 3 }).setRegion 3
    { Region.free with st := .running, gated := false, hdr := BitVec.ofNat 512 (traps * 2 ^ 120 + 15 * 2 ^ 104) }

/-- 04 R103: an enabled new flag stops the cell after the firing; one set before does not, nor one not enabled. -/
theorem test_arithmetic_trap : (let s := trapping (two (tok [0x7F]) (tok [1])) 0x20
    ((s.cell 0).stop.stopped = false) ∧
    ends (.adds .i8 oB) s (fun t => (t.cell 0).stop == ⟨true, 1, 0⟩ && (t.cell 0).w[1] == W [0x7F] && (t.cell 0).flags == 0x20 &&
      t.records.map (fun r => (r.body.toNat % 256, r.body.toNat / 2 ^ 64 % 256, r.body.toNat / 2 ^ 72 % 256)) == [(6, 1, 0x20)]) = true ∧
    ends (.adds .i8 oB) (s.modCell 0 fun c => { c with flags := 0x20 }) (fun t => !(t.cell 0).stop.stopped && t.records == []) = true ∧
    ends (.adds .i8 oB) (trapping (two (tok [0x7F]) (tok [1])) 0x1F) (fun t => !(t.cell 0).stop.stopped) = true) := by decide +kernel

/-! Berths, tokens, markers, routing, contexts and reports (06). -/

/-- The first event on the schedule is a token's arrival at a slot of cell 1024, port 2. -/
def sends (t : State) (slot due : Nat) (v : Wide) : Bool :=
  match t.pend with
  | [p] => p.ev == .tokenArrival 1024 0 2 slot ⟨v, .zero⟩ && p.due == due
  | _ => false

/-- 06 R146, 10 R262: CAST pops both heads; a slot with two readers keeps its token, one with one is freed. -/
theorem test_cast : (let s := (two (tok [1]) (tok [2])).modCell 0 fun c => c.setSlot 0 ⟨W [1], .zero, 0xFF, 2⟩
    (s.cell 0).ready (ofKB oKB) = true ∧ (s.cell 0).dataAt 0 = true ∧ (s.cell 0).dataAt 1 = true ∧
    ends (.cast oKB) s (fun t => ((t.cell 0).slot 0).rdr == 1 && ((t.cell 0).slot 0).fe == 0xFF && ((t.cell 0).slot 4).rdr == 0 &&
      ((t.cell 0).slot 4).fe == 0 && (t.cell 0).ctx.rings[0].held == 1 && (t.cell 0).ctx.rings[1].held == 0) = true) := by decide +kernel

/-- 10 R262: with two slots held the head moves to the next. -/
theorem witness_pop_advances : (let c := ((two (tok [1]) (tok [2])).cell 0).setSlot 1 ⟨W [7], .zero, 0xFF, 1⟩
    let d := c.modCtx 0 fun x => x.modRing 0 fun r => { r with held := 2, tail := 2 }
    d.dataAt 0 = true ∧ (d.slot (d.headIdx d.actx 0)).rdr ≤ 1 ∧ d.ctx.rings[0].pad = none ∧ 1 < d.ctx.rings[0].held ∧
    (d.slot (bdBase d.ctx.binds[0] + (d.ctx.rings[0].head + 1) % bdCap d.ctx.binds[0])).rdr ≠ 0 ∧
    (d.popPort 0).ctx.rings[0].head = 1 ∧ (d.popPort 0).ctx.rings[0].held = 1) := by decide +kernel

/-- 06 R143: BERTH on a handle that is not valid and not outstanding: 5 slots, to cell 1024 (8 columns to the east and a strip). -/
theorem test_berth : (let s := (two (tok [1]) (tok [2])).modCell 0 fun c => c.modCtx 0 fun x => { x with hands := .replicate 4 .none }
    (cur s).ctx.hands[1].v = false ∧ (cur s).ctx.hands[1].out = false ∧
    ends (.berth ⟨1, 4⟩) s (fun t => (t.cell 0).ctx.hands[1].out && match t.pend with
      | [⟨due, _, _, _, .berthRequestArrival (.cell 1024) q, _⟩] => due == 11 && q.cnt == 5 && q.hnd == 1 && q.src == 0 && q.dport == 2
      | _ => false) = true) := by decide +kernel

/-- 06 R145: PUT at the last offset of its berth, and at the first beyond it. -/
theorem test_put : (let o : OpPO := ⟨.inp 0, .inp 1, 0, true, true, .ofA⟩
    let s := two (tok [7]) (tok [3])
    (cur s).ready (ofPO o) = true ∧ ends (.put o) s (fun t => sends t 11 11 (W [7]) && (t.cell 0).ctx.hands[0].wr == 1) = true ∧
    (cur (two (tok [7]) (tok [4]))).ready (ofPO o) = true ∧ stops (.put o) (two (tok [7]) (tok [4])) 3 0 = true) := by decide +kernel

/-- 06 R145: an ordinary write; the fourth write of a berth of four clears v at the end of the clk (01 R25). -/
theorem test_write_out : (let o : OpU := { oU with x := .out 0 }
    let s := (two (tok [7]) (tok [3])).modCell 0 fun c => c.modCtx 0 fun x => x.modHand 0 fun h => { h with wr := 3 }
    ends (.mov o) (two (tok [7]) (tok [3])) (fun t => sends t 8 11 (W [7]) && (t.cell 0).ctx.hands[0].v) = true ∧
    ends (.mov o) s (fun t => sends t 11 11 (W [7]) && (t.cell 0).ctx.hands[0].v && (t.cell 0).ctx.hands[0].wr == 4 &&
      !(t.cell 0).endClk.ctx.hands[0].v) = true) := by
  decide +kernel

/-- 06 R147: GET of a slot that is empty, GETF of one that is full, and one that waits. -/
theorem test_get_getf : (let s := (two (tok [20]) (tok [0])).modCell 0 fun c => c.setSlot 20 ⟨W [9], .zero, 0x7F, 1⟩
    let f := (two (tok [20]) (tok [0])).modCell 0 fun c => c.setSlot 20 ⟨W [9], .zero, 0xFF, 1⟩
    (cur s).ready (ofU oU) = true ∧ (cur s).snap = none ∧ ends (.get oU) s (fun t => (t.cell 0).w[1] == W [9]) = true ∧
    waits (.getf oU) s = true ∧ ends (.getf oU) f (fun t => (t.cell 0).w[1] == W [9]) = true) := by decide +kernel

/-- Quay cell 126 (strip 0, north) of region 3, whose quay area is 16 slots from slot 0 up; slot 5 is full in word 0 alone. -/
def quayTwo (a b : Token) : State :=
  (((at2 126 a b).modCell 126 fun c => { c with region := some 3 }).setRegion 3 { Region.free with hdr := BitVec.ofNat 512 (512 * 2 ^ 160) }).modQuay 0
    fun q => { q with bw := 1, slots := [(5, ⟨W [9], .zero, 0x01, 1⟩)], areas := [⟨0, 16, .inl 3⟩] }

/-- 06 R147, 08 R202: berth-way slots from a quay cell: GET, QLDF with full and with part masks, QSTF, and the first slot outside. -/
theorem test_berth_way_slots : (let a := 0x80000000
    (cur (quayTwo (tok [a + 5]) (tok [1]))).ready (ofB oB) = true ∧
    bwOut (quayTwo (tok [a + 5]) (tok [1])) 126 5 = false ∧
    ends (.get oU) (quayTwo (tok [a + 5]) (tok [])) (fun t => (t.cell 126).w[1] == W [9]) = true ∧
    ends (.qldf oB) (quayTwo (tok [5]) (tok [1])) (fun t => (t.cell 126).w[1] == W [9]) = true ∧
    waits (.qldf oB) (quayTwo (tok [5]) (tok [0])) = true ∧ waits (.qldf oB) (quayTwo (tok [5]) (tok [2])) = true ∧
    ends (.qstf oB) (quayTwo (tok [5, 2]) (tok [8])) (fun t => (t.quay 0).slots == [(5, ⟨W [9], .zero, 0x01, 1⟩)] &&
      (t.quay 0).qstf == [(5, 2, W [8])]) = true ∧
    bwOut (quayTwo (tok [5]) (tok [1])) 126 (16) = true ∧
    stops (.get oU) (quayTwo (tok [a + 16]) (tok [])) 3 0 = true ∧ stops (.qldf oB) (quayTwo (tok [16]) (tok [1])) 3 0 = true ∧
    stops (.qstf oB) (quayTwo (tok [16]) (tok [1])) 3 0 = true) := by decide +kernel

/-- A tag window of two tags, n of them drawn (06 R150, R151). -/
def window (s : State) (n : Nat) : State := s.modCell 0 fun c => { c with tagSize := 2, tagOld := 4, tagNext := BitVec.ofNat 12 (4 + n) }

/-- 06 R148, R149: TAG takes the header bit and sequence from B, MARK the level from its immediate. -/
theorem test_tag_mark : (let x : OpB := { oB with x := .out 0 }
    let y : OpUI := { oUI 7 with x := .out 0 }
    (cur (two (tok [7]) (tok [0x1005]))).ready (ofB x) = true ∧ (cur (two (tok [7]) (tok []))).ready (ofUI y) = true ∧
    ends (.tag x) (two (tok [7]) (tok [0x1005])) (fun t => t.pend.map (·.ev) == [.tokenArrival 1024 0 2 8 ⟨W [7], ⟨0, true, 5⟩⟩]) = true ∧
    ends (.mark y) (two (tok [7]) (tok [])) (fun t => t.pend.map (·.ev) == [.tokenArrival 1024 0 2 8 ⟨W [7], ⟨7, false, 0⟩⟩]) = true) := by
  decide +kernel

/-- 06 R150, R151: SEQ with room and without, ORD with the oldest tag and with another. -/
theorem test_seq_ord : (let x : OpU := { oU with x := .out 0 }
    let t4 : Token := ⟨W [7], ⟨0, false, 4⟩⟩
    (cur (window (two (tok [7]) (tok [])) 1)).ready (ofU x) = true ∧
    ends (.seq x) (window (two (tok [7]) (tok [])) 1) (fun t => (t.cell 0).tagNext == 6 && (t.cell 0).tagOld == 4 &&
      t.pend.map (·.ev) == [.tokenArrival 1024 0 2 8 ⟨W [7], ⟨0, false, 5⟩⟩]) = true ∧
    waits (.seq x) (window (two (tok [7]) (tok [])) 2) = true ∧
    (tokOf (window (two t4 (tok [])) 1) oU.a).tag.seq = (cur (window (two t4 (tok [])) 1)).tagOld ∧
    ends (.ord oU) (window (two t4 (tok [])) 1) (fun t => (t.cell 0).tagOld == 5 && (t.cell 0).tagNext == 5) = true ∧
    waits (.ord oU) (window (two (tok [7]) (tok [])) 1) = true) := by decide +kernel

/-- 06 R152: STEER of data to a masked port and to an unmasked one, and of a marker to each masked port. -/
theorem test_steer : (let o (y : Fin 32) : OpSF := ⟨.inp 0, .inp 1, y, true, true, .ofA⟩
    (cur (two (tok [7]) (tok [3]))).ready (ofSF (o 8)) = true ∧ (cur (two (tok [7]) (tok [3]))).ctx.hands[3].v = true ∧
    ends (.steer (o 8)) (two (tok [7]) (tok [3])) (fun t => sends t 8 11 (W [7]) && (t.cell 0).ctx.hands[3].wr == 1) = true ∧
    ends (.steer (o 7)) (two (tok [7]) (tok [3])) (fun t => t.pend == [] && (t.cell 0).ctx.rings[0].held == 0) = true ∧
    ends (.steer (o 13)) (two (mark 2 [7]) (tok [3])) (fun t => t.pend.length == 3 && (t.cell 0).ctx.hands[1].wr == 0) = true) := by decide +kernel

/-- 06 R153: MERGE takes A's port where it holds data, else B's, and waits where both hold markers. -/
theorem test_merge : (
    (cur (two (tok [7]) (tok [3]))).dataAt 0 = true ∧ (cur (two (mark 1 [7]) (tok [3]))).dataAt 0 = false ∧
    ends (.merge oB) (two (tok [7]) (tok [3])) (fun t => (t.cell 0).w[1] == W [7] && (t.cell 0).ctx.rings[1].held == 1) = true ∧
    ends (.merge oB) (two (mark 1 [7]) (tok [3])) (fun t => (t.cell 0).w[1] == W [3] && (t.cell 0).ctx.rings[0].held == 1) = true ∧
    waits (.merge oB) (two (mark 1 [7]) (mark 1 [3])) = true) := by decide +kernel

/-- 06 R155: SWITCH to a context by A, to the next of the control word, and to one that the header does not mark. -/
theorem test_switch : (let s (a : Nat) := (trapping (two (tok [a]) (tok [])) 0).setRegion 3 { Region.free with hdr := BitVec.ofNat 512 (3 * 2 ^ 104) }
    (cur (s 5)).ready (ofKU oKU) = true ∧ (cur (s 5)).swPend = false ∧
    ends (.switch oKU) (s 5) (fun t => (t.cell 0).swPend && (t.cell 0).swTgt == 1 && (t.cell 0).actx == 0) = true ∧
    ends (.switch oKU) (s 0) (fun t => (t.cell 0).swPend && (t.cell 0).swTgt == 0) = true ∧ stops (.switch oKU) (s 6) 4 2 = true) := by
  decide +kernel

/-- 06 R158: DLY of y = 2 and A = 5: due in 2^3 − 1 − 5 = 2 clk; RACE of k = 2 with both indices latched. -/
theorem test_dly_race : (let d := two (tok [13]) (tok [])
    let r := (two (tok [13]) (tok [])).modCell 0 fun c => { c with raceCnt := 2, raceLatch := vset (vset c.raceLatch 0 9) 1 4 }
    (cur d).ready (ofUF (oUF 2)) = true ∧ (cur d).dly.length < 64 ∧ hdrTraps (d.cellHdr 0) = 0 ∧
    ends (.dly (oUF 2)) d (fun t => (t.cell 0).dly.map (fun x => (x.due, x.pay)) == [(2, W [13])] && (t.cell 0).w[1] == W [5]) = true ∧
    (cur r).ready (ofUI (oUI 1)) = true ∧ (cur r).dataAt 0 = true ∧ (cur r).raceCnt = (oUI 1).b.val % 8 + 1 ∧
    ends (.race (oUI 1)) r (fun t => (t.cell 0).w[1] == W [9, 4] && (t.cell 0).raceCnt == 0) = true) := by decide +kernel

/-- BSTAT's lanes 0 to 2 for an index. -/
def stat (s : State) (b : Fin 32) (r : List Nat) : Bool := (cur s).ready (ofI (oI b)) && (cur s).snap.isNone &&
  ends (.bstat (oI b)) s fun t => (List.range 3).all fun l => (lane (t.cell 0).w[1] l).toNat == r.getD l 0

/-- 06 R160: each group of BSTAT: a handle, an in-port, flags and cfmt, contexts, tags, the race, deferred results. -/
theorem test_bstat : (let s := (window (two (tok [7]) (tok [])) 1).modCell 0 fun c =>
      { c with flags := 0x21, cfmt := 0x114, swcnt := 8, raceCnt := 3, dly := [⟨9, ⟨.none, .none, .zero, 0⟩, 0⟩] }
    [(0, [4, 0, 3 * 2 ^ 11 + 8 * 2 + 1]), (3, [4, 0, 3 * 2 ^ 11 + 8 * 2 + 1]), (4, [1, 3, 1]), (5, [1, 3, 1]), (6, []), (8, [0x21, 0x114]),
     (9, [0, 0, 8]), (10, [5, 4, 1]), (11, [3]), (12, [1, 0])].all (fun x => stat s (Fin.ofNat 32 x.1) x.2) = true ∧
    bdEn (cur s).ctx.binds[1] = true) := by decide +kernel

/-- 06 R161, R162: EVT's record and TRAP's stop. -/
theorem test_evt_trap : (let s := two (tok [7]) (tok [])
    (cur s).ready (ofKI (oKI 31)) = true ∧ (cur s).evtBusy = false ∧ (cur s).stop.stopped = false ∧
    ends (.evt (oKI 31)) s (fun t => (t.cell 0).evtBusy && t.records.map (fun r => (r.cell, r.body.toNat % 256, r.body.toNat / 2 ^ 64 % 256,
      r.body.toNat / 2 ^ 128)) == [(some 0, 4, 31, 7)]) = true ∧
    ends (.trap (oKI 31)) s (fun t => (t.cell 0).stop == ⟨true, 2, 0⟩ && t.records.map (fun r => (r.body.toNat % 256, r.body.toNat / 2 ^ 64 % 65536,
      r.body.toNat / 2 ^ 128 % 2 ^ 64)) == [(6, 2 + 31 * 256, 7)]) = true) := by decide +kernel

/-! The beacon, the abacus and matrix mode (06, 07). -/

/-- Partition 0 on strips 0 and 1, to which beacon channel 31 is assigned. -/
def parted (s : State) : State := s.setPart 0 { Machine.Part.none with first := 0, count := 2, channels := 0x80000000 }

/-- The first event is the arrival at the root that a cell of strip 0 sends on channel 31, 36 clk later. -/
def arrives (t : State) (a o m : Word) : Bool := t.pend.map (fun p => (p.due, p.cls, p.sub, p.ev)) == [(36, clsBeacon, 0, .beaconArrivalAtRoot ⟨31, 0, 1, a, o, m⟩)] &&
  (t.cell 0).arrBits == 0x80000000

/-- 06 R166 to R168, 14 R329: an assigned channel. -/
theorem test_beacon_cell : (let s := parted (two (tok [7, 1]) (tok []))
    let g := s.setBeacon 31 { Beacon.reset with copy := [(0, 4)], bval := [(0, 0x500000006)], bcnt := [(0, 2)] }
    s.bcnOk 0 31 = true ∧ (cur s).arrBits.getLsbD 31 = false ∧ (cur s).ready (ofI (oI 31)) = true ∧ (cur s).ready (ofUIF (oUIF 31 2)) = true ∧
    ends (.bcarr ⟨31, 0⟩) s (fun t => arrives t 0xFFFFFFFF 0 0) = true ∧ ends (.bcarr ⟨31, 1⟩) s (fun t => arrives t 0xFFFFFFFF 0 0) = true ∧
    ends (.bcwt (oI 31)) g (fun t => (t.cell 0).w[1] == W [4]) = true ∧
    ends (.bcget (oI 31)) g (fun t => (t.cell 0).w[1] == W [6, 5, 2]) = true ∧
    ends (.bcput (oKI 31)) s (fun t => t.pend.map (fun p => (p.due, p.ev)) == [(36, .broadcastAtStrip 31 0 0x100000007), (36, .broadcastAtStrip 31 1 0x100000007)]) = true ∧
    ends (.bcred (oUIF 31 2)) s (fun t => arrives t 7 7 7 && (t.cell 0).bcred.map (fun b => (b.ch, b.op, b.w.x)) == [(31, 2, .reg 1)] &&
      (t.cell 0).w[1] == W [5]) = true) := by decide +kernel

/-- 16 R360: a channel of another partition stops the cell with cause 5. -/
theorem test_beacon_cell_unassigned : (let s := parted (two (tok [7, 1]) (tok []))
    s.bcnOk 0 30 = false ∧ stops (.bcarr ⟨30, 0⟩) s 5 30 = true ∧ stops (.bcwt (oI 30)) s 5 30 = true ∧ stops (.bcget (oI 30)) s 5 30 = true ∧
    stops (.bcput (oKI 30)) s 5 30 = true ∧ stops (.bcred (oUIF 30 0)) s 5 30 = true) := by decide +kernel

/-- An abacus of two rods of 2 bits with limits 2 and 3, at an identifier. -/
def rods (id : Nat) : Abacus := ⟨BitVec.ofNat 64 id, #v[2, 2, 0, 0, 0, 0], #v[2, 3, 1, 1, 1, 1], 0, false⟩

/-- 01 R14, 06 R163, R164: GEN of an identifier, of a pending marker, of the last marker, and the wait after it; WID. -/
theorem test_gen_wid : (let s (a : Abacus) := (two (tok []) (tok [])).modCell 0 fun c => { c with ab := a }
    let o : OpO := ⟨.w 1, .nul, .zero⟩
    (cur (s (rods 4))).ready (ofO o) = true ∧
    ends (.gen o) (s (rods 4)) (fun t => (t.cell 0).w[1] == W [4] && (t.cell 0).ab == rods 5) = true ∧
    ends (.gen o) (s { rods 4 with pending := 1 }) (fun t => (t.cell 0).w[1] == W [1] && (t.cell 0).ab == rods 4) = true ∧
    ends (.gen o) (s { rods 0 with pending := 7, done := true }) (fun t => (t.cell 0).w[1] == W [9] && (t.cell 0).ab == { rods 0 with done := true }) = true ∧
    waits (.gen o) (s { rods 0 with done := true }) = true ∧
    ends (.wid (oI 0)) (s { rods 9 with pending := 7, done := true }) (fun t => (t.cell 0).w[1] == W [9, 0, 7, 1]) = true ∧
    ends (.wid (oI 2)) (s (rods 9)) (fun t => (t.cell 0).w[1] == W [2]) = true ∧ ends (.wid (oI 6)) (s (rods 9)) (fun t => (t.cell 0).w[1] == W []) = true) := by
  decide +kernel

/-- 01 R14: a step with no carry, with a carry out of rod 0, and out of the top rod. -/
theorem witness_abacus_steps : (
    rodBase (rods 8) 6 ≤ 64 ∧ (∀ i < 6, 0 < rodLimit (rods 8) i ∧ rodLimit (rods 8) i ≤ 2 ^ rodWidth (rods 8) i ∧ rodVal (rods 8) 8 i < rodLimit (rods 8) i) ∧
    rodTop (rods 8) = 1 ∧ (rods 8).step = rods 9 ∧ (rods 1).step = { rods 4 with pending := 1 } ∧ (rods 1).step.prev = (rods 1).ident ∧
    (rods 9).step = { rods 0 with pending := 7, done := true } ∧ (∀ i < 6, rodVal (rods 9) 9 i < rodLimit (rods 9) i)) := by decide +kernel

/-- Cell c in matrix mode, of a region of three rows of row 0 up, both sides i8; block 0 holds the bytes 3 and 4. -/
def matrix (c : Nat) (a b : Token) (f : Matrix → Matrix := id) : State :=
  ((at2 c a b).modCell c fun k => { k with region := some 3, mx := f { k.mx with act := ⟨8, 0, 0, false⟩, wgt := ⟨8, 0, 0, false⟩, blk := vset k.mx.blk 0 (W [0x0403]) } }).setRegion 3
    { Region.free with row := 0, hdr := BitVec.ofNat 512 (3 * 2 ^ 56 + 15 * 2 ^ 104) }

/-- 07 R176 to R178: a good header, one with an unassigned format, MXLD, MXCLR. -/
theorem test_matrix_setup : (
    (cur (matrix 1 (tok [0x00050008]) (tok []))).ready (ofKU oKU) = true ∧
    ends (.mxhdr oKU) (matrix 1 (tok [0x00050008]) (tok [])) (fun t => (t.cell 1).mx.wgt == ⟨8, 0, 5, false⟩ && (t.cell 1).mx.act == ⟨8, 0, 0, false⟩ && (t.cell 1).flags == 0) = true ∧
    ends (.mxhdr oKU) (matrix 1 (tok [0x00050003]) (tok [])) (fun t => (t.cell 1).mx.wgt == ⟨8, 0, 0, true⟩ && (t.cell 1).flags == 1) = true ∧
    ends (.mxhdr oKU) (matrix 1 (tok [0x00050001]) (tok [])) (fun t => (t.cell 1).mx.wgt.bad && (t.cell 1).flags == 1) = true ∧
    ends (.mxld (oKI 3)) (matrix 1 (tok [7]) (tok [])) (fun t => (t.cell 1).mx.blk == #v[W [0x0403], 0, 0, W [7]]) = true ∧
    ends .mxclr (matrix 1 (tok []) (tok []) fun m => { m with acc := [(0, 5)], arow := 1, acnt := 3, latched := true, T := 2, P := 2 }) (fun t =>
      (t.cell 1).mx.acc == [] && (t.cell 1).mx.acnt == 0 && (t.cell 1).mx.arow == 0 && !(t.cell 1).mx.latched && (t.cell 1).mx.T == 2) = true) := by
  decide +kernel

/-- 07 R182: the selections of MXCFG, with legal and illegal values; it waits for a drain where it sets T and P. -/
theorem test_mxcfg : (let drained : State := matrix 1 (tok [0x0201]) (tok []) fun m => { m with drain := some ⟨0, .none, 0, false, [0]⟩ }
    let o (y : Fin 32) : Instr := .mxcfg (oKF y)
    (cur (matrix 1 (tok [0x0114]) (tok []))).ready (ofKF (oKF 0)) = true ∧
    ends (o 0) (matrix 1 (tok [0x0114]) (tok [])) (fun t => (t.cell 1).cfmt == 0x14 && (t.cell 1).flags == 0) = true ∧
    ends (o 0) (matrix 1 (tok [0x0110]) (tok [])) (fun t => (t.cell 1).cfmt == 0 && (t.cell 1).flags == 1) = true ∧
    ends (o 1) (matrix 1 (tok [3]) (tok [])) (fun t => (t.cell 1).cfmt == 0x300) = true ∧
    ends (o 2) (matrix 1 (tok [0x0114]) (tok [])) (fun t => (t.cell 1).cfmt == 0x114) = true ∧
    ends (o 2) (matrix 1 (tok [0x0134]) (tok [])) (fun t => (t.cell 1).cfmt == 0 && (t.cell 1).flags == 1) = true ∧
    ends (o 3) (matrix 1 (tok [0xFF01]) (tok [])) (fun t => (t.cell 1).mx.T == 2 && (t.cell 1).mx.P == 256) = true ∧ waits (o 3) drained = true ∧
    ends (o 4) (matrix 1 (tok [1, 2]) (tok [])) (fun t => (t.cell 1).mx.act.efmt == 1 && (t.cell 1).mx.wgt.efmt == 2 && (t.cell 1).flags == 0) = true ∧
    ends (o 4) (matrix 1 (tok [1, 8]) (tok [])) (fun t => (t.cell 1).mx.act.bad && (t.cell 1).mx.wgt.bad && (t.cell 1).flags == 1) = true) := by decide +kernel

/-- 04 R96, R107, R110, R111: the exact sum 1·3 + 2·4 = 11; a bad side; a NaN; 0 × ∞; infinities of both signs. -/
theorem test_column_sum : (let m := (cur (matrix 1 (tok []) (tok []))).mx
    let h : Matrix := { m with act := ⟨2, 0, 0, false⟩, wgt := ⟨2, 0, 0, false⟩, blk := vset m.blk 0 (W [0x7C00]) }
    columnSum m (W [0x0201]) 0 [] = (0x413000000, 0) ∧ columnSum { m with act := { m.act with bad := true } } (W [0x0201]) 0 [] = (0x7FC000000, 0) ∧
    m.act.efmt = 8 ∧ m.wgt.efmt = 8 ∧ m.act.cls = 8 ∧ h.act.cls = 16 ∧ (h.act.dec (eltN 16 (W [0x7E00]) 0)).isNan = true ∧
    (columnSum h (W [0x7E00]) 0 []).1 = 0x7FC000000 ∧ h.wgt.dec (eltN 16 h.blk[0] 0) = .inf false ∧ h.act.dec (eltN 16 (W [0]) 0) = .fin false 0 (-24) ∧
    columnSum h (W [0]) 0 [] = (0x7FC000000, 1) ∧ (columnSum m (W [0]) 0 [.nan false]).1 = 0x7FC000000 ∧
    columnSum m (W [0]) 0 [.inf true, .inf false] = (0x7FC000000, 1)) := by decide +kernel

/-- 07 R179 to R181: MXROW of a header; in a middle row, where 1 comes from above (11 + 1 = 12); in the bottom row, into the tile; the wait for a full tile. -/
theorem test_mxrow : (let hd : Token := ⟨W [0x00050008], ⟨0, true, 0⟩⟩
    let o (x y : Dst) : OpU := ⟨.inp 0, x, y, true, .ofA⟩
    let bot (a b : Token) (f : Matrix → Matrix) : State := matrix 2 a b f
    (cur (matrix 1 hd (tok []))).ready (ofU (o (.out 0) (.out 1))) = true ∧ (matrix 1 hd (tok [])).topRow 1 = false ∧ (bot hd hd id).bottomRow 2 = true ∧
    (matrix 0 hd hd).topRow 0 = true ∧
    ends (.mxrow (o (.out 0) (.out 1))) (matrix 1 hd (tok [])) (fun t => (t.cell 1).mx.act == ⟨8, 0, 5, false⟩ &&
      t.pend.map (·.ev) == [.tokenArrival 1024 0 2 8 hd] && (t.cell 1).ctx.hands[1].wr == 1) = true ∧
    ends (.mxrow (o (.out 0) .nul)) (matrix 1 hd (tok [])) (fun t => t.pend == [] && (t.cell 1).mx.act.scale == 5) = true ∧
    ends (.mxrow (o (.out 0) .nul)) (matrix 1 (tok [0x0201]) (tok [0xF8000000, 3])) (fun t =>
      t.pend.map (·.ev) == [.tokenArrival 1024 0 2 8 (tok [0x14000000, 4])]) = true ∧
    ends (.mxrow (o .nul .nul)) (bot (tok [0x0201]) (tok []) fun m => { m with T := 2, P := 1 }) (fun t => let u := (t.cell 2).mx
      u.acc == [(0, 0x413000000), (1, 0), (2, 0), (3, 0)] && u.arow == 1 && u.acnt == 1 && u.latched && u.sa == 0) = true ∧
    ends (.mxrow (o .nul .nul)) (bot (tok [0x0201]) (tok []) fun m => { m with T := 2, P := 1, acnt := 1, arow := 1, latched := true, sa := 1 }) (fun t => let u := (t.cell 2).mx
      (u.acc.map fun x => (x.1, x.2.toNat)) == [(4, 0x7FC000000), (5, 0x7FC000000), (6, 0x7FC000000), (7, 0x7FC000000)] && u.arow == 0 && u.acnt == 2) = true ∧
    waits (.mxrow (o .nul .nul)) (bot (tok [0x0201]) (tok []) fun m => { m with acnt := 1 }) = true) := by decide +kernel

/-- 07 R183, R184: MXDRN of two tokens of A36, without a route, and on a tile that is not complete. -/
theorem test_mxdrn : (let full (m : Matrix) : Matrix := { m with T := 2, P := 1, acnt := 2, acc := [(0, 0x413000000), (4, 0x3F8000000)] }
    let s := matrix 2 (tok [0x24]) (tok []) full
    let noRoute := s.modCell 2 fun c => c.modCtx 0 fun x => { x with routes := .replicate 4 0 }
    (cur s).ready (ofKU oKU) = true ∧ rtV (cur s).ctx.routes[0] = true ∧ hdrTraps (s.cellHdr 2) = 0 ∧
    ends (.mxdrn oKU) s (fun t => (t.cell 2).ctx.hands[0].wr == 2 && (t.cell 2).ctx.hands[0].v && (t.cell 2).mx.drain.any fun d =>
      d.clr && d.toks.map (fun v => eltN 64 v 0) == [0x413000000, 0x3F8000000]) = true ∧
    rtV (cur noRoute).ctx.routes[0] = false ∧ stops (.mxdrn oKU) noRoute 6 0 = true ∧
    waits (.mxdrn oKU) (matrix 2 (tok [0x24]) (tok []) fun m => { full m with acnt := 1 }) = true) := by decide +kernel

/-! Quay instructions (08). -/

/-- Bytes written from addresses up, into memory that lists nothing. -/
def bytesOf (l : List (Nat × List Nat)) : List Host.Cell := l.foldl (fun m x => memWrites m x.1 (x.2.map fun b => BitVec.ofNat 8 b)) []

/-- A partition of strips 0 and 1 with granules 0 to 63, and a virtual device 0 with key id 1, its root table at 0x10000. Page 1 is granule 4 and
all accesses are allowed; page 2 is granule 5, its A and D bits clear; page 3 is granule 6, read only; page 4 is not for user mode; page 5 has a
reserved encoding; no other page is present (16 R353). Page 1 holds a block map of three blocks of 512 bytes (16 R357, R358): two of count 2, the second of
them copy-on-write, and one that is not valid. -/
def mapped (s : State) : State :=
  let s1 := (parted s).modPart 0 fun p => { p with ranges := [(0, 64)], allot := [64, 64, 64, 64, 64] }
  let s2 := s1.setVd 0 { Vd.none with keys := 2, root := some 0x10000, quota := 8 }
  { s2 with mem := bytesOf [(0x10000, [1, 1, 2]), (0x20000, [1, 1, 3]), (0x30008, [0xDF, 1, 4]), (0x30010, [0x1F, 1, 5]), (0x30018, [0x53, 1, 6]),
      (0x30020, [0xCF, 1, 7]), (0x30028, [0xD5, 1, 8]),
      (0x40000, [3, 0, 0, 0, 0, 1]), (0x40040, [1, 0, 2, 0, 0, 0, 0, 0, 0, 0, 5]), (0x40050, [3, 0, 2, 0, 0, 0, 0, 0, 0, 2, 5]), (0x50000, [0x2A])] }

/-- A frame-window entry on page 1. -/
def entry : Fw := ⟨true, .page 1, 0x40000, 65536, true, true, 1, 0, true⟩

/-- Quay cell 126 of region 3 with entries 0 to 6: page 1; 512 bytes of it; not readable; not writable; D not known; none; not valid. -/
def quay (a b : Token) (f : Cell → Cell := id) : State :=
  ((mapped (at2 126 a b)).setRegion 3 { Region.free with st := .running, gated := false, hdr := BitVec.ofNat 512 (15 * 2 ^ 104) }).modCell 126 fun c =>
    f { c with region := some 3, fw := #v[entry, { entry with len := 512 }, { entry with r := false }, { entry with w := false }, { entry with dKnown := false },
      .invalid, { entry with valid := false }, .invalid, .invalid, .invalid, .invalid, .invalid, .invalid, .invalid, .invalid, .invalid] }

/-- One request was issued, with its kind, address and order and one result; the cell counts it. -/
def asked (t : State) (k : ReqKind) (pa : Nat) (ord : Bool) (x : WDst) (v : Option Wide) : Bool :=
  t.reqs.map (fun r => (r.cell, r.kind, r.pa, r.ord, r.res.map fun d => (d.1.x, d.2))) == [(126, k, pa, ord, [(x, v)])] &&
    (t.cell 126).outOrd == (if ord then 1 else 0) && (t.cell 126).outUnord == (if ord then 0 else 1)

/-- Lane 0 of a handle: an entry, an offset, and whether it is ordered. -/
def hd (i off : Nat) (ord : Bool := false) : Nat := i * 65536 + off + (if ord then 2 ^ 30 else 0)

/-- 08 R193: the checks in their order: a fault handle or an entry with no source, alignment, bounds, permissions, D, ownership. -/
theorem test_access_checks : (let st (l : List Nat) (c d : Nat) : Bool := stops (.qld oB) (quay (tok l) (tok [])) c d
    let owned := (quay (tok [hd 0 32]) (tok [])).modRegion 3 fun g => { g with own := [(0, 0, 1)] }
    accessOf (quay (tok [hd 0 32]) (tok [])) (.qld oB) = some (ofB oB, 32, ⟨32, 32, 32, true, false⟩) ∧
    (cur (quay (tok [hd 0 32]) (tok []))).ready (ofB oB) = true ∧ (cur (quay (tok [hd 0 32]) (tok []))).outUnord < 1023 ∧
    st [2 ^ 31] 0x12 0 = true ∧ st [hd 5 0] 0x12 0 = true ∧ st [hd 0 8] 0x14 0 = true ∧ st [hd 1 512] 0x15 0 = true ∧ st [hd 2 0] 0x13 0 = true ∧
    stops (.qst oB) (quay (tok [hd 3 0]) (tok [])) 0x13 1 = true ∧ stops (.qatm (oBF 0)) (quay (tok [hd 3 2]) (tok [])) 0x14 0 = true ∧
    waits (.qst oB) (quay (tok [hd 4 0]) (tok [])) = true ∧ waits (.qld oB) (quay (tok [hd 6 0]) (tok [])) = true ∧
    (cur (quay (tok [hd 4 0]) (tok []))).trans = none ∧ owned.ownOk 126 (entry.va 32) = false ∧ stops (.qst oB) owned 0x16 0 = true) := by decide +kernel

/-- 08 R195, R198, R199, R203: at the last 32 bytes that the entry covers, a load, an ordered store and an atomic. -/
theorem test_access_issues : (let h := hd 1 480
    (quay (tok [h]) (tok [])).chk 126 (BitVec.ofNat 32 h) ⟨480, 32, 32, true, false⟩ = .ok 0x401E0 { entry with len := 512 } ∧
    (cur (quay (tok [h]) (tok []))).outOrd < 1023 ∧
    ends (.qld oB) (quay (tok [h]) (tok [])) (fun t => asked t .read 0x401E0 false (.reg 1) none && (t.cell 126).w[1] == W [5]) = true ∧
    ends (.qld oB) (quay (tok [hd 1 0]) (tok [480])) (fun t => asked t .read 0x401E0 false (.reg 1) none) = true ∧
    ends (.qst oB) (quay (tok [hd 1 480 true, 0x80]) (tok [1, 0, 0, 0, 0, 0, 0, 0x44332211])) (fun t =>
      asked t (.write [(0x401FC, 0x11), (0x401FD, 0x22), (0x401FE, 0x33), (0x401FF, 0x44)]) 0x401E0 true (.reg 1) (some 0)) = true ∧
    ends (.qatm (oBF 9)) (quay (tok [hd 0 4]) (tok [1, 2, 3, 4])) (fun t => asked t (.atom .cas false 1 3) 0x40004 false (.reg 1) none) = true ∧
    ends (.qatm (oBF 25)) (quay (tok [hd 0 8]) (tok [1, 2, 3, 4])) (fun t => asked t (.atom .cas true 0x200000001 0x400000003) 0x40008 false (.reg 1) none) = true) := by
  decide +kernel

/-- 08 R197: a store that is not ordered waits in the coalescing buffer; memory is as it was. -/
theorem test_store_coalesces : ends (.qst oB) (quay (tok [hd 0 64, 1]) (tok [0x44332211])) (fun t => t.mem == (quay (tok []) (tok [])).mem &&
    (t.cell 126).coal.map (fun l => (l.line, l.bytes, l.held.map fun x => x.2)) == [(0x800, [(0x40040, 0x11), (0x40041, 0x22), (0x40042, 0x33), (0x40043, 0x44)], [0])] &&
    (t.cell 126).outUnord == 1 && t.reqs == []) = true := by decide +kernel

/-- 08 R204: QCPY's count at its bounds, its source and its destination, a copy, and the wait for the copy limit. -/
theorem test_qcpy : (let s (a b n : Nat) := quay (tok [a]) (tok [b, n])
    let full := (s (hd 0 0) (hd 0 4096) 16).modQuay 0 fun q => { q with copyBytes := 65536 - 15 }
    (cur (s (hd 0 0) (hd 0 4096) 16)).ready (ofBF (oBF 1)) = true ∧
    stops (.qcpy (oBF 1)) (s (hd 0 0) (hd 0 4096) 0) 0x15 0 = true ∧ stops (.qcpy (oBF 1)) (s (hd 0 0) (hd 0 4096) 24) 0x15 0 = true ∧
    stops (.qcpy (oBF 1)) (s (hd 0 0) (hd 0 0) 65552) 0x15 0 = true ∧ stops (.qcpy (oBF 1)) (s (hd 2 0) (hd 3 0) 16) 0x13 0 = true ∧
    stops (.qcpy (oBF 1)) (s (hd 0 0) (hd 3 0) 16) 0x13 1 = true ∧ waits (.qcpy (oBF 1)) full = true ∧
    ends (.qcpy (oBF 1)) (s (hd 0 0) (hd 0 4096) 16) (fun t => asked t (.copy 0x41000 1 0 16 true) 0x40000 false (.reg 1) (some 0) && (t.quay 0).copyBytes == 16) = true) := by
  decide +kernel

/-- 08 R205: QPF of 1 byte fetches its line; one that fails a check, and one of no bytes, only fire. -/
theorem test_qpf : (let s (a n : Nat) := quay (tok [a]) (tok [n])
    (cur (s (hd 0 144) 1)).ready (ofKB oKB) = true ∧ hd 0 144 % 65536 < entry.len ∧
    ends (.qpf oKB) (s (hd 0 144) 1) (fun t => t.reqs.map (fun r => (r.kind, r.pa, r.res)) == [(.prefetch 128, 0x40080, [])] && (t.cell 126).outUnord == 0) = true ∧
    ends (.qpf oKB) (s (hd 2 144) 1) (fun t => t.reqs == [] && (t.cell 126).ctx.rings[0].held == 0 && !(t.cell 126).stop.stopped) = true ∧
    ends (.qpf oKB) (s (hd 0 144) 0) (fun t => t.reqs == [] && (t.cell 126).ctx.rings[0].held == 0) = true) := by decide +kernel

/-- A stream of literals 0 to 6: base 0x10040, strides 32 and 128 of rods 0 and 1, the abacus at (1, 1). -/
def stream (off : Nat) (tr : Option Trans) (ord : Bool := false) : State := quay (tok [off]) (tok []) fun c =>
  { (c.modCtx 0 fun x => { x with lits := #v[0x10040, 0, 32, 128, 0, 0, if ord then 4 else 0, 0, 0, 0, 0, 0, 0, 0, 0, 0] }) with ab := rods 5, trans := tr }

/-- What a translation of page 1 gives. -/
def frame1 : Frame := ⟨0x40000, 65536, true, true, 1, 0, true⟩

/-- 08 R200, R201: a marker; a data firing at 0x10040 + 32 + 128 + 64; the misaligned address; a store. -/
theorem test_streams : (let va : DWord := 0x10120
    let tr (w : Bool) (v : DWord) : Option Trans := some ⟨.stream v w, .ok frame1⟩
    let m := (stream 64 none).modCell 126 fun c => { c with ab := { c.ab with pending := 1 } }
    (cur m).ab.pending ≠ 0 ∧ ends (.qlds (oUI 0)) m (fun t => (t.cell 126).w[1] == W [4] && (t.cell 126).ab == rods 5) = true ∧
    ends (.qsts (oUI 0)) m (fun t => (t.cell 126).w[1] == W [4] && (t.cell 126).ab == rods 5) = true ∧
    (cur (stream 64 (tr false va))).streamVa (oUI 0) false = va ∧ (cur (stream 64 (tr false va))).ready (ofUI (oUI 0)) = true ∧
    ends (.qlds (oUI 0)) (stream 64 (tr false va)) (fun t => asked t .read 0x40120 false (.reg 1) none && (t.cell 126).ab == { rods 8 with pending := 1 } && (t.cell 126).trans.isNone) = true ∧
    waits (.qlds (oUI 0)) (stream 64 none) = true ∧ waits (.qlds (oUI 0)) (stream 4 none) = true ∧
    stops (.qlds (oUI 0)) (stream 4 (tr false 0x100E4)) 0x14 0 = true ∧ stops (.qlds (oUI 0)) (stream 4 (some ⟨.stream 0x100E4 false, .fail 0x10 1⟩)) 0x10 1 = true ∧
    (cur (stream 7 (tr true 0x100E0) true)).streamVa (oUI 0) true = 0x100E0 ∧ (stream 7 (tr true 0x100E0) true).ownOk 126 0x100E0 = true ∧
    ends (.qsts (oUI 0)) (stream 7 (tr true 0x100E0) true) (fun t => asked t (.write ((List.range 32).map fun k => (0x400E0 + k, if k = 0 then 7 else 0)))
      0x400E0 true (.reg 1) (some (W [5])) && (t.cell 126).ab == { rods 8 with pending := 1 }) = true ∧
    ends (.qsts (oUI 0)) (stream 7 (tr true 0x100E0)) (fun t => (t.cell 126).ab == { rods 8 with pending := 1 } && t.reqs == [] && (t.cell 126).coal.length == 1) = true) := by
  decide +kernel

/-- 08 R192: XLAT into entry 9 once translated; a probe that failed; a failure that stops; the wait; a translation of an equal token elsewhere. -/
theorem test_xlat : (let s (l2 : Nat) (st : Option TransSt) := (quay (tok [0x10044, 0, l2]) (tok []) id).modCell 126 fun c =>
      { c with trans := st.map fun x => ⟨.xlat 0x10044 (c.srcAt (.inp 0)), x⟩ }
    let other := (s 9 none).modCell 126 fun c => { c with trans := some ⟨.xlat 0x10044 { c.srcAt (.inp 0) with slot := 1 }, .ok frame1⟩ }
    (cur (s 9 none)).ready (ofU oU) = true ∧
    ends (.xlat oU) (s 9 (some (.ok frame1))) (fun t => (t.cell 126).w[1] == W [hd 9 0x44] && (t.cell 126).fw[9] == entry && (t.cell 126).trans.isNone) = true ∧
    ends (.xlat oU) (s 16 (some (.fail 0x13 0))) (fun t => (t.cell 126).w[1] == W [0x80000013] && (t.cell 126).fw[0] == .invalid) = true ∧
    stops (.xlat oU) (s 9 (some (.fail 0x13 0))) 0x13 0 = true ∧ waits (.xlat oU) (s 9 none) = true ∧ waits (.xlat oU) other = true) := by decide +kernel

/-- 08 R215: BLKMAP of block 0 of the map at 0x10000 in the same four ways. -/
theorem test_blkmap : (let s (l2 : Nat) (tr : Option Trans) := quay (tok [0x10000, 0, l2]) (tok [0]) fun c => { c with trans := tr }
    let bad : Option Trans := some ⟨.block 0x10000 0 true, .fail 0x17 0⟩
    let f : Frame := ⟨0x50000, 512, true, true, 1, 0, true⟩
    ends (.blkmap oB) (s 25 (some ⟨.block 0x10000 0 true, .ok f⟩)) (fun t => (t.cell 126).w[1] == W [hd 9 0] &&
      (t.cell 126).fw[9] == ⟨true, .block 0x10000 0 true, 0x50000, 512, true, true, 1, 0, true⟩) = true ∧
    ends (.blkmap oB) (s 48 bad) (fun t => (t.cell 126).w[1] == W [0x80000017] && (t.cell 126).fw[0] == .invalid) = true ∧
    stops (.blkmap oB) (s 16 bad) 0x17 0 = true ∧ waits (.blkmap oB) (s 25 none) = true) := by decide +kernel

/-- 08 R216: BLKREF and BLKREL issue one request for a block that is found, and stop on a misaligned header. -/
theorem test_blkref_issues : (let s (hdr blk : Nat) := quay (tok [hdr, 0, blk]) (tok [])
    let r := (s 0x10000 0).named 0 0 true 0x10000 0
    (s 0x10000 0).cellVd 126 = 0 ∧ r.1.toOption.isSome = true ∧ (r.2.blkFind 0 0 true 0x10000 0).1.toOption.isSome = true ∧
    ends (.blkref oU) (s 0x10000 0) (fun t => asked t (.blkop 0x10000 0 false) 0x40040 false (.reg 1) none) = true ∧
    ends (.blkrel oU) (s 0x10000 1) (fun t => asked t (.blkop 0x10000 1 true) 0x40050 false (.reg 1) none) = true ∧
    stops (.blkref oU) (s 0x10004 0) 0x14 0 = true ∧ stops (.blkrel oU) (s 0x10000 3) 0x18 1 = true) := by decide +kernel

/-- 08 R207 to R209: HAND of a held descriptor to the south quay cell of its region, of none, and to a cell that is no quay cell; QFLS and QCMPL. -/
theorem test_hand_flush : (let s (tgt : Nat) := (quay (tok [tgt]) (tok []) (fun c => { c with owned := vset c.owned 15 (BitVec.ofNat 64 (2 ^ 63 + 1)) })).modCell 127 fun c =>
      { c with region := some 3 }
    (cur (s 127)).ready (ofUI (oUI 15)) = true ∧ (cur (s 127)).owned[15].getLsbD 63 = true ∧ (s 127).atPlace 0 127 = 127 ∧
    ends (.hand (oUI 15)) (s 127) (fun t => !(t.cell 126).owned[15].getLsbD 63 && (t.cell 126).flush.map (fun f => (f.kind, f.w.x, f.pay)) ==
      [(.hand 127 15 (BitVec.ofNat 64 (2 ^ 63 + 1)), .reg 1, W [127])]) = true ∧
    stops (.hand (oUI 14)) (s 127) 0x16 0 = true ∧ stops (.hand (oUI 15)) (s 125) 0x16 1 = true ∧ stops (.hand (oUI 15)) (s 255) 0x16 1 = true ∧
    ends (.qfls oU) (s 7) (fun t => (t.cell 126).flush.map (fun f => (f.kind, f.w.x, f.pay)) == [(.stores, .reg 1, W [7])]) = true ∧
    ends (.qcmpl oU) (s 7) (fun t => (t.cell 126).flush.map (fun f => (f.kind, f.w.x, f.pay)) == [(.all, .reg 1, W [7])]) = true) := by decide +kernel

/-- Channel 5 of quay 0: open, for virtual device 0, elements of two tokens; its writer and reader are quay cell 126. -/
def channel : Chan := { Chan.unused with opened := true, vd := 0, e := 2, base := 0, nr0 := 4, writer := 126, reader := 126 }
def onChannel (a b : Token) (f : Chan → Chan := id) (g : Cell → Cell := id) : State := (quay a b g).setChan 5 (f channel)

/-- 08 R210 to R214: CHW of an element's first token and of its second, to a closed channel, of a marker within an element, not as the writer, and to none. -/
theorem test_chw : (let s (f : Chan → Chan) := onChannel (tok [5]) (tok [7]) f
    (s id).chanOf (payOf (s id) (.inp 0)) = 5 ∧ (s id).partOf 0 = some 0 ∧ ((s id).place 126).toNat = 126 ∧ (s id).chanPos 5 = 0 ∧ (cur (s id)).ready (ofB oB) = true ∧
    ends (.chw oB) (s id) (fun t => t.reqs.map (fun r => (r.kind, r.res)) == [(.chw 5 (tok [7]) true, [])] && (t.cell 126).chwBusy) = true ∧
    ends (.chw oB) (s fun c => { c with wpos := 1 }) (fun t => asked t (.chw 5 (tok [7]) false) 0 false (.reg 1) none && !(t.cell 126).chwBusy) = true ∧
    ends (.chw oB) (onChannel (tok [5]) (mark 1 [7])) (fun t => asked t (.chw 5 (mark 1 [7]) true) 0 false (.reg 1) none) = true ∧
    stops (.chw oB) (s fun c => { c with closed := true }) 0x1A 0 = true ∧ stops (.chw oB) ((s id).issue ⟨.chcl 5, 0, 0, 0, 0, false, false⟩ []) 0x1A 0 = true ∧
    stops (.chw oB) (onChannel (tok [5]) (mark 1 [7]) fun c => { c with wpos := 1 }) 0x19 3 = true ∧
    stops (.chw oB) (s fun c => { c with writer := 127 }) 0x19 2 = true ∧ stops (.chw oB) (s fun c => { c with opened := false }) 0x19 0 = true) := by decide +kernel

/-- 08 R210 to R214: CHR, CHST and CHCL. -/
theorem test_channel_cell : (let s (f : Chan → Chan) := onChannel (tok [5]) (tok [7]) f
    ends (.chr oU) (s id) (fun t => asked t (.chr 5) 0 false (.reg 1) none && (t.cell 126).chrBusy) = true ∧
    waits (.chr oU) (onChannel (tok [5]) (tok [7]) id fun c => { c with chrBusy := true }) = true ∧
    stops (.chr oU) (s fun c => { c with reader := 0x40000000 + 126 }) 0x19 2 = true ∧
    ends (.chst oU) (s id) (fun t => asked t (.chst 5) 0 false (.reg 1) none) = true ∧ stops (.chst oU) (s fun c => { c with vd := 1 }) 0x19 1 = true ∧
    ends (.chcl oKU) (s id) (fun t => t.chan 5 == channel && t.reqs.map (fun r => (r.kind, r.res)) == [(.chcl 5, [])] &&
      t.reqs.all fun r => (t.serveChan r).chan 5 == { channel with closed := true }) = true ∧ stops (.chcl oKU) (s fun c => { c with wpos := 1 }) 0x19 4 = true) := by
  decide +kernel

/-! Pilots (09). -/

/-- Pilot 0 in supervisor mode at 0x10100 on the mapped partition, with registers set. Page 1 also holds the bytes 0x80 and 0xFF from 0x10140 up;
the quay's buffer holds page 1. -/
def pilot (g : List (Nat × Nat)) (f : Pilot → Pilot := id) : State :=
  let s := (mapped State.reset).modQuay 0 fun q => { q with tlb := [⟨0, 1, 0, 0x401DF⟩] }
  { s.setPilot 0 (f { Pilot.reset with
      online := true, pc := 0x10100, tvec := 0x20000
      g := g.foldl (fun v x => vset v (Fin.ofNat 32 x.1) (BitVec.ofNat 64 x.2)) (.replicate 32 0) }) with
    mem := memWrites s.mem 0x40140 [0x80, 0xFF] }

def user (p : Pilot) : Pilot := { p with status := 0x200 }

/-- The next pilot state after an instruction. -/
def endsP (i : Instr) (s : State) (P : Pilot → Bool) : Bool := ends i s fun t => P (t.pilot 0)

/-- With g2 and g3 given, an instruction puts a value in g1 and moves on by 4. -/
def puts (i : Instr) (x y v : Nat) : Bool := endsP i (pilot [(2, x), (3, y)]) fun p => (p.reg 1).toNat == v && p.pc == 0x10104 && p.reg 2 == BitVec.ofNat 64 x

def r123 : OpR3 := ⟨1, 2, 3⟩

/-- 09 R220: g0 reads as zero and keeps no write. -/
theorem test_g0 : ((pilot []).ret 0 7).g 0 = 0 ∧ (((pilot []).ret 5 7).pilot 0).reg 5 = 7 ∧ (((pilot []).ret 5 7).pilot 0).reg 6 = 0 ∧
    (((pilot []).ret 31 7).pilot 0).reg 31 = 7 ∧ endsP (.addi ⟨0, 0, 5⟩) (pilot []) (fun p => p.reg 0 == 0 && p.g[0] == 0) = true := by decide +kernel

/-- 03 R83, 09 R228. -/
theorem test_alu : (let M := 2 ^ 64
    [puts (.aluAdd r123) (M - 1) 3 2, puts (.aluSub r123) 1 3 (M - 2), puts (.aluAnd r123) 12 10 8, puts (.aluOr r123) 12 10 14, puts (.aluXor r123) 12 10 6,
    puts (.aluAndn r123) 12 10 4, puts (.aluSll r123) 1 67 8, puts (.aluSrl r123) (M - 8) 65 (M / 2 - 4), puts (.aluSra r123) (M - 8) 1 (M - 4), puts (.aluSlt r123) (M - 1) 0 1,
    puts (.aluSltu r123) (M - 1) 0 0, puts (.aluMin r123) (M - 1) 1 (M - 1), puts (.aluMax r123) (M - 1) 1 1, puts (.aluMinu r123) (M - 1) 1 1,
    puts (.aluMaxu r123) (M - 1) 1 (M - 1), puts (.aluMul r123) (M - 1) 3 (M - 3), puts (.aluMulh r123) (M - 1) 3 (M - 1), puts (.aluMulhu r123) (M - 1) 3 2,
    puts (.aluDiv r123) (M - 7) 2 (M - 3), puts (.aluRem r123) (M - 7) 2 (M - 1), puts (.aluDivu r123) 7 2 3, puts (.aluRemu r123) 7 2 1,
    puts (.aluClz ⟨1, 2⟩) 1 0 63, puts (.aluClz ⟨1, 2⟩) 0 0 64, puts (.aluCtz ⟨1, 2⟩) 8 0 3, puts (.aluCtz ⟨1, 2⟩) 0 0 64, puts (.aluPopc ⟨1, 2⟩) (M - 1) 0 64].all id = true) := by
  decide +kernel

/-- 09 R228: division by zero and of the least number by −1. -/
theorem test_division_corners : (let M := 2 ^ 64
    [puts (.aluDiv r123) 7 0 (M - 1), puts (.aluRem r123) 7 0 7, puts (.aluDivu r123) 7 0 (M - 1), puts (.aluRemu r123) 7 0 7, puts (.aluDiv r123) (M / 2) (M - 1) (M / 2),
    puts (.aluRem r123) (M / 2) (M - 1) 0].all id = true) := by decide +kernel

/-- 09 R229: immediates at the ends of their ranges. -/
theorem test_immediates : (let M := 2 ^ 64
    [puts (.addi ⟨1, 2, 0x2000⟩) 1 0 (M - 8191), puts (.andi ⟨1, 2, 0x3FFF⟩) (M - 1) 0 0x3FFF, puts (.ori ⟨1, 2, 0x2000⟩) 1 0 0x2001, puts (.xori ⟨1, 2, 1⟩) 3 0 2,
    puts (.slti ⟨1, 2, 0x3FFF⟩) (M - 2) 0 1, puts (.sltiu ⟨1, 2, 0x3FFF⟩) (M - 2) 0 0, puts (.sltiu ⟨1, 2, 0x3FFF⟩) 16382 0 1, puts (.shi ⟨1, 2, .sll, 63⟩) 1 0 (M / 2),
    puts (.shi ⟨1, 2, .srl, 63⟩) (M - 1) 0 1, puts (.shi ⟨1, 2, .sra, 63⟩) (M / 2) 0 (M - 1), puts (.lui ⟨1, 0x40000⟩) 0 0 (M - 2 ^ 32), puts (.adpc ⟨1, 1⟩) 0 0 0x14000,
    puts (.adpc ⟨1, 0x7FFFF⟩) 0 0 0xC000].all id = true) := by decide +kernel

/-- A branch on g2 and g3 goes back by 8, or on by 4. -/
def branches (i : OpBr → Instr) (x y : Nat) (taken : Bool) : Bool :=
  endsP (i ⟨2, 3, 0x3FFE⟩) (pilot [(2, x), (3, y)]) fun p => p.pc == if taken then 0x100F8 else 0x10104

/-- 09 R230: branches, jumps, the misaligned target, and the fetch of a page that is not present. -/
theorem test_branches : (let M := 2 ^ 64
    [branches .beq 1 1 true, branches .beq 1 2 false, branches .bne 1 2 true, branches .bne 1 1 false, branches .blt (M - 1) 0 true, branches .blt 0 0 false,
    branches .bge 0 0 true, branches .bge (M - 1) 0 false, branches .bltu (M - 1) 0 false, branches .bltu 0 1 true, branches .bgeu (M - 1) 0 true, branches .bgeu 0 1 false,
    endsP (.jal ⟨1, 0x7FFFF⟩) (pilot []) fun p => p.pc == 0x100FC && p.reg 1 == 0x10104,
    endsP (.jalr ⟨2, 2, 4⟩) (pilot [(2, 0x10200)]) fun p => p.pc == 0x10204 && p.reg 2 == 0x10104,
    endsP (.jalr ⟨2, 2, 2⟩) (pilot [(2, 0x10200)]) fun p => p.pc == 0x20000 && p.cause == 3 && p.tval == 0x10202 && p.reg 2 == 0x10200 && p.epc == 0x10100].all id = true) := by
  decide +kernel

/-- What a pilot has of a translation. -/
def gotIs (g : Got) (f : Frame) : Bool := match g with | .ok x => x == f | _ => false
def gotBad (g : Got) : Bool := match g with | .bad => true | _ => false
def gotWait (g : Got) : Bool := match g with | .wait => true | _ => false
/-- The walk that a pilot waits for has failed. -/
def walked (va : DWord) (acc : Acc) (p : Pilot) : Pilot := { p with walk := some ⟨0, va, acc, .fail 0x10 0⟩ }

/-- 09 R224: a fetch whose walk failed; one that goes to the home slice, which answers with the word and fills the L1 with the line. -/
theorem test_fetch : (let s := pilot [] fun p => walked 0x60002 .x { p with pc := 0x60002 }
    let u := pilot [] fun p => { p with pc := 0x10140 }
    let v := (u.serveAcc 0 ⟨9, 0x40140, 1, 0, 0, .fetch, []⟩).pilot 0
    (s.pilot 0).online = true ∧ (s.pilot 0).wait = .no ∧ (s.pilot 0).evTaken = false ∧ gotBad (s.ptrans 0 0x60002 .x).1 = true ∧
    (match s.turn (.pilot 0) with | .next t => (t.pilot 0).cause == 2 && (t.pilot 0).tval == 0x60002 && (t.pilot 0).epc == 0x60000 && (t.pilot 0).pc == 0x20000 | _ => false) = true ∧
    (match u.turn (.pilot 0) with | .next t => (t.pilot 0).wait == .fetching && (t.pilot 0).acc.map (fun a => (a.pa, a.what)) == some (0x40140, .fetch) | _ => false) = true ∧
    v.wait = .fetched 0xFF80 ∧ (v.l1i.map (·.1)) = [0x802]) := by decide +kernel

/-- LDX ends with what came from 0x10140 up: g4, and g5 for q. -/
def loads (z : MemSz) (raw v hi : Nat) : Bool :=
  endsP (.ldx ⟨4, 2, z, 0⟩) (pilot [(2, 0x10140)] fun p => { p with wait := .got 0 (BitVec.ofNat 128 raw) }) fun p =>
    (p.reg 4).toNat == v && (p.reg 5).toNat == hi && p.pc == 0x10104 && p.wait == .no
/-- A trap with its value. -/
def traps (i : Instr) (s : State) (cause tval : Nat) : Bool := endsP i s fun p => p.cause.toNat == cause && p.tval.toNat == tval && p.pc == 0x20000 && p.epc == 0x10100
/-- An access is on its way. -/
def askedP (i : Instr) (s : State) (pa : Nat) (w : PDo) : Bool :=
  endsP i s fun p => p.wait == .mem && p.pc == 0x10100 && p.acc.map (fun a => (a.pa, a.key, a.what)) == some (pa, 1, w)

/-- 03 R81, 09 R231, R232: the access and its walk, every size at its end, the traps, and the wait. -/
theorem test_loads : (let M := 2 ^ 64
    let s := pilot [(2, 0x10140)]
    let r := s.ptrans 0 0x10140 .r
    let late (p : Pilot) : Pilot := { p with wait := .got 9 0 }
    [loads .b 0xFF80 (M - 128) 0, loads .bu 0xFF80 128 0, loads .h 0xFF80 (M - 128) 0, loads .hu 0xFF80 0xFF80 0, loads .w 0xFFFFFFFE (M - 2) 0,
      loads .wu 0xFFFFFFFE 0xFFFFFFFE 0, loads .d (5 * M + 7) 7 0, loads .q (5 * M + 7) 7 5,
      askedP (.ldx ⟨4, 2, .h, 0⟩) s 0x40140 (.load false 2), askedP (.ld ⟨4, 2, .h, 0⟩) s 0x40140 (.load true 2),
      waits (.ld ⟨4, 2, .h, 0⟩) (pilot [] late), waits (.ldx ⟨4, 2, .h, 0⟩) (pilot [] fun p => { p with wait := .mem }),
      traps (.ld ⟨4, 2, .h, 0x7FF⟩) s 4 0x1013F, traps (.ldx ⟨4, 2, .d, 4⟩) s 4 0x10144, traps (.ld ⟨4, 2, .d, 0⟩) (pilot [(2, 0x60000)] (walked 0x60000 .r)) 6 0x60000,
      endsP (.ld ⟨4, 2, .d, 0⟩) (pilot [(2, 0x60000)]) fun p => p.wait == .walk].all id = true ∧
    gotIs r.1 frame1 = true ∧ r.2.poison = [] ∧ tblGet? (r.2.pilot 0).l1d (0x40140 / 128) = none ∧ gotWait (s.ptrans 0 0x60000 .r).1 = true ∧
    gotBad ((pilot [] (walked 0x60000 .r)).ptrans 0 0x60000 .r).1 = true ∧
    tblGet? (((pilot [(2, 0x10140)] fun p => { p with l1d := [(0x802, 7)] }).ptrans 0 0x10140 .r).2.pilot 0).l1d (0x40140 / 128) = some 7) := by decide +kernel

/-- 09 R232: a load served at its home slice; LD fills the L1 with the whole line. -/
theorem test_loads_served : (let s := pilot []
    let a (fill : Bool) : PAcc := ⟨9, 0x40140, 1, 0, 0, .load fill 2, []⟩
    let got (w : PWait) : Bool := match w with | .got 1 v => v.toNat % 2 ^ 16 == 0xFF80 | _ => false
    let bad : State := { s with poison := [0x4014] }
    s.poisonedAt 0x40140 2 = false ∧ s.joined 0 (a true) = none ∧ (a true).pre = [] ∧ s.poisonedAt (0x40140 / 128 * 128) 128 = false ∧
    got ((s.serveAcc 0 (a true)).pilot 0).wait = true ∧ got ((s.serveAcc 0 (a false)).pilot 0).wait = true ∧
    ((s.serveAcc 0 (a true)).pilot 0).l1d.map (·.1) = [0x802] ∧ ((s.serveAcc 0 (a false)).pilot 0).l1d = [] ∧
    bad.poisonedAt 0x40140 2 = true ∧ ((bad.serveAcc 0 (a true)).pilot 0).online = false) := by decide +kernel

/-- 09 R232: ST waits to be acknowledged; its traps; a store behind a FENCE.REL; the L1's copy follows. -/
theorem test_stores : (let s := pilot [(2, 0x10148), (4, 0x1122334455667788), (5, 0x99)]
    let old (rel : Nat) (p : Pilot) : Pilot := { p with stores := [⟨5, 0x40000, 1, 0, 0, [1]⟩], rel := rel, l1d := [(0x802, 0)] }
    let fenced := pilot [(2, 0x10148), (4, 0x1122334455667788)] (old 6)
    let after := pilot [(2, 0x10148), (4, 0x1122334455667788)] (old 5)
    gotIs (s.ptrans 0 0x10148 .w).1 frame1 = true ∧
    ends (.st ⟨4, 2, .w, 0⟩) s (fun t => (t.pilot 0).stores.map (fun x => (x.pa, x.bytes)) == [(0x40148, [0x88, 0x77, 0x66, 0x55])] && t.mem == s.mem) = true ∧
    ends (.st ⟨4, 2, .q, 8⟩) s (fun t => (t.pilot 0).stores.map (fun x => x.bytes.length) == [16] && (t.pilot 0).stores.any fun x => x.bytes.getD 8 0 == 0x99) = true ∧
    traps (.st ⟨4, 2, .d, 4⟩) s 5 0x1014C = true ∧ traps (.st ⟨4, 3, .d, 0⟩) (pilot [(3, 0x30000)] (walked 0x30000 .w)) 7 0x30000 = true ∧
    gotBad ((pilot [] (walked 0x30000 .w)).ptrans 0 0x30000 .w).1 = true ∧ gotWait (s.ptrans 0 0x60000 .w).1 = true ∧
    endsP (.st ⟨4, 2, .d, 0⟩) (pilot [(2, 0x60000)]) (fun p => p.wait == .walk) = true ∧
    endsP (.st ⟨4, 2, .w, 0⟩) fenced (fun p => p.wait == .again && p.stores.length == 1) = true ∧
    endsP (.st ⟨4, 2, .w, 0⟩) after (fun p => p.stores.length == 2 && p.l1d == [(0x802, BitVec.ofNat 1024 (0x55667788 * 2 ^ (8 * 0x48)))]) = true) := by decide +kernel

/-- An AMO on 32 or 64 bits at 0x40050, where 0x20003 stands, at its home slice: the new value, and the result at its end. -/
def amo (dw : Bool) (op : Aop) (v c : Nat) (res new : Nat) : Bool :=
  let t := (pilot []).serveAcc 0 ⟨9, 0x40050, 1, 0, 0, .amo op dw (BitVec.ofNat 64 v) (BitVec.ofNat 64 c), []⟩
  match (t.pilot 0).wait with
  | .got 1 r => (t.valAt 64 1 0x40050 8).toNat == new &&
      endsP (.amo ⟨4, 2, 3, true, true, dw, op⟩) (pilot [] fun p => { p with wait := .got 0 r, l1d := [(1, 1)] })
        fun p => (p.reg 4).toNat == res && p.pc == 0x10104 && p.l1d == []
  | _ => false

/-- 08 R203, 09 R233. -/
theorem test_amo : (let M := 2 ^ 64
    let stored (p : Pilot) : Pilot := { p with stores := [⟨5, 0x40000, 1, 0, 0, [1]⟩] }
    let later (s : State) : State := { s with seqNo := 6 }
    let op (rel : Bool) : OpAmo := ⟨4, 2, 3, rel, false, true, .add⟩
    [amo true .add 1 0 0x20003 0x20004, amo true .min (M - 1) 0 0x20003 (M - 1), amo true .max (M - 1) 0 0x20003 0x20003, amo true .minu (M - 1) 0 0x20003 0x20003,
    amo true .maxu (M - 1) 0 0x20003 (M - 1), amo true .and 6 0 0x20003 2, amo true .or 4 0 0x20003 0x20007, amo true .xor 1 0 0x20003 0x20002, amo true .xchg 9 0 0x20003 9,
    amo true .cas 9 0x20003 0x20003 9, amo true .cas 9 4 0x20003 0x20003, amo true .tas 66 0 0 0x20007, amo true .tas 65 0 1 0x20003, amo true .incw 0x20003 0 0x20003 0,
    amo true .incw 0x20004 0 0x20003 0x20004, amo false .add 0xFFFFFFFF 0 0x20003 0x20002, traps (.amo (op false)) (pilot [(2, 0x10054)]) 5 0x10054,
    traps (.amo (op false)) (pilot [(2, 0x30000)] (walked 0x30000 .w)) 7 0x30000, endsP (.amo (op false)) (pilot [(2, 0x60000)]) fun p => p.wait == .walk,
    askedP (.amo (op false)) (later (pilot [(2, 0x10050), (3, 7), (4, 8)] stored)) 0x40050 (.amo .add true 7 8),
    endsP (.amo (op true)) (later (pilot [(2, 0x10050)] stored)) fun p => p.wait == .again,
    waits (.amo (op false)) (pilot [] fun p => { p with wait := .mem }), waits (.amo (op false)) (pilot [] fun p => { p with wait := .got 9 0 })].all id = true ∧
    memWf (pilot []).mem = true ∧ gotIs ((pilot []).ptrans 0 0x10050 .w).1 frame1 = true ∧ gotWait ((pilot []).ptrans 0 0x60000 .w).1 = true ∧
    gotBad ((pilot [] (walked 0x30000 .w)).ptrans 0 0x30000 .w).1 = true ∧ (pilot []).poisonedAt 0x40050 8 = false ∧
    (({ pilot [] with poison := [0x4005] }.serveAcc 0 ⟨9, 0x40050, 1, 0, 0, .amo .add true 1 0, []⟩).pilot 0).online = false) := by decide +kernel

/-- 09 R235, R236: fences, WFE, IDLE and HALT in each of their cases. -/
theorem test_fences_and_waits : (let st (p : Pilot) : Pilot := { p with stores := [⟨5, 0x40148, 1, 0, 0, [7]⟩], l1d := [(1, 1)], l1i := [(1, 1)] }
    let l1 (p : Pilot) : Pilot := { p with l1d := [(1, 1)], l1i := [(1, 1)] }
    let busy (p : Pilot) : Pilot := { p with async := [3] }
    [endsP .fenceAcq (pilot [] st) fun p => p.l1d == [] && p.stores.length == 1 && p.pc == 0x10104,
    endsP .fenceRel { pilot [] st with seqNo := 6 } fun p => p.stores.length == 1 && p.l1d.length == 1 && p.rel == 6 && p.pc == 0x10104,
    endsP .fenceFull (pilot [] l1) fun p => p.l1d == [] && p.l1i.length == 1 && p.pc == 0x10104, endsP .fenceFull (pilot [] st) fun p => p.wait == .again,
    endsP .fenceIo (pilot [] l1) fun p => p.l1d == [] && p.l1i == [] && p.pc == 0x10104, endsP .fenceIo (pilot [] st) fun p => p.wait == .again,
    endsP .fenceIo (pilot [] busy) fun p => p.pc == 0x10100 && p.wait == .again,
    endsP .sysWfe (pilot [] fun p => { p with evqtail := 1 }) fun p => p.pc == 0x10104,
    endsP .sysWfe (pilot []) fun p => p.pc == 0x10100 && p.wait == .wfe 65535,
    endsP .sysWfe (pilot [] fun p => { p with wait := .wfe 9, woke := true }) fun p => p.pc == 0x10104 && p.wait == .no,
    waits .sysWfe (pilot [] fun p => { p with wait := .wfe 9 }),
    endsP .sysIdle (pilot [] fun p => { p with evqtail := 1 }) fun p => p.pc == 0x10104, endsP .sysIdle (pilot []) fun p => p.wait == .idle,
    endsP .sysHalt (pilot []) fun p => !p.online, endsP .sysHalt (pilot [] st) fun p => p.online && p.wait == .again,
    endsP .sysHalt (pilot [] busy) fun p => p.online && p.wait == .again].all id = true) := by
  decide +kernel

/-- 09 R238: TLBINV of an address, its wait and its end. -/
theorem test_tlbinv : (let e (v : Nat) : Tlb := ⟨0, v, 0, 0x401DF⟩
    let s := (pilot [(2, 0x10000)]).modQuay 0 fun q => { q with tlb := [e 1, e 2] }
    let w := (pilot [(2, 0x10000)] fun p => { p with wait := .tlbinv 0 0 })
    ends (.sysTlbinv ⟨2, 0⟩) s (fun t => (t.quay 0).tlb == [e 2] && (t.pilot 0).pc == 0x10100 && (match (t.pilot 0).wait with | .tlbinv _ 0 => true | _ => false)) = true ∧
    w.tlbinvWaits 0 0 = false ∧ endsP (.sysTlbinv ⟨2, 0⟩) w (fun p => p.pc == 0x10104 && p.wait == .no) = true) := by decide +kernel

/-- 09 R225, R227, R236: a trap from user mode with the interrupts enabled, and the return from it; SYS TRAP from both modes; ERET in user mode. -/
theorem test_traps : (let u := pilot [(2, 9)] user
    let t := u.trap 5 0x77
    t.me.status = 1 ∧ t.me.epc = 0x10100 ∧ t.me.tval = 0x77 ∧ t.me.pc = 0x20000 ∧
    endsP .sysEret (pilot [] fun p => { p with status := 0x201, epc := 0x10200 }) (fun p => p.pc == 0x10200 && p.status == 0x202) = true ∧
    endsP .sysEret (pilot [] fun p => { p with status := 0x001, epc := 0x10200 }) (fun p => p.status == 0) = true ∧
    traps (.sysTrap ⟨2⟩) u 9 9 = true ∧ traps (.sysTrap ⟨2⟩) (pilot [(2, 9)]) 0xA 9 = true ∧ traps .sysEret u 1 0xF7000001 = true) := by decide +kernel

/-- 03 R87, 09 R223, R239: words that are no instruction, and instructions that user mode may not execute. -/
theorem test_illegal : (let u := pilot [(2, 0x100)] user
    [0x00000000, 0xFF000000, 0xE000000F, 0xE5000 * 4096 + 0xC0, 0xEB000800, 0xEA083800].all (fun w => (decodePilot w).toOption.isNone) = true ∧
    (match u.pilotWord 0 0 with | .next t => (t.pilot 0).cause == 1 && (t.pilot 0).tval == 0 && (t.pilot 0).pc == 0x20000 | _ => false) = true ∧
    supervisorOnly (.fabRstat ⟨5, 6⟩) = true ∧ encode (.fabRstat ⟨5, 6⟩) = some 0xF9298007 ∧
    [traps (.fabRstat ⟨5, 6⟩) u 1 0xF9298007, traps .sysHalt u 1 0xF7000005, traps (.csrRd ⟨3, 0x301⟩) u 1 0xF8180301, traps (.csrWr ⟨2, 0x300⟩) (pilot []) 1 0xF8009300,
      traps (.csrSet ⟨2, 0x400⟩) (pilot []) 1 0xF800A400, traps (.csrClr ⟨2, 0x301⟩) u 1 0xF800B301, traps (.bcnCast ⟨1, 2, 3⟩) u 1 0xFB088602].all id = true) := by decide +kernel

/-- 09 R221 to R223: reads and writes of the CSRs; the reserved bits. -/
theorem test_csrs : (let s := pilot [(2, 0xFFFFFFFFFFFFFFFF)] fun p => { p with cycles := 77, vdid := 0xFF, scratch := 0xF0F0, evqhead := 3, evqtail := 5, evqbase := 0x1000 }
    let q := pilot [(2, 9)] fun p => { p with evqhead := 5, evqtail := 5 }
    [endsP (.csrRd ⟨1, 0x400⟩) s fun p => p.reg 1 == 77, endsP (.csrRd ⟨1, 0x300⟩) (pilot [] user) fun p => p.reg 1 == 0, endsP (.csrRd ⟨1, 0x301⟩) s fun p => p.reg 1 == 0,
    endsP (.csrWr ⟨2, 0x100⟩) s fun p => p.status == 0x303, endsP (.csrWr ⟨2, 0x102⟩) s fun p => p.epc == 0xFFFFFFFFFFFFFFFC,
    endsP (.csrWr ⟨2, 0x104⟩) s fun p => p.tvec == 0xFFFFFFFFFFFFFFFC, endsP (.csrClr ⟨2, 0x105⟩) s fun p => p.scratch == 0,
    endsP (.csrSet ⟨2, 0x105⟩) (pilot [(2, 0xF)] fun p => { p with scratch := 0xF0F0 }) fun p => p.scratch == 0xF0FF,
    endsP (.csrWr ⟨2, 0x200⟩) s fun p => p.evqbase == 0x000FFFFFFFFFF00F && p.evqhead == 5, endsP (.csrWr ⟨2, 0x201⟩) s fun p => p.evqhead == 0xFFFFFFFF,
    endsP (.csrWr ⟨3, 0x202⟩) s fun p => p.evqtail == 5, endsP (.csrWr ⟨2, 0x202⟩) q fun p => p.evqtail == 9 && p.evqhead == 9].all id = true) := by decide +kernel

/-! Commands (09). -/

/-- The header of an image of one cell, at the origin of the partition, with one context (02 R57); the CRC was computed with zlib. -/
def header : List Nat := [84, 71, 82, 72, 1, 0, 0, 1, 0, 0, 1, 0, 0, 1, 0, 0] ++ List.replicate 10 0 ++ [20, 0, 255, 255, 255, 255] ++ List.replicate 24 0 ++
  [64, 1, 0, 0, 238, 23, 110, 90]
def header1 : BitVec 512 := ofBytes 512 (header.map (BitVec.ofNat 8))

/-- A pilot with g2 = 3, and region 3 in a state. -/
def region (st : RState) (f : Region → Region := id) (g3 : Nat := 0) : State :=
  (pilot [(2, 3), (3, g3)]).setRegion 3 (f { Region.free with st := st, rid := 3, hdr := header1, gated := st != .running })

/-- A command answers a status, with a check of the state it leaves. -/
def answers (i : Instr) (s : State) (v : Int) (P : State → Bool := fun _ => true) : Bool :=
  ends i s fun t => (t.pilot 0).reg 1 == BitVec.ofInt 64 v && (t.pilot 0).pc == 0x10104 && P t

def r12 : OpR2 := ⟨1, 2⟩

/-- The region of the id is the partition's, and the pilot is in supervisor mode and does not wait. -/
theorem test_fab_premises : (let s := region .loaded
    s.me.sup = true ∧ s.me.wait = .no ∧ s.myPart = 0 ∧ (tblGet? s.vds 0).isSome = true ∧ (tblGet? s.vds 1).isNone = true ∧ s.unreached 3 = false ∧ s.stitchFail 3 = none ∧
    (region .stopped).reachedBy 3 = false ∧ (region .saved).fits 0 header1 0 0 0 = true ∧ (region .saved).inPart 0 header1 1 7 = true) := by decide +kernel

/-- The region with a route to a cell of another region that is loaded, while its own tokens may be discarded; the same route to no region (13 R310). -/
def stitched (other : Bool) : State :=
  let s := (region .loaded fun g => { g with hdr := header1 ||| BitVec.ofNat 512 (2 ^ 98) }).modCell 0 fun c => { (c.modCtx 0 fun x => { x with
    routes := vset x.routes 0 (BitVec.ofNat 64 (1 + 2 * 2 ^ 3 + 1024 * 2 ^ 5)) }) with region := some 3 }
  if other then (s.modCell 1024 fun c => { c with region := some 4 }).setRegion 4 { Region.free with st := .loaded } else s

/-- 09 R239, R242: RSTART in each of its cases, RSTOP, and RKILL. -/
theorem test_fab_states : (let waiting (r : Nat) : Region → Region := fun g => { g with halt := some (.rstop r) }
    [answers (.fabRstart r12) (region .loaded) 0 fun t => (t.region 3).st == .running && (t.region 3).runs == 1 && !(t.region 3).gated,
    answers (.fabRstart r12) (region .stopped fun g => { g with started := true, quantum := 7 }) 0 fun t => (t.region 3).counter == 7,
    answers (.fabRstart r12) (region .running) (-3), answers (.fabRstart r12) ((region .loaded).setPilot 0 { (region .loaded).pilot 0 with g := .replicate 32 0x103 }) (-2),
    endsP (.fabRstop r12) (region .running) fun p => p.wait == .region 3 && p.pc == 0x10100,
    ends (.fabRstop r12) (region .running) fun t => (t.region 3).halt == some (.rstop 0), answers (.fabRstop r12) (region .loaded) (-3),
    waits (.fabRstop r12) ((region .running (waiting 0)).setPilot 0 { (region .running).pilot 0 with wait := .region 3 }),
    answers (.fabRstop r12) ((region .stopped).setPilot 0 { (region .stopped).pilot 0 with wait := .region 3 }) 0,
    answers (.fabRstop r12) ((region .drained).setPilot 0 { (region .drained).pilot 0 with wait := .region 3 }) 1,
    answers (.fabRkill r12) (region .loaded) 0 fun t => (t.region 3).st == .killing && (t.pilot 0).async == [3],
    answers (.fabRkill r12) (region .loading) 0 fun t => (t.region 3).kill, answers (.fabRkill r12) (region .free) (-3)].all id = true ∧
    (stitched true).unreached 3 = false ∧ (stitched false).unreached 3 = true ∧ answers (.fabRstart r12) (stitched false) (-3) = true ∧ (stitched true).stitchFail 3 ≠ none ∧
    answers (.fabRstart r12) (stitched true) (-8) (fun t => (t.region 3).st == .loaded && t.records.length == 1) = true) := by decide +kernel

/-- 09 R241, R242, R394: RSAVE at the last size that fits and one short of it, RREST, RPLACE at the ends of its fields, RSTAT. -/
theorem test_fab_saves : (let size (n : Nat) (s : State) : State := s.setVd 0 { s.vd 0 with saveSize := BitVec.ofNat 32 n }
    let n := 4096 + saveSize header1 + 65536
    let r3 : OpR3 := ⟨1, 2, 3⟩
    [answers (.fabRsave r3) (size n (region .stopped id 4096)) 0 fun t => (t.region 3).st == .saving && (t.region 3).saveOff == 4096,
    answers (.fabRsave r3) (size (n - 1) (region .stopped id 4096)) (-7), answers (.fabRsave r3) (size n (region .stopped id 4095)) (-1), answers (.fabRsave r3) (region .running) (-3),
    answers (.fabRrest r3) (region .saved) 0 fun t => (t.region 3).st == .restoring,
    answers (.fabRrest r3) ((region .saved).modCell 0 fun c => { c with region := some 4 }) (-5), answers (.fabRrest r3) (region .loaded) (-3),
    answers (.fabRplace r3) (region .saved id (1 + 95 * 64 + 7 * 8192)) 0 fun t => (t.region 3).strip == 1 && (t.region 3).row == 95 && (t.region 3).col == 7,
    answers (.fabRplace r3) (region .saved id (1 + 96 * 64)) (-1), answers (.fabRplace r3) (region .saved id 65536) (-1), answers (.fabRplace r3) (region .saved id 2) (-1),
    answers (.fabRstat r12) (region .free) 0, endsP (.fabRstat r12) (region .saved) fun p => (p.reg 1).toNat % 16 == RState.saved.code].all id = true ∧
    ((region .saved).modCell 0 fun c => { c with region := some 4 }).fits 0 header1 0 0 0 = false) := by decide +kernel

/-- The header at 0x10200 and a load descriptor of region 3, priority 2 and quantum 9 at 0x10280. -/
def toLoad : State :=
  let s := pilot [(2, 0x10200), (3, 0x10280)]
  { s with mem := memWrites (memWrites s.mem 0x40200 (header.map (BitVec.ofNat 8))) 0x40280 [3, 0, 2, 0, 9] }

/-- 02 R55: the CRC of the header, 120 bits at a time; and no check of it fails. -/
theorem test_crc : crc32 header1 480 = 0x5A6E17EE := by
  have h (i : Nat) (c d : BitVec 32) (l : List Nat) (e : (List.range' i 120).foldl (fun c i => crcBit c (bit header1 i)) c = d) :
      (List.range' i 120 ++ l).foldl (fun c i => crcBit c (bit header1 i)) c = l.foldl (fun c i => crcBit c (bit header1 i)) d := by rw [List.foldl_append, e]
  have r : List.range 480 = List.range' 0 120 ++ (List.range' 120 120 ++ (List.range' 240 120 ++ (List.range' 360 120 ++ []))) := by decide +kernel
  rw [crc32, r, h 0 _ 0x7E5BA4E3 _ (by decide +kernel), h 120 _ 0x81ACF0F _ (by decide +kernel), h 240 _ 0x6B59D8A1 _ (by decide +kernel),
    h 360 _ 0xA591E811 _ (by decide +kernel)]
  decide +kernel
theorem test_header : headerFail header1 (toLoad.berthBytes 0 header1) 0 = none := by
  simp only [headerFail, test_crc]
  decide +kernel

/-- 09 R240, R242: RLOAD, its misaligned descriptor, and a descriptor with a reserved bit. -/
theorem test_rload : (let s := toLoad
    let a := s.pbytes 0 false 0x10280 32
    let b := a.2.pbytes 0 false 0x10200 64
    a.1.toOption = some (BitVec.ofNat 8 <$> [3, 0, 2, 0, 9] ++ List.replicate 27 0) ∧ b.1.toOption = some (header.map (BitVec.ofNat 8)) ∧
    (b.2.region 3).st = .free ∧ b.2.berthBytes 0 header1 = toLoad.berthBytes 0 header1 ∧ b.2.fits 0 header1 0 0 0 = true ∧
    answers (.fabRload ⟨1, 2, 3⟩) { s with mem := memWrites s.mem 0x40281 [0x80] } (-1) = true ∧
    answers (.fabRload ⟨1, 2, 3⟩) { s with mem := memWrites s.mem 0x40200 [0x55] } (-8) (fun t => t.records.length == 1) = true ∧
    traps (.fabRload ⟨1, 2, 3⟩) (pilot [(2, 0x10200), (3, 0x10290)]) 0xB 0x10290 = true) := by decide +kernel

/-- A channel that the pilot of strip 0 writes and reads, named by g2 = 5; g3 is an operand. -/
def pChan (g3 : Nat) (f : Chan → Chan := id) (w : Pilot → Pilot := id) : State :=
  (pilot [(2, 5), (3, g3)] w).setChan 5 (f { channel with writer := 0x40000000, reader := 0x40000000 })

/-- 09 R243, R244: CHCLOSE in each of its cases; the freeing form gives the quota back. -/
theorem test_chclose : (let r3 : OpR3 := ⟨1, 2, 3⟩
    [answers (.chnChclose r3) (pChan 0) 0 fun t => (t.chan 5).closed && (t.chan 5).opened, answers (.chnChclose r3) (pChan 0 fun c => { c with wpos := 1 }) (-3),
    answers (.chnChclose r3) (pChan 0 fun c => { c with opened := false }) (-3), answers (.chnChcloseFree r3) (pChan 1) (-3),
    answers (.chnChclose r3) (pChan 1 fun c => { c with closed := true, eg := 4 }) 0 fun t => !(t.chan 5).opened && (t.vd 0).quota == 12,
    answers (.chnChcloseFree r3) (pChan 0 fun c => { c with closed := true, nr := 1 }) (-3),
    answers (.chnChclose r3) ((pChan 0).setPilot 0 { (pChan 0).pilot 0 with g := .replicate 32 256 }) (-2)].all id = true ∧
    (pChan 0).chanPos 5 = 0 ∧ (pChan 0 fun c => { c with wpos := 1 }).chanPos 5 ≠ 0 ∧ (pChan 1).chanBusy 5 = false ∧
    answers (.chnChcloseFree r3) (pChan 0 fun c => { c with closed := true }) 0 (fun t => !(t.chan 5).opened) = true) := by decide +kernel

/-- 09 R244: CHPUT of an element of two tokens, its answer, its wait, to a closed channel, and by a pilot that is not the writer. -/
theorem test_chput : (let r3 : OpR3 := ⟨1, 2, 3⟩
    let s := pChan 0x10040
    ((s.pbytes 0 false 0x10040 64).1.toOption.map List.length) = some 64 ∧ ((s.opFrames .r 0x10040 2).1.toOption.map List.length) = some 2 ∧
    traps (.chnChput r3) (pChan 0x10044 fun c => { c with closed := true }) 0xB 0x10044 = true ∧ traps (.chnChput r3) (pChan 0x60000 fun c => { c with closed := true }) 0xB 0x60000 = true ∧
    ends (.chnChput r3) s (fun t => (t.pilot 0).wait == .chput 5 && (t.pilot 0).pc == 0x10100 && t.pend.length == 1 && t.pend.all fun e => e.due == 1 &&
      (match e.ev with
      | .berthRequestArrival (.quay 0) r => r.chan == 5 && r.kind == 1 && r.toks.map (fun x => x.pay.toNat % 2 ^ 32) == [0x20001, 0] && r.toks.all fun x => x.tag == .zero
      | _ => false)) = true ∧
    answers (.chnChput r3) (pChan 0x10040 fun c => { c with closed := true }) (-6) = true ∧
    answers (.chnChput r3) (pChan 0x10040 fun c => { c with writer := 126 }) (-2) = true ∧
    answers (.chnChput r3) (pChan 0x10040 id fun p => { p with wait := .chput 5, ans := some 9 }) 9 = true ∧
    waits (.chnChput r3) (pChan 0x10040 id fun p => { p with wait := .chput 5 }) = true) := by decide +kernel

/-- 09 R244: CHTAKE of a readable element whose first token has level 3, of an empty channel, of one that is spent; CHSTAT; CHOPEN. -/
theorem test_chtake : (let r3 : OpR3 := ⟨1, 2, 3⟩
    let holds (t : Tag) : State := (pChan 0x10040 fun c => { c with nr := 1, rIdx := 7 }).modQuay 0 fun q =>
      { q with bw := 8, slots := [(0, ⟨W [5], t, 0xFF, 1⟩), (1, ⟨W [6], .zero, 0xFF, 1⟩)] }
    let full := holds .zero
    let spent := pChan 0x10040 fun c => { c with closed := true }
    (full.chan 5).readable = true ∧ ((full.opFrames .w 0x10040 2).1.toOption.map List.length) = some 2 ∧ ((pChan 0x10040).chan 5).readable = false ∧
    (pChan 0x10040).chanSpent 5 = false ∧ spent.chanSpent 5 = true ∧
    answers (.chnChtake r3) full 7 (fun t => t.valAt 32 1 0x40040 4 == 5 && t.valAt 32 1 0x40060 4 == 6 && (t.chan 5).rIdx == 8) = true ∧
    answers (.chnChtake r3) (holds ⟨3, false, 1⟩) (7 + 3 * 2 ^ 32) (fun t => t.valAt 32 1 0x40040 4 == 5 && (t.chan 5).rIdx == 8) = true ∧
    ends (.chnChtake r3) (pChan 0x10040) (fun t => (t.pilot 0).wait == .chtake 5 && (t.chan 5).chrWait == some (.pilot 0)) = true ∧
    answers (.chnChtake r3) spent (-6) = true ∧
    ((pChan 0x10040).opFrames .w 0x10040 1).1.toOption.map List.length = some 1 ∧ answers (.chnChstat r3) full 0 (fun t => t.mem != full.mem) = true) := by decide +kernel
theorem test_chopen : (let s := pilot [(2, 0x10200)]
    let t : State := { s with mem := memWrites s.mem 0x40200 ([0, 1, 4, 0, 0, 0, 0, 0] ++ List.replicate 8 0 ++ [126, 0, 0, 0, 127, 0, 0, 0]) }
    let d : Wide := ofBytes 256 (memReads t.mem 0x40200 32)
    openBad 2 d = false ∧ (t.quay 0).freeEntry = some 0 ∧
    answers (.chnChopen ⟨1, 2⟩) (t.modQuay 0 fun q => { q with bw := 8 }) 0 (fun u => (u.chan 0).opened && (u.chan 0).e == 2 && (u.chan 0).nr0 == 4 && (u.chan 0).writer == 126 && (u.chan 0).reader == 127) = true) := by
  decide +kernel

/-- A pilot on channel 31, not arrived, or waiting for its release. -/
def onBeacon (g3 : Nat) (f : Pilot → Pilot := id) (b : Beacon := Beacon.reset) : State := (pilot [(2, 31), (3, g3)] f).setBeacon 31 b
def arrived (p : Pilot) : Pilot := { p with arr := 0x80000000 }

/-- 09 R245: a channel that is not assigned; ARRIVE, the REDUCE forms and WAIT, not arrived and arrived; READ. -/
theorem test_bcn : (let r3 : OpR3 := ⟨1, 2, 3⟩
    let sends (i : Instr) (op : Option (Fin 3)) (a o m : Word) : Bool := ends i (onBeacon 7) fun t => (t.pilot 0).arr == 0x80000000 && tblGet? (t.pilot 0).redOp 31 == op &&
      (t.pilot 0).pc == 0x10104 && t.pend == [⟨36, clsBeacon, 0, 0, .beaconArrivalAtRoot ⟨31, 0, 1, a, o, m⟩, none⟩]
    let again (i : Instr) : Bool := endsP i (onBeacon 7 arrived) fun p => p.wait == .again && p.pc == 0x10100
    (onBeacon 7).bcnOk 0 31 = true ∧ (onBeacon 7).bcnOk 0 30 = false ∧
    [traps (.bcnArrive ⟨2⟩) (pilot [(2, 30)]) 8 30, sends (.bcnArrive ⟨2⟩) none 0xFFFFFFFF 0 0, sends (.bcnReduceAnd ⟨2, 3⟩) (some 0) 7 7 7,
      sends (.bcnReduceOr ⟨2, 3⟩) (some 1) 7 7 7, sends (.bcnReduceMax ⟨2, 3⟩) (some 2) 7 7 7, again (.bcnArrive ⟨2⟩), again (.bcnReduceMax ⟨2, 3⟩), again (.bcnWait r3),
      endsP (.bcnWait r3) (onBeacon 7 (fun p => { p with latched := [(31, 9)] }) { Beacon.reset with copy := [(0, 4)] }) fun p => p.reg 1 == 4 && p.reg 3 == 9,
      endsP (.bcnRead r3) (onBeacon 7 id { Beacon.reset with bval := [(0, 0x500000006)], bcnt := [(0, 2)] }) fun p => p.reg 1 == 0x500000006 && p.reg 3 == 2].all id = true) := by
  decide +kernel

/-- 09 R245: CAST, its configure form with no arrivals counted and with one, and PREEMPT of no region, of one, waiting and over. -/
theorem test_bcn_cast_preempt : (let r3 : OpR3 := ⟨1, 2, 3⟩
    let conf (n : Nat) : State := (pilot [(2, 0x11F), (3, 0x10007)] arrived).setBeacon 31 { Beacon.reset with arrivals := n }
    let runs (f : Region → Region) (w : Pilot → Pilot := id) : State :=
      (pilot [(2, 31)] w).setRegion 3 (f { Region.free with st := .running, rid := 3, hdr := header1, gated := false })
    (runs id).runningOf 0 = [3] ∧ (pilot []).runningOf 0 = [] ∧ (conf 0).partOf 0 = some 0 ∧
    answers (.bcnCast r3) (onBeacon 7) 0 (fun t => t.pend.map (fun e => (e.due, e.ev)) == [(36, .broadcastAtStrip 31 0 7), (36, .broadcastAtStrip 31 1 7)]) = true ∧
    answers (.bcnCast r3) (conf 0) 0 (fun t => (t.beacon 31).P == 7 && (t.pilot 0).arr == 0) = true ∧ answers (.bcnCastConfigure r3) (conf 0) 0 (fun t => (t.beacon 31).P == 7) = true ∧
    answers (.bcnCast r3) (conf 1) (-3) = true ∧ answers (.bcnCastConfigure r3) (conf 1) (-3) = true ∧ answers (.bcnPreempt r3) (pilot [(2, 31)]) 0 = true ∧
    ends (.bcnPreempt r3) (runs id) (fun t => (t.pilot 0).wait == .preempt 31 0 1 && (t.region 3).halt.isSome) = true ∧
    answers (.bcnPreempt r3) (pilot [(2, 31)] fun p => { p with wait := .preempt 31 0 2 }) 2 = true) := by decide +kernel

/-- 09 R246: BLKREF and BLKREL of an entry of count 2, of count 1 (whose frame is pushed), the push's answer, beyond the map, and an entry not valid. -/
theorem test_map_blk : (let r3 : OpR3 := ⟨1, 2, 3⟩
    let s (b : Nat) (w : Pilot → Pilot := id) : State := pilot [(2, 0x10000), (3, b)] w
    let one := (s 0).setChan 5 { channel with e := 1, writer := 0x40000000, reader := 0x40000000 }
    let last : State := { one with mem := memWrites (memWrites one.mem 0x40042 [1]) 0x40008 [5] }
    ((s 0).blkChange 0 0 false 0x10000 0 false).1.toOption = some (3, none) ∧ ((s 0).blkChange 0 0 false 0x10000 0 true).1.toOption = some (1, none) ∧
    (last.blkChange 0 0 false 0x10000 0 true).1.toOption.map (fun x => (x.1, x.2.map fun y => y.1)) = some (0, some 5) ∧
    answers (.mapBlkref r3) (s 0) 3 (fun t => t.valAt 32 1 0x40040 4 == 0x30001) = true ∧ answers (.mapBlkrel r3) (s 0) 1 (fun t => t.valAt 32 1 0x40040 4 == 0x10001) = true ∧
    ends (.mapBlkrel r3) last (fun t => (t.pilot 0).wait == .push && (t.pilot 0).pc == 0x10100 && t.pend.length == 1 && t.valAt 32 1 0x40040 4 == 0) = true ∧
    answers (.mapBlkrel r3) (s 0 fun p => { p with wait := .push, ans := some 0 }) 0 = true ∧ answers (.mapBlkref r3) (s 3) (-1) = true ∧ answers (.mapBlkref r3) (s 2) (-3) = true ∧
    traps (.mapBlkref r3) (pilot [(2, 0x10020), (3, 0)]) 0xB 0x10020 = true) := by decide +kernel

/-- 09 R246: BLKSET with the count expected and another, and a record whose bytes 10 to 15 are not zero; BLKGET. -/
theorem test_map_set : (let r3 : OpR3 := ⟨1, 2, 3⟩
    let s (l : List Nat) : State :=
      let t := pilot [(2, 0x10000), (3, 0x10200)]
      { t with mem := memWrites t.mem 0x40200 (l.map (BitVec.ofNat 8)) }
    let rec0 (n bad : Nat) : List Nat := [0, 0, 0, 0, 0, 0, 0, 0, n, 0, bad, 0, 0, 0, 0, 0, 0xAA]
    ((s (rec0 2 0)).named 0 0 false 0x10000 0).1.toOption.isSome = true ∧ ((s (rec0 2 0)).pbytes 0 false 0x10200 32).1.toOption.map List.length = some 32 ∧
    answers (.mapBlkset r3) (s (rec0 2 0)) 2 (fun t => t.valAt 64 1 0x40040 8 == 0xAA) = true ∧
    answers (.mapBlkset r3) (s (rec0 3 0)) 2 (fun t => t.valAt 64 1 0x40040 8 == 0x20001) = true ∧ answers (.mapBlkset r3) (s (rec0 2 1)) (-1) = true ∧
    answers (.mapBlkget r3) (s (rec0 0 0)) 2 (fun t => t.valAt 64 1 0x40210 8 == 0x20001 && t.valAt 64 1 0x40218 8 == 0x50000) = true) := by decide +kernel

/-- 09 R247: the class at the ends of its range; SLSET at the bounds of its depth, its rate and the allotment of 64; SLGET; LEND. -/
theorem test_qos : (let r3 : OpR3 := ⟨1, 2, 3⟩
    let s (sel v : Nat) : State := pilot [(2, sel), (3, v)]
    let D : Nat := 2 ^ 32
    [answers (.qosSlget r12) (s 0x50 0) (-1), answers (.qosSlget r12) (s 0x40 0) (2 ^ 32), answers (.qosSlget r12) (s 1 0) (-2), answers (.qosSlset r3) (s 0 63) (-1),
    answers (.qosSlset r3) (s 0 (D + 64)) 0 fun t => (t.vd 0).sl[0].rate == 64 && (t.vd 0).sl[0].depth == 1 && (t.vd 0).sl[1].rate == 0,
    answers (.qosSlset r3) (s 0 (D + 65)) (-7), answers (.qosSlset r3) (s 0 (2 ^ 24 * D)) 0, answers (.qosSlset r3) (s 0 ((2 ^ 24 + 1) * D)) (-1),
    answers (.qosSlset r3) (s 0x20 (128 * D + 64)) 0, answers (.qosSlset r3) (s 0x20 (127 * D)) (-1), answers (.qosSlset r3) (s 0 (D + 2048)) (-7), answers (.qosSlset r3) (s 0 (D + 2049)) (-1),
    answers (.qosLend r3) (s 0 1) 3 fun t => (t.vd 0).sl[0].lend && !(t.vd 0).sl[0].borrow].all id = true) := by decide +kernel

/-- 09 R250: POP, PEEK and ACK of an empty queue and of one that holds index 19, in its fourth entry of 16. -/
theorem test_evq : (let q (n : Nat) : State :=
      let s := pilot [(2, 0x10200)] fun p => { p with evqbase := 0x30000, evqhead := 19, evqtail := BitVec.ofNat 32 (19 + n) }
      { s with mem := memWrites s.mem 0x30060 [6, 0, 0, 0, 0, 0, 0, 0, 9] }
    ((q 1).opFrames .w 0x10200 1).1.toOption.map List.length = some 1 ∧ ((q 1).opFrames .w 0x10200 1).2.poison = [] ∧
    [answers (.evqPop r12) (q 0) (-4), answers (.evqPeek r12) (q 0) (-4), answers (.evqPop r12) (q 1) 6 fun t => (t.pilot 0).evqhead == 20 && t.valAt 64 1 0x40208 8 == 9,
      answers (.evqPeek r12) (q 1) 6 fun t => (t.pilot 0).evqhead == 19 && t.valAt 64 1 0x40208 8 == 9, answers (.evqAck r12) (q 3) 3 fun t => (t.pilot 0).evqhead == 22,
      answers (.evqAck r12) (q 0) 0].all id = true) := by decide +kernel

/-! Events: in cells (01, 06, 07). -/

/-- Cell 0 of a running region, with two tokens. -/
def live (a b : Token) (f : Cell → Cell := id) : State :=
  ((parted (at2 0 a b)).setRegion 3 { Region.free with st := .running, gated := false }).modCell 0 fun c => f { c with region := some 3 }
def setCtl (v : Nat) (c : Cell) : Cell := c.modCtx 0 fun x => { x with ctl := BitVec.ofNat 64 v }
def frozen (s : State) : State := s.modCell 0 fun c => { c with stop := ⟨true, 1, 0⟩ }
/-- The cell after an event, and the state. -/
def cellOf (i : Instr) (s : State) (P : Cell → Bool) (c : Nat := 0) : Bool := ends i s fun t => P (t.cell c)
def later (t : State) : List (Nat × Instr) := t.pend.map fun e => (e.due, e.ev)

/-- 01 R12, R26: a token for a slot that no berth holds, for one that does, and for one that a pop of the clk freed; the arrivals at the end of their count,
and at a race port of three arrivals; a cell of no region. -/
theorem test_token_arrival : (let s := live (tok [1]) (tok [2]) fun c => c.setSlot 2 ⟨0, .zero, 0, 1⟩
    let raced := s.modCell 0 fun c => c.modCtx 0 fun x => { x with
      trig := vset x.trig 0 1
      inst := vset x.inst 0 (BitVec.ofNat 32 ((encode (.race (oUI 1))).getD 0).toNat)
      binds := vset x.binds 0 (BitVec.ofNat 64 (3 * 2 ^ 10 + 2 ^ 37 + 3 * 2 ^ 21)) }
    let freed := s.modCell 0 fun c => { c with freed := [1] }
    [waits (.tokenArrival 0 0 0 1 (tok [7])) s,
    cellOf (.tokenArrival 0 0 0 2 (tok [7])) s fun c => c.slot 2 == ⟨W [7], .zero, 0xFF, 1⟩ && c.ctxs[0].rings[0].arr == 2 && c.ctxs[0].rings[0].head == 0,
    cellOf (.tokenArrival 0 0 0 2 (mark 1 [7])) s fun c => (c.slot 2).fe == 0xFF && c.ctxs[0].rings[0].arr == 1,
    cellOf (.tokenArrival 0 0 0 2 (tok [7])) (s.modCell 0 fun c => c.modCtx 0 fun x => { x with rings := .replicate 4 ⟨0, 1, none, 1, 65535⟩ }) fun c =>
      c.ctxs[0].rings[0].arr == 65535,
    waits (.tokenArrival 0 0 0 2 (tok [7])) (s.modCell 0 fun c => { c with region := none })].all id = true ∧
    (s.cell 0).ctxs[0].race 0 = none ∧ (raced.cell 0).ctxs[0].race 0 = some 2 ∧
    cellOf (.tokenArrival 0 0 0 2 (tok [7])) raced (fun c => c.ctxs[0].rings[0].arr == 2) = true ∧ (freed.cell 0).freed = [1] ∧
    cellOf (.tokenArrival 0 0 0 1 (tok [7])) freed (fun c => c.slot 1 == ⟨W [7], .zero, 0, 0⟩ && c.ctxs[0].rings[0].arr == 2) = true) := by decide +kernel

/-- 01 R17, R18: markers of level 2 on in0 and in1, joined to out0: the join, its claim, the fan, and the berths it lacks. -/
theorem test_marker_join : (let s := live (mark 2 [5]) (mark 2 [6]) (setCtl 0x26)
    let claim := s.modCell 0 fun c => c.modCtx 0 fun x => { x with trig := vset x.trig 0 0x11 }
    let fan := s.modCell 0 fun c => c.modCtx 0 fun x => { x with fan := some ⟨2, mark 2 [5], 1⟩ }
    let poor := fan.modCell 0 fun c => c.modCtx 0 fun x => { x with hands := .replicate 4 ⟨false, 0, 0, 0, 0, false⟩ }
    s.frozen 0 = false ∧ (s.cell 0).join = some 2 ∧ (s.cell 0).claims = false ∧ (claim.cell 0).claims = true ∧ (s.cell 0).headTok 0 0 = some (mark 2 [5]) ∧
    cellOf (.markerJoin 0) s (fun c => c.ctx.fan == some ⟨2, mark 2 [5], 1⟩) = true ∧ waits (.markerJoin 0) claim = true ∧
    ((live (mark 2 [5]) (tok [6]) (setCtl 0x26)).cell 0).join = none ∧ waits (.hardwareMarkerForward 0) s = true ∧
    ends (.hardwareMarkerForward 0) fan (fun t => (t.cell 0).ctx.fan.isNone && (t.cell 0).ctx.rings[0].held == 0 && (t.cell 0).ctx.rings[1].held == 0 && !(t.cell 0).ctx.join7 &&
      t.pend.length == 1 && t.pend.all fun e => e.ev == .tokenArrival 1024 0 2 8 (mark 2 [5])) = true ∧
    (poor.cell 0).ctx.hands[0].v = false ∧ cellOf (.hardwareMarkerForward 0) poor (fun c => c.ctx.fan.isSome && c.ctx.hands[0].out) = true ∧
    (frozen fan).frozen 0 = true ∧ [Instr.dlyDeferredWrite 0, .drainTokenWrite 0, .hardwareMarkerForward 0].all (fun i => waits i (frozen fan)) = true ∧
    [Instr.markerJoin 0, .switchCompletion 0].all (fun i => waits i (frozen fan)) = true) := by decide +kernel

/-- 01 R23, R24: the count at its threshold and one below; a switch with empty ports, with a token, and none pending. -/
theorem test_switches : (let counted (n : BitVec 16) : State := live (tok []) (tok []) fun c => setCtl (3 * 2 ^ 10 + 2 * 2 ^ 26) { c with swcnt := n }
    let pend := live (tok []) (tok []) fun c => { (c.modCtx 2 fun x => { x with ctl := BitVec.ofNat 64 (0x5A * 2 ^ 28) }) with swPend := true, swTgt := 2, swcnt := 1 }
    let empty := pend.modCell 0 fun c => { c with store := [] }
    [waits (.countTrigger 0) (counted 2), cellOf (.countTrigger 0) (counted 3) fun c => c.swPend && c.swTgt == 2 && c.swcnt == 0,
    waits (.switchCompletion 0) pend, cellOf (.switchCompletion 0) empty fun c => c.actx == 2 && !c.swPend && c.swcnt == 0 && c.p == 0x5A && c.w[1] == W [5],
    waits (.switchCompletion 0) (empty.modCell 0 fun c => { c with swPend := false }),
    waits (.switchCompletion 0) (empty.modCell 0 fun c => { c with mx := { c.mx with drain := some ⟨0, .none, 0, false, []⟩ } })].all id = true ∧
    (∀ p : Fin 4, ctlMset (empty.cell 0).ctx.ctl p = false) ∧ (empty.cell 0).dly = [] ∧ (empty.cell 0).bcred = [] ∧ (empty.cell 0).mx.drain.isNone = true ∧
    (∀ p : Fin 4, bdEn (empty.cell 0).ctx.binds[p] = true → ∀ i < bdCap (empty.cell 0).ctx.binds[p], ((empty.cell 0).slot (bdBase (empty.cell 0).ctx.binds[p] + i)).rdr = 0)) := by
  decide +kernel

/-- 06 R158, 07 R184: a deferred write to w3 and to a port; a drain's token, and its last, which clears. -/
theorem test_deferred : (let out : WDst := .out 1024 0 2 8 3
    let dly (x : WDst) : State := live (tok []) (tok []) fun c => { c with dly := [⟨0, ⟨x, .none, .zero, 2⟩, W [8]⟩] }
    let drain (l : List Wide) : State := live (tok []) (tok []) fun c => { c with mx := { c.mx with drain := some ⟨0, out, 9, true, l⟩ } }
    [cellOf (.dlyDeferredWrite 0) (dly (.reg 3)) fun c => c.w[3] == W [8] && c.w[1] == W [5] && c.dly == [],
    ends (.dlyDeferredWrite 0) (dly out) fun t => later t == [(3, .tokenArrival 1024 0 2 8 (tok [8]))],
    waits (.drainTokenWrite 0) (live (tok []) (tok [])),
    ends (.drainTokenWrite 0) (drain [W [1], W [2]]) fun t => later t == [(3, .tokenArrival 1024 0 2 8 ⟨W [1], ⟨0, false, 9⟩⟩)] &&
      (t.cell 0).mx.drain == some ⟨0, .out 1024 0 2 9 3, 9, true, [W [2]]⟩,
    cellOf (.drainTokenWrite 0) (drain [W [1]]) fun c => c.mx.drain.isNone].all id = true) := by decide +kernel

/-- 06 R158, R167; 08 R195, R219: a deferred write and a BCRED result to one register, in the order of their firings; a result that lands, also in a cell
that is stopped, and a HAND's, which is held while the region is halted. -/
theorem test_landings : (let w (seq : Nat) : DefW := ⟨.reg 3, .none, .zero, seq⟩
    let both (a b : Nat) : State := live (tok []) (tok []) fun c => { c with dly := [⟨0, w a, W [8]⟩], bcred := [⟨31, 2, w b, some (W [9])⟩] }
    let land (hold : Bool) : State := live (tok []) (tok []) fun c => { c with lands := [⟨w 1, W [7], hold⟩], dly := [⟨0, w 2, W [8]⟩] }
    let gated (s : State) : State := s.modRegion 3 fun g => { g with gated := true }
    (frozen (both 1 2)).frozen 0 = true ∧ (both 1 2).frozen 0 = false ∧ (gated (both 1 2)).halted 0 = true ∧ (frozen (both 1 2)).halted 0 = false ∧
    [cellOf (.dlyDeferredWrite 0) (both 1 2) fun c => c.w[3] == W [9] && c.dly == [] && c.bcred == [],
    cellOf (.dlyDeferredWrite 0) (both 2 1) fun c => c.w[3] == W [8],
    cellOf (.dlyDeferredWrite 0) (frozen (both 1 2)) fun c => c.w[3] == 0 && c.dly.length == 1 && c.bcred.length == 1,
    cellOf (.dlyDeferredWrite 0) (frozen (land false)) fun c => c.w[3] == W [7] && c.lands == [] && c.dly.length == 1,
    cellOf (.dlyDeferredWrite 0) (frozen (land true)) fun c => c.w[3] == W [7] && c.lands == [],
    cellOf (.dlyDeferredWrite 0) (gated (land true)) fun c => c.w[3] == 0 && c.lands.length == 1].all id = true) := by decide +kernel

/-! Events: berths (10). -/

/-- A request of n slots for in0 of cell 0, from context 1 and handle 2 of the cell of strip 1, which region 3 owns. -/
def reqOf (n : Nat) : BReq :=
  { kind := 0, who := 0x400, src := 1024, fctx := 1, hnd := 2, cnt := n, dctx := 0, dport := 0, mrk := false, chan := 0, rank := 0, lat := 7, owner := 3, toks := [] }
/-- Cell 0 with requests, and a ring of eight slots from slot 16 in context 0, in0. -/
def roads (l o : List BReq) (g : Ring := ⟨0, 0, none, 0, 0⟩) : State := live (tok []) (tok []) fun c => { (c.modCtx 0 fun x => { x with
  binds := vset x.binds 0 (BitVec.ofNat 64 (16 + 7 * 2 ^ 10 + 2 * 2 ^ 19 + 2 ^ 37)), rings := vset x.rings 0 g }) with road := l, outside := o }

/-- 10 R259, R260: the sixteenth place of a cell and the 64th of a quay; a request behind another on its link; entries that free. -/
theorem test_roadstead : (let r := reqOf 1
    let q (n : Nat) (o : List BReq) : State := (live (tok []) (tok [])).modQuay 0 fun k => { k with road := .replicate n r, outside := o }
    [cellOf (.berthRequestArrival (.cell 0) r) (roads (.replicate 15 r) []) fun c => c.road.length == 16 && c.outside == [],
    cellOf (.berthRequestArrival (.cell 0) r) (roads (.replicate 16 r) []) fun c => c.road.length == 16 && c.outside == [r],
    cellOf (.berthRequestArrival (.cell 0) (reqOf 2)) (roads [] [r]) fun c => c.road == [] && c.outside == [r, reqOf 2],
    waits (.berthRequestArrival (.cell 0) r) ((roads [] []).modCell 0 fun c => { c with region := none }),
    ends (.berthRequestArrival (.quay 0) r) (q 63 []) fun t => (t.quay 0).road.length == 64 && (t.quay 0).outside == [],
    ends (.berthRequestArrival (.quay 0) r) (q 64 []) fun t => (t.quay 0).road.length == 64 && (t.quay 0).outside == [r],
    cellOf (.roadsteadEntry (.cell 0)) (roads (.replicate 15 r) [reqOf 2]) fun c => c.road.length == 16 && c.outside == [] && c.road.contains (reqOf 2),
    ends (.roadsteadEntry (.quay 0)) (q 63 [reqOf 2]) fun t => (t.quay 0).road.contains (reqOf 2) && (t.quay 0).outside == []].all id = true) := by decide +kernel

/-- 10 R257, R258: a grant at the tail of exactly the room there is, one that wraps, one behind a pad, and one that waits. -/
theorem test_allocator : (let go (n : Nat) (g : Ring) (P : Cell → Bool) (base : Nat) : Bool := ends (.allocatorGrant 0 0 0) (roads [reqOf n] [] g) fun t =>
      (t.cell 0).road == [] && P (t.cell 0) && later t == [(7, .grantArrival ⟨1024, 1, 2, 2, n - 1, base, 0, 0, 0, 3⟩)]
    [go 3 ⟨2, 5, none, 3, 0⟩ (fun c => c.ctxs[0].rings[0] == ⟨2, 0, none, 6, 0⟩ && (c.slot 21).rdr == 3 && (c.slot 23).rdr == 3 && (c.slot 21).fe == 0) 21,
    go 2 ⟨5, 3, none, 6, 0⟩ (fun c => c.ctxs[0].rings[0] == ⟨5, 5, none, 8, 0⟩ && (c.slot 20).rdr == 3) 19,
    go 2 ⟨2, 7, none, 5, 0⟩ (fun c => c.ctxs[0].rings[0] == ⟨2, 2, some 7, 8, 0⟩ && (c.slot 16).rdr == 3) 16,
    waits (.allocatorGrant 0 0 0) (roads [reqOf 3] [] ⟨2, 7, none, 5, 0⟩), waits (.allocatorGrant 0 0 0) (roads [reqOf 1] [] ⟨3, 3, none, 8, 0⟩)].all id = true) := by
  decide +kernel

/-- 10 R258, R263, 16 R366: a grant to a running region, to a saved one, and to one that is gone. -/
theorem test_grants : (let g : Grant := ⟨0, 1, 2, 2, 1, 20, 1024, 0, 0, 3⟩
    let s := live (tok []) (tok [])
    let st (r : RState) : State := (s.setRegion 3 { Region.free with st := r }).modCell 1024 fun c => { (hold c 0 (tok [])) with store := [(0, ⟨0, .zero, 0, 1⟩), (20, ⟨0, .zero, 0, 3⟩), (21, ⟨0, .zero, 0, 3⟩)] }
    (s.cell 0).region = some 3 ∧ ((st .free).cell 1024).ctxs[0].rings[0].head = 0 ∧
    [cellOf (.grantArrival g) s fun c => c.ctxs[1].hands[2] == ⟨true, 2, 0, 1, 20, false⟩ && c.ctxs[1].hands[1] == (s.cell 0).ctxs[1].hands[1],
    ends (.grantArrival g) (st .saved) fun t => t.cells == (st .saved).cells && later t == [(1, .grantArrival g)],
    cellOf (.grantArrival g) (st .free) (fun c => (c.slot 20).rdr == 0 && (c.slot 21).rdr == 0 && (c.slot 0).rdr == 1) 1024].all id = true) := by decide +kernel

/-! Events: the beacon and the records (06, 13, 14). -/

/-- 06 R165 to R168, 14 R329, R330: an arrival counted, one with P = 0, the release at P and one below it, a release at a strip, a broadcast. -/
theorem test_beacon_events : (let m : BcnMsg := ⟨31, 0, 1, 6, 6, 6⟩
    let r : BcnRel := ⟨31, 5, 1, 2, 3⟩
    let b (p : BitVec 16) (n : Nat) : State := (live (tok []) (tok [])).setBeacon 31 { Beacon.reset with P := p, arrivals := n, gen := 4, pAnd := 3, pMax := 7 }
    let w := ((b 2 0).modCell 0 fun c => { c with arrBits := 0x80000001, bcred := [⟨31, 2, ⟨.reg 2, .none, .zero, 0⟩, none⟩] }).setPilot 0 { Pilot.reset with arr := 0x80000000, redOp := [(31, 0)] }
    let saved : State := { w with saves := [⟨3, 3, 0, 0, [0], [w.cell 0], [], [], [], [], true⟩] }
    (b 2 1).bcnOwner 31 = some 0 ∧
    [ends (.beaconArrivalAtRoot m) (b 2 1) fun t => t.beacon 31 == { (b 2 1).beacon 31 with arrivals := 2, pAnd := 2, pOr := 6 } && t.pend == [],
    ends (.beaconArrivalAtRoot m) (b 0 0) fun t => (t.beacon 31).gen == 5 && later t == [(36, .releaseAtStrip 0 ⟨31, 5, 6, 6, 6⟩), (36, .releaseAtStrip 1 ⟨31, 5, 6, 6, 6⟩)],
    (b 2 1).releaseFull 31 == b 2 1, ((b 2 2).releaseFull 31).beacon 31 == { Beacon.reset with P := 2, gen := 5 },
    ends (.releaseAtStrip 0 r) w fun t => (t.cell 0).w[2] == 0 && (t.cell 0).arrBits == 1 && (t.pilot 0).woke && (t.pilot 0).arr == 0 &&
      (t.cell 0).bcred == [⟨31, 2, ⟨.reg 2, .none, .zero, 0⟩, some (W [3])⟩] &&
      tblGet? (t.pilot 0).latched 31 == some 1 && tblGet? (t.beacon 31).copy 0 == some 5,
    ends (.releaseAtStrip 0 r) saved fun t => t.saves.map (fun v => v.cells.map fun c => (c.arrBits, c.bcred.map fun b => b.val.isSome)) == [[(1, [true])]],
    ends (.broadcastAtStrip 31 1 9) (b 2 0) fun t => tblGet? (t.beacon 31).bval 1 == some 9 && tblGet? (t.beacon 31).bcnt 1 == some 1 && (t.pilot 1).woke].all id = true) := by
  decide +kernel

/-- 09 R248, 13 R303: a record is posted in the last free entry of sixteen; none is while the queue is full. -/
theorem test_record_post : (let r : State := { live (tok []) (tok []) fun c => { c with evtBusy := true } with records := [⟨0, 0, 7, some 0⟩] }
    let q (n : Word) : State := r.setPilot 0 { Pilot.reset with online := true, evqbase := 0x30000, evqhead := 20, evqtail := n, cycles := 9 }
    memWf (q 35).mem = true ∧ ((q 35).pilot ((q 35).part 0).sup).takesRec = true ∧ ((q 36).pilot 0).takesRec = false ∧ waits (.eventRecordPost 0) (q 36) = true ∧
    ends (.eventRecordPost 0) (q 35) (fun t => t.records == [] && (t.pilot 0).evqtail == 36 && t.valAt 256 0 0x30060 32 == 0x900000007 && !(t.cell 0).evtBusy) = true) := by
  decide +kernel

/-! Events: translations (08, 16). -/

/-- Quay cell 126 whose one valid slot is an instruction, with two tokens. -/
def slotOf (i : Instr) (a b : Token) (f : Cell → Cell := id) : State := quay a b fun c => f (c.modCtx 0 fun x => { x with
  trig := vset x.trig 0 1, inst := vset x.inst 0 (BitVec.ofNat 32 ((encode i).getD 0).toNat) })
def xlats (va : Nat) (f : Cell → Cell := id) : State := slotOf (.xlat oU) (tok [va, va / 2 ^ 32]) (tok []) f

/-- 08 R192, 16 R352, R356: a translation starts, also as the seventeenth of its quay; an address that is not canonical. -/
theorem test_translation_start : (let w (i : Nat) : Walk := ⟨i, .cell 127, 0, 0, 2, 0, 1, .r, true, none⟩
    let what (va : Nat) : TransFor := .xlat (BitVec.ofNat 64 va) ((xlats va).cell 126 |>.srcAt (.inp 0))
    let poor := (xlats 0x10040).modVd 0 fun d => { d with keys := 1 }
    let full := (xlats 0x10040).modQuay 0 fun q => { q with walks := (List.range 16).map w }
    (xlats 0x10040).toStart 126 = some (what 0x10040) ∧ ((xlats 0x10040).tlbServes 0 0 true 0x10040 false).isNone = true ∧ ((xlats 0x10040).walkRoot 0 0x10040).toOption = some (0x10000, 1) ∧
    canonical 0x10040 = true ∧ canonical (0x40000000000000 : DWord) = false ∧ (quay (tok []) (tok [])).toStart 126 = none ∧
    ends (.translationStart 126) (xlats 0x10040) (fun t => (t.cell 126).trans == some ⟨what 0x10040, .running⟩ && (t.quay 0).walks.length == 1 && t.passes.length == 1 &&
      (t.quay 0).walks.all fun w => w.who == .cell 126 && w.level == 2 && w.table == 0x10000 && w.key == 1) = true ∧
    full.toStart 126 = some (what 0x10040) ∧ poor.toStart 126 = some (what 0x10040) ∧
    cellOf (.translationStart 126) poor (fun c => c.trans == some ⟨what 0x10040, .fail 0x11 0⟩) 126 = true ∧ ends (.translationStart 126) full (fun t => (t.quay 0).walks.length == 16 && (t.quay 0).queue.length == 1) = true ∧
    cellOf (.translationStart 126) (xlats 0x40000000000000) (fun c => c.trans == some ⟨what 0x40000000000000, .fail 0x10 0x30⟩) 126 = true) := by decide +kernel

/-- A walk of cell 126 at a level and a table, of a page's address. -/
def walking (level table page : Nat) (wr : Bool := false) (old : Option (Nat × DWord × Frame) := none) : State :=
  let va := BitVec.ofNat 64 (65536 * page)
  ((quay (tok []) (tok []) fun c => { c with trans := some ⟨.stream va wr, .running⟩ }).modQuay 0 fun q =>
    { q with walks := [⟨7, .cell 126, 0, va, level, table, 1, if wr then .w else .r, true, old⟩] })
def fails (s : State) (cause detail : Nat) : Bool := cellOf (.walkReadReply 0 7) s (fun c => match c.trans with | some ⟨_, .fail a d⟩ => a == cause && d == detail | _ => false) 126

/-- 16 R353 to R355: an entry of each kind: the next table, a page, a page whose A bit is to be set, and each failure; a walk that starts again. -/
theorem test_walks : (((walking 0 0x30000 1).quay 0).walk? 7 = some ⟨7, .cell 126, 0, 0x10000, 0, 0x30000, 1, .r, true, none⟩ ∧
    [fails (walking 0 0x30000 6) 0x10 1, fails (walking 0 0x30000 5) 0x10 2, fails (walking 0 0x30000 4) 0x10 3, fails (walking 0 0x30000 3 true) 0x13 1,
      fails { walking 0 0x30000 1 with poison := [0x30008 / 16] } 0x20 0, fails (walking 2 0x30000 7) 0x10 0x21,
      fails ((walking 0 0x30000 1).modVd 0 fun d => { d with keys := 4 }) 0x11 0, fails ((walking 0 0x30000 1).modPart 0 fun p => { p with ranges := [] }) 0x11 1,
      ends (.walkReadReply 0 7) (walking 2 0x10000 1) fun t => (t.quay 0).walks == [⟨7, .cell 126, 0, 0x10000, 1, 0x20000, 1, .r, true, none⟩] && t.passes.length == 1,
      ends (.walkReadReply 0 7) (walking 3 0 1) fun t => (t.quay 0).walks.map (fun w => (w.level, w.table)) == [(2, 0x10000)] && t.passes.length == 1,
      cellOf (.walkReadReply 0 7) (walking 0 0x30000 1) (fun c => c.trans == some ⟨.stream 0x10000 false, .ok frame1⟩) 126,
      ends (.walkReadReply 0 7) (walking 0 0x30000 2) fun t => t.mem == (walking 0 0x30000 2).mem && t.passes.map (·.ev) == [some (.accessedDirtyUpdate 0 7)]].all id = true) := by
  decide +kernel

/-- 16 R355: the A bit of page 2 is set if its entry is still what was read; else, or after a TLBINV, the walk starts again. -/
theorem test_accessed : (let f : Frame := ⟨0x50000, 65536, true, true, 1, 0, false⟩
    let s (p : DWord) : State := walking 0 0x30000 2 false (some (0x30010, p, f))
    let again (u : State) : Bool := ends (.accessedDirtyUpdate 0 7) u fun t => t.mem == (s 0).mem && t.passes.map (·.ev) == [some (.walkReadReply 0 7)]
    memWf (s 0x5011F).mem = true ∧ (s 0).valAt 64 1 0x30010 8 = 0x5011F ∧ ((s 0).walkRoot 0 0x20000).toOption = some (0x10000, 1) ∧
    ends (.accessedDirtyUpdate 0 7) (s 0x5011F) (fun t => t.valAt 64 1 0x30010 8 == 0x5015F && (t.cell 126).trans == some ⟨.stream 0x20000 false, .ok f⟩) = true ∧
    again (s 0x5015F) = true ∧ again (walking 0 0x30000 2) = true) := by decide +kernel

/-- 08 R191, R215; 16 R359: refills of an entry on page 1 by a walk, from the buffer, without a key id, and on block 0; lookups of blocks 0 and 2, and of block 1 to be written. -/
theorem test_refills : (let fw (e : FwSrc) : State := quay (tok []) (tok []) fun c => { c with fw := vset c.fw 6 { entry with valid := false, src := e } }
    let look (b wr : Nat) : State := slotOf (.blkmap oB) (tok [0x10000, 0, wr]) (tok [b])
    let got (c : Cell) : Bool := c.trans == some ⟨.block 0x10000 0 false, .ok ⟨0x50000, 512, true, false, 1, 0, true⟩⟩
    [cellOf (.frameWindowRefill 126 6) (fw (.page 1)) (fun c => c.fw[6].frame == 0x40000 && !c.fw[6].valid && c.trans == some ⟨.refill 6, .running⟩) 126,
    cellOf (.frameWindowRefill 126 6) ((fw (.page 1)).modQuay 0 fun q => { q with tlb := [⟨0, 1, 0, 0x401DF⟩] }) (fun c => c.fw[6] == entry && c.trans.isNone) 126,
    cellOf (.frameWindowRefill 126 6) ((fw (.page 6)).modVd 0 fun d => { d with keys := 1 }) (fun c => c.trans == some ⟨.refill 6, .fail 0x11 0⟩) 126,
    cellOf (.frameWindowRefill 126 6) (fw (.block 0x10000 0 false)) (fun c => c.fw[6].valid && c.fw[6].frame == 0x50000 && c.fw[6].len == 512) 126,
    cellOf (.blockMapLookup 126) (look 0 0) got 126, cellOf (.blockMapLookup 126) (look 2 0) (fun c => match c.trans with | some ⟨_, .fail 0x18 _⟩ => true | _ => false) 126,
    cellOf (.blockMapLookup 126) (look 1 16) (fun c => match c.trans with | some ⟨_, .fail 0x17 0⟩ => true | _ => false) 126].all id = true ∧
    (look 0 0).toStart 126 = some (.block 0x10000 0 false) ∧ (look 1 16).toStart 126 = some (.block 0x10000 1 true)) := by decide +kernel

/-! Events: requests (08, 12). -/

/-- A request of quay cell 126 for 0x40040, its result to w2. -/
def req (k : ReqKind) (f : Req → Req := id) : Req := f
  { id := 9, cell := 126, ctx := 0, slot := 0, kind := k, pa := 0x40040, va := 0x10040, key := 1, pol := 0, vd := 0, ord := false, since := 0, lat := 1, todo := [],
    arrived := false, served := false, group := none, ans := 0, poison := false, res := [(⟨.reg 2, .none, .zero, 0⟩, none)], held := false, done := 0, pre := [], paged := false }
def withReqs (l : List Req) (f : Cell → Cell := id) : State := { quay (tok []) (tok []) (fun c => f { c with outUnord := 3 }) with reqs := l, pilots := [] }
/-- The request is answered, with a check of the state. -/
def answered (i : Instr) (s : State) (v : Wide) (P : State → Bool := fun _ => true) : Bool :=
  ends i s fun t => t.reqs.any (fun r => r.id == 9 && r.served && r.ans == v && !r.poison) && P t

/-- 08 R194, R203; 12 R291: each kind of memory request is served, behind an earlier one, and at a poisoned sector. -/
theorem test_slice_serve : (let s (k : ReqKind) : State := withReqs [req k]
    let early := withReqs [req .read fun r => { r with id := 8 }, req .read]
    let both := withReqs [req .read, req (.write [(0x40040, 7)]) fun r => { r with id := 10 }]
    both.behind (req .read) = false ∧ both.contended (req .read) = true ∧ both.poisonedAt 0x40040 32 = false ∧
    (s .read).contended (req .read) = false ∧ (s (.write [(0x40040, 7)])).contended (req (.write [(0x40040, 7)])) = false ∧
    (req .read).toServe = true ∧ (s .read).behind (req .read) = false ∧ early.behind (req .read) = true ∧ memWf (s .read).mem = true ∧
    [answered (.sliceServe 9) (s .read) (BitVec.ofNat 256 (0x20001 + 0x50000 * 2 ^ 64 + 0x20003 * 2 ^ 128 + 0x50200 * 2 ^ 192)),
    ends (.sliceServe 9) { s .read with poison := [0x4004] } fun t => t.reqs.any fun r => r.served && r.poison,
    answered (.sliceServe 9) (s (.write [(0x40040, 7), (0x40045, 8)])) 0 fun t => t.byteAt 1 0x40040 == 7 && t.byteAt 1 0x40045 == 8 && t.byteAt 1 0x40042 == 2,
    answered (.sliceServe 9) (s (.atom .add true 5 0)) 0x20001 fun t => t.valAt 64 1 0x40040 8 == 0x20006,
    answered (.sliceServe 9) (s (.atom .cas false 5 9)) 0x20001 fun t => t.valAt 32 1 0x40040 4 == 0x20001,
    ends (.sliceServe 9) (s (.prefetch 32)) fun t => t.reqs == [], ends (.sliceServe 9) early fun t => t.reqs == early.reqs && later t == [(1, .sliceServe 9)],
    ends (.blockMapOpServe 9) early fun t => later t == [(1, .blockMapOpServe 9)]].all id = true) := by decide +kernel

/-- 08 R210 to R216: the channel requests and the block-map requests, one that fails, and the count 65534 at its bound. -/
theorem test_channel_serve : (let s (k : ReqKind) : State := (withReqs [req k]).setChan 5 channel
    let blk (b : Word) (rel : Bool) : State := s (.blkop 0x10000 b rel)
    let full (n : Nat) : State := { blk 0 false with mem := memWrites (blk 0 false).mem 0x40042 [BitVec.ofNat 8 n, BitVec.ofNat 8 (n / 256)] }
    let changes (b : Word) (rel : Bool) : Option Nat := ((blk b rel).blkChange 0 0 true 0x10000 b.toNat rel).1.toOption.map (·.1)
    let counts (n : Nat) (rel : Bool) : Option Nat := ((full n).blkChange 0 0 true 0x10000 0 rel).1.toOption.map (·.1)
    [ends (.sliceServe 9) (s (.chcl 5)) fun t => t.chan 5 == { channel with closed := true },
    answered (.sliceServe 9) (s (.chst 5)) (ofLanes ((s (.chst 5)).chanSnap 5)), ends (.sliceServe 9) (s (.chr 5)) fun t => (t.chan 5).chrWait == some (.cell 9),
    ends (.sliceServe 9) (s (.chw 5 (tok [7]) false)) fun t => (t.chan 5).wtoks == [(tok [7], .req 9)],
    ends (.sliceServe 9) (s (.chw 5 (tok [7]) true)) fun t => t.pend.length == 1 && t.pend.all fun e => e.due == 1 && (match e.ev with
      | .berthRequestArrival (.quay 0) q => q.chan == 5 && q.cnt == 2 && q.toks == [tok [7]] && q.src == 126
      | _ => false),
    answered (.blockMapOpServe 9) (blk 0 false) (W [3]) fun t => t.valAt 32 1 0x40040 4 == 0x30001, answered (.blockMapOpServe 9) (blk 0 true) (W [1]),
    ends (.blockMapOpServe 9) (blk 2 false) fun t => (t.cell 126).stop.cause == 0x18 && t.reqs.all fun r => r.held].all id = true ∧
    changes 0 false = some 3 ∧ changes 0 true = some 1 ∧ changes 2 false = none ∧ counts 1 false = some 2 ∧ counts 65534 false = some 65535 ∧ counts 65535 false = none ∧
    counts 0 false = none ∧ counts 0 true = none ∧ counts 2 true = some 1) := by decide +kernel

/-- 08 R195 to R197, R208, R209; 16 R373: a request completes, one with poisoned data; a buffered line at 256 clk and before; flushes ready and not. -/
theorem test_completions : (let s (f : Req → Req) : State := withReqs [req .read fun r => f { r with served := true, ans := W [6] }]
    let line : Coal := ⟨0x800, 0, 1, 0, [(0x40040, 7)], [(⟨.reg 2, .none, .zero, 0⟩, W [4])], 0⟩
    let coal (n : Nat) : State := { withReqs [] (fun c => { c with coal := [line] }) with clk := n }
    let flush (k : FlushKind) (l : List Req) : State := withReqs l fun c => { c with flush := [⟨k, 10, ⟨.reg 2, .none, .zero, 0⟩, W [4]⟩] }
    let store := req (.write [(0x40040, 7)])
    let landed (c : Cell) : List (WDst × Wide) := c.lands.map fun l => (l.w.x, l.pay)
    [ends (.requestCompletion 9) (s id) fun t => t.reqs == [] && landed (t.cell 126) == [(.reg 2, W [6])] && (t.cell 126).outUnord == 2,
    ends (.requestCompletion 9) (s fun r => { r with res := [(⟨.out 1024 0 2 8 3, .none, .zero, 0⟩, none)] }) fun t => landed (t.cell 126) == [(.out 1024 0 2 8 3, W [6])],
    ends (.requestCompletion 9) (s fun r => { r with res := [(⟨.reg 2, .none, .zero, 0⟩, some 1)] }) fun t => landed (t.cell 126) == [(.reg 2, 1)],
    ends (.requestCompletion 9) (s fun r => { r with poison := true }) fun t => (t.cell 126).stop.cause == 0x20 && t.reqs.all fun r => r.held && !r.served,
    waits (.coalesceTimeout 126 0x800) (coal 255), ends (.coalesceTimeout 126 0x800) (coal 256) fun t => (t.cell 126).coal == [] &&
      t.reqs.map (fun r => (r.kind, r.pa, r.ord, r.res)) == [(.write [(0x40040, 7)], 0x40000, false, [(⟨.reg 2, .none, .zero, 0⟩, some (W [4]))])],
    cellOf (.handInstall 126) (flush (.hand 127 3 5) []) (fun c => c.owned[3] == 5) 127, cellOf (.handInstall 126) (flush (.hand 127 3 5) []) (fun c => landed c == [(.reg 2, W [4])] && c.flush == []) 126,
    cellOf (.flushResult 126) (flush .stores [req .read]) (fun c => landed c == [(.reg 2, W [4])] && c.flush == []) 126, cellOf (.flushResult 126) (flush .all []) (fun c => landed c == [(.reg 2, W [4])]) 126,
    waits (.flushResult 126) (flush .all [req .read]), waits (.flushResult 126) (flush .stores [store]), waits (.handInstall 126) (flush (.hand 127 3 5) [store])].all id = true) := by
  decide +kernel

/-! Events: channels and the dredger (11). -/

/-- A request of a pilot, or of a cell, for an element of channel 5; and channel 5 of the mapped partition, with requests in its home roadstead. -/
def chanReq (k : Nat) : BReq := { reqOf 2 with kind := k, src := if k = 0 then 126 else 0, chan := 5, rank := 9, toks := [tok [7]] }
def onChan (f : Chan → Chan) (road : List BReq := []) (slots : Tbl Slot := []) : State :=
  let s := mapped State.reset
  ((s.setQuay 0 { s.quay 0 with bw := 8, road := road, slots := slots }).setChan 5 (f { channel with reader := 0x40000000, basin := 1 }))
/-- The channel with its ring full and its basin empty; of one extent. -/
def inBasin (f : Chan → Chan := id) (c : Chan) : Chan := f { c with nr := 4, nb := 2, eg := 1, bWr := (0, 2) }

/-- 11 R272: an element of the ring for each kind, of the basin, and none. -/
theorem test_allocation : (let i := Instr.channelAllocation 5
    let ring (k : Nat) (l : List Token) : Bool := ends i (onChan id [chanReq k]) fun t => (t.chan 5).cur == some (.inl 0) && (t.chan 5).rWr == 1 && (t.chan 5).nr == 1 &&
      (t.chan 5).wIdx == 1 && (t.quay 0).road == [] && (t.chan 5).wtoks.map (·.1) == l && tblGet? (t.quay 0).slots 1 == some ⟨0, .zero, 0, 1⟩
    let b := onChan (inBasin) [chanReq 1]
    (onChan id [chanReq 0]).chanReq? 5 = some (chanReq 0) ∧ (b.chan 5).bWr.2 + 1 < (b.chan 5).pe ∧ (b.chan 5).nb < (b.chan 5).eg * (b.chan 5).pe ∧
    [ring 0 [tok [7]], ring 1 [tok [7]], ring 4 [tok [7], ⟨0, .zero⟩], waits i (onChan id), waits i (onChan (fun c => { c with nr := 4 }) [chanReq 1]),
      waits i (onChan (fun c => { c with cur := some (.inl 0) }) [chanReq 1]), waits (.freeFramePush 5) (onChan id),
      ends i b fun t => (t.chan 5).cur == some (.inr (0, 2)) && (t.chan 5).bWr == (0, 3) && (t.chan 5).nb == 3].all id = true) := by decide +kernel

/-- 11 R273, 08 R212: the first token of an element, its last, and a marker; what a cell reads, and a pilot; the marker of a spent channel. -/
theorem test_channel_tokens : (let w (n : Nat) (t : Token) (who : Teller) : State :=
      { onChan (fun c => { c with cur := some (.inl 1), wpos := n, wtoks := [(t, who)], wIdx := 6 }) with reqs := [req (.chw 5 t false) fun r => { r with arrived := true }] }
    let two : Tbl Slot := [(0, ⟨W [5], ⟨0, false, 3⟩, 0xFF, 1⟩), (1, ⟨W [6], .zero, 0xFF, 1⟩)]
    let rd (p : Nat) (f : Chan → Chan := id) : State := { onChan (fun c => f { c with nr := 1, rpos := p, chrWait := some (.cell 9) }) [] two with reqs := [req (.chr 5)] }
    [waits (.channelWriteToken 5) (onChan id),
    ends (.channelWriteToken 5) (w 0 (tok [7]) (.req 9)) fun t => tblGet? (t.quay 0).slots 2 == some ⟨W [7], .zero, 0xFF, 1⟩ && (t.chan 5).wpos == 1 && t.reqs.all fun r => r.served && r.ans == W [5],
    ends (.channelWriteToken 5) (w 1 (tok [7]) (.pilot 0)) fun t => (t.chan 5).cur.isNone && (t.pilot 0).ans == some 5 && (t.pilot 0).woke,
    ends (.channelWriteToken 5) (w 0 (mark 1 [7]) (.req 9)) fun t => (t.chan 5).cur.isNone && (t.chan 5).wpos == 0,
    answered (.channelReadServe 5) (rd 0) (W [5]) fun t => (t.chan 5).rpos == 1 && (t.chan 5).nr == 1 && t.reqs.all fun r => r.res.map (fun x => x.1.tag) == [⟨0, false, 3⟩],
    answered (.channelReadServe 5) (rd 1) (W [6]) fun t => (t.chan 5).rpos == 0 && (t.chan 5).nr == 0 && (t.chan 5).rRd == 1 && (t.chan 5).rIdx == 1,
    waits (.channelReadServe 5) (rd 0 fun c => { c with nr := 0 }), waits (.channelReadServe 5) (onChan id),
    answered (.channelReadServe 5) (rd 0 fun c => { c with nr := 0, closed := true }) 0 fun t => t.reqs.all fun r => r.res.map (fun x => x.1.tag) == [⟨7, false, 0⟩],
    ends (.channelReadServe 5) (rd 0 fun c => { c with chrWait := some (.pilot 0) }) fun t => (t.chan 5).chrWait.isNone && (t.pilot 0).ans == some 0].all id = true) := by decide +kernel

/-- 11 R275 to R277: a move from the basin starts, lands, is held while accesses are paused; the splice. -/
theorem test_basin : (let s := onChan (inBasin fun c => { c with nr := 3 })
    let g := s.basinGet 5 (0, 0)
    let m (p : Bool) : State := onChan (inBasin fun c => { c with nr := 3, moves := [⟨3, [tok [1], tok [2]], 4⟩], paused := p })
    (s.chan 5).canMove = true ∧ g.1.isSome = true ∧ g.2.chan 5 = s.chan 5 ∧ g.2.pend = [] ∧ ((m false).chan 5).bRd.2 + 1 < ((m false).chan 5).pe ∧
    [waits (.basinMoveStart 5) (onChan id), ends (.basinMoveStart 5) s fun t => (t.chan 5).moves.length == 1 && (t.chan 5).rWr == 1 && t.pend.all fun e => e.ev == .basinMoveLand 5,
    waits (.basinMoveLand 5) (onChan id), ends (.basinMoveLand 5) (m true) fun t => later t == [(1, .basinMoveLand 5)],
    ends (.basinMoveLand 5) (m false) fun t => (t.chan 5).nr == 4 && (t.chan 5).nb == 1 && (t.chan 5).moves == [] && (t.chan 5).bRd == (0, 1) && t.ringTok 5 3 1 == tok [2],
    mixToks 1 [tok [1, 2, 3, 4, 5]] [tok [9, 9, 9, 9, 9]] == [tok [1, 2, 3, 4, 9]],
    ends (.basinAccessReissue 5) (m true) fun t => !(t.chan 5).paused, ends (.spliceComplete 5) (onChan fun c => { c with splice := true }) fun t => !(t.chan 5).splice].all id = true) := by
  decide +kernel

/-- A partition whose virtual device is active and stalled, with a region that runs, and n rounds of stall before; its channel 5 with a writer that waits. -/
def stalled (n : Nat) (f : Chan → Chan := id) (wait : Bool := true) (v : Vd → Vd := id) : State :=
  let s := onChan (fun c => f { c with nr := 4, limit := 1 }) (if wait then [chanReq 0] else [])
  ((s.modVd 0 fun d => v { d with dredge := n }).modPart 0 fun p => { p with sActive := [0], sStalled := [0] }).setRegion 3 { Region.free with st := .running, gated := false, hdr := header1 }

/-- 11 R280 to R283: a round, a sample, and a result with no stall, with the first, and with the second: no channel waits, a limit, a quota, a growth. -/
theorem test_dredger : (let s := stalled 1
    let stops (t : State) (n : Nat) : Bool := (t.vd 0).trap == some n && (t.vd 0).dredge == 0 && (t.region 3).halt.isSome
    s.vdsOf 0 = [0] ∧ (s.chansOf 0).filter s.writerWaits = [(5, s.chan 5)] ∧ s.runningOf 0 = [3] ∧ s.chanVd 5 = 0 ∧ (s.chansOf 0).length = 1 ∧
    ((s.modVd 0 fun d => { d with dredge := d.dredge + 1 }).extFrame 5 0 65504).1.isSome = true ∧
    [ends (.dredgerRound 0) s fun t => t.cells == s.cells && t.pend.map (fun e => (e.due, e.ev)) == [(36, .dredgerSample 0), (72, .dredgerResult 0)],
    ends (.dredgerSample 0) (s.modCell 0 fun c => { c with acted := true }) fun t => !(t.cell 0).acted && (t.quay 0).granted == [],
    ends (.dredgerResult 0) (s.modPart 0 fun p => { p with sActive := [] }) fun t => (t.vd 0).dredge == 0 && (t.region 3).halt.isNone,
    ends (.dredgerResult 0) (stalled 0) fun t => (t.vd 0).dredge == 1 && (t.region 3).halt.isNone,
    ends (.dredgerResult 0) (stalled 1 id false) fun t => stops t 0, ends (.dredgerResult 0) (stalled 1 fun c => { c with limit := 0 }) fun t => stops t 2,
    ends (.dredgerResult 0) (stalled 1 id true fun d => { d with quota := 0 }) fun t => stops t 1,
    ends (.dredgerResult 0) s fun t => (t.chan 5).eg == 1 && (t.vd 0).quota == 7 && (t.region 3).halt.isNone].all id = true) := by decide +kernel

/-! Events: regions (09, 13, 16). -/

/-- Region 3 with cell 0, its pilot's command under way. -/
def regAt (st : RState) (f : Region → Region := id) (c : Cell → Cell := id) : State :=
  (region st fun g => f { g with hdrVa := 0x10200 }).modCell 0 (fun k => c { k with region := some 3 }) |>.setPilot 0 { (region st).pilot 0 with async := [3] }
/-- A region event leaves the region in a state, having posted records of some types. -/
def becomes (i : Instr) (s : State) (st : RState) (types : List Nat) (P : State → Bool := fun _ => true) : Bool :=
  ends i s fun t => (t.region 3).st == st && t.records.map (fun r => r.body.toNat % 256) == types && P t
def halting (n : Nat) (by_ : HaltBy := .quantum) (c : Cell → Cell := id) : State := { regAt .running (fun g => { g with halt := some by_, haltAt := 0 }) c with clk := n }

/-- 01 R20, 13 R304 to R306, 16 R364: a drain; the quantum at 1, at 2 and none; the halt at 38, 3258 and 3400 clk, and one clk before each. -/
theorem test_region_runs : (let q (n : Nat) (w : Word) : State := regAt .running fun g => { g with counter := n, quantum := w }
    (regAt .running id fun c => { c with joined := true }).isDrained 3 = true ∧ (regAt .running).isDrained 3 = false ∧
    [becomes (.regionCompletionEvent 3) (regAt .running id fun c => { c with joined := true }) .drained [1] fun t => (t.region 3).gated, waits (.regionCompletionEvent 3) (regAt .running),
    waits (.regionCompletionEvent 3) (regAt .stopped), becomes (.quantumExpiry 3) (q 1 9) .running [] fun t => (t.region 3).halt == some .quantum && (t.region 3).expired &&
      later t == [(38, .preemptSignal 3), (3258, .readPhaseEnd 3), (3400, .haltComplete 3)],
    waits (.quantumExpiry 3) (q 2 9), waits (.quantumExpiry 3) (q 1 0), becomes (.preemptSignal 3) (halting 38) .running [] fun t => (t.region 3).gated && t.frozen 0,
    waits (.preemptSignal 3) (halting 37), ends (.readPhaseEnd 3) (halting 3258 .quantum fun c => { c with evtBusy := true }) fun t => !(t.cell 0).evtBusy, waits (.readPhaseEnd 3) (halting 3257),
    becomes (.haltComplete 3) (halting 3400) .stopped [3], becomes (.haltComplete 3) (halting 3400 (.rstop 0)) .stopped [], waits (.haltComplete 3) (halting 3399)].all id = true) := by
  decide +kernel

/-- 13 R307, R308; 09 R241: the end of a load of an image of zeros, of one that was killed, and of one on a page that is not mapped. -/
theorem test_loading_end : (let bad := regAt .loading fun g => { g with hdrVa := 0x5FFC0 }
    let good := regAt .loading
    let a := good.readImages 3
    let b := bad.readImages 3
    let k := regAt .loading fun g => { g with kill := true }
    a.1.toOption.map (fun cs => cs.map fun x => x.place) = some [0] ∧ a.2.region 3 = good.region 3 ∧ a.2.parts = good.parts ∧ (good.region 3).own = [] ∧
    b.1.toOption.isNone = true ∧ b.2.regions = bad.regions ∧ b.2.cells = bad.cells ∧ b.2.parts = bad.parts ∧
    [becomes (.loadingEnd 3) good .loaded [10] fun t => (t.pilot 0).async == [] && (t.cell 0).region == some 3,
    becomes (.loadingEnd 3) bad .free [2] fun t => (t.cell 0).region.isNone && (t.pilot 0).async == [],
    becomes (.loadingEnd 3) k .killing [] fun t => later t == [(Config.killClk, .killComplete 3)], waits (.loadingEnd 3) (regAt .loaded)].all id = true) := by decide +kernel

/-- The region after its save, of one byte, whose image is intact in its area. -/
def oneByte : Save :=
  let s := regAt .restoring
  { region := 3, id := 0, pa := s.saveAt 3 0, bytes := 1, places := [0], cells := [{ s.cell 0 with w := .replicate 8 (W [4]) }], slots := [], reqs := [], queued := [], waiting := [], live := true }
def imaged : State := { regAt .restoring with mem := memWrites (regAt .restoring).mem 0 (saveImage 0 1), saves := [oneByte, { oneByte with region := 4, id := 1, pa := 64 }] }
theorem test_image : imaged.saves.find? (imaged.imageOk 3 0) = some oneByte := by
  have h : imaged.bytesAt (imaged.rootKey 0) 0 1 = saveImage 0 1 :=
    congrArg (· :: []) (memRead_writes_in (saveImage 0 1) (regAt .restoring).mem 0 0 (by decide +kernel) (by decide))
  have e : imaged.imageOk 3 0 oneByte = true := by
    show (imaged.hasKey 0 && imaged.bytesAt (imaged.rootKey 0) 0 1 == saveImage 0 1) = true
    rw [h, beq_self_eq_true]
    rfl
  simp only [imaged, List.find?] at *
  simp only [e]

/-- 16 R365 to R368: the ends of a save, of a restore with no image and with one, of a discarding region, and of a kill, which waits for a token sent before it. -/
theorem test_save_restore : (let s := regAt .restoring
    let t := imaged.restoreSettle 3 oneByte
    let d := regAt .restoring fun g => { g with hdr := header1 ||| BitVec.ofNat 512 (2 ^ 98) }
    let sv := regAt .saving fun g => { g with hdr := header1 ||| BitVec.ofNat 512 (2 ^ 98) }
    let sent (n : Nat) : State := { regAt .killing with clk := Config.killClk + 5, passes := [{ id := 0, vd := 0, rclass := 3, rank := 0, since := n, lat := 1, todo := [], queued := false, cls := clsOther, sub := 0, ev := some (.tokenArrival 0 0 0 0 (tok [])), via := none }] }
    hdrDiscard header1 = false ∧ hdrDiscard (d.region 3).hdr = true ∧ memWf s.mem = true ∧ s.regCells 3 = [0] ∧
    t.stitchFail 3 = none ∧ t.saves.map (fun x => (x.region, x.live)) = [(3, false), (4, true)] ∧ (t.cell 0).w[3] = W [4] ∧ d.reloadDiscard 3 = none ∧
    ((regAt .saving).vd 0).keys &&& ~~~1#64 ≠ 0 ∧ ((regAt .saving).setVd 0 Vd.none |>.vd 0).keys &&& ~~~1#64 = 0 ∧
    [becomes (.restoreComplete 3) (s.setVd 0 Vd.none) .saved [10], becomes (.restoreComplete 3) d .saved [10],
    becomes (.saveComplete 3) ((regAt .saving).setVd 0 Vd.none) .saved [10] fun t => t.saves.map (fun v => (v.places, v.live)) == [([0], true)],
    becomes (.saveComplete 3) sv .saved [10] fun t => (t.cell 0).region.isNone && (t.pilot 0).async == [], waits (.saveComplete 3) s, waits (.restoreComplete 3) sv, waits (.killComplete 3) s,
    becomes (.killComplete 3) (sent 5) .killing [] fun t => later t == [(Config.killClk + 6, .killComplete 3)], becomes (.killComplete 3) (sent 6) .free [10],
    becomes (.killComplete 3) (regAt .killing) .free [10] fun t => (t.cell 0).region.isNone && (t.pilot 0).async == []].all id = true) := by decide +kernel

/-- The tables of these states are in their order. -/
theorem test_sorted : Sorted (regAt .loading fun g => { g with hdrVa := 0x5FFC0 }).regions ∧ Sorted (regAt .loading fun g => { g with hdrVa := 0x5FFC0 }).cells ∧
    Sorted (regAt .saving fun g => { g with hdr := header1 ||| BitVec.ofNat 512 (2 ^ 98) }).cells ∧ Sorted (regAt .killing).regions ∧ Sorted (regAt .killing).cells := by
  unfold Sorted
  decide +kernel

/-- A region that discards its tokens; its image lies at 0x10200, with a header of the bits 2 and 3 of its flags and a CRC computed with zlib. -/
def header2 : BitVec 512 := ofBytes 512 (((header.set 12 12).take 60 ++ [63, 196, 87, 154]).map (BitVec.ofNat 8))
def discards : State :=
  let s := regAt .restoring fun g => { g with hdr := header2 }
  { s with mem := memWrites s.mem 0x40200 (toBytes header2 64) }
theorem test_header2 : headerFail header2 16777216 0 = none := by
  have h (i : Nat) (c d : BitVec 32) (l : List Nat) (e : (List.range' i 120).foldl (fun c i => crcBit c (bit header2 i)) c = d) :
      (List.range' i 120 ++ l).foldl (fun c i => crcBit c (bit header2 i)) c = l.foldl (fun c i => crcBit c (bit header2 i)) d := by rw [List.foldl_append, e]
  have r : List.range 480 = List.range' 0 120 ++ (List.range' 120 120 ++ (List.range' 240 120 ++ (List.range' 360 120 ++ []))) := by decide +kernel
  have c : crc32 header2 480 = 0x9A57C43F := by
    rw [crc32, r, h 0 _ 0x77415D87 _ (by decide +kernel), h 120 _ 0x14E3B605 _ (by decide +kernel), h 240 _ 0xDC761AB4 _ (by decide +kernel), h 360 _ 0x65A83BC0 _ (by decide +kernel)]
    decide +kernel
  simp only [headerFail, c]
  decide +kernel
theorem reload (s : State) (r : Nat) (h : BitVec 512) (bs : List Byte) (hb : (s.pbytes (s.region r).ldr false (s.region r).hdrVa 64).1.toOption = some bs) (ho : ofBytes 512 bs = h)
    (hf : let t := (s.pbytes (s.region r).ldr false (s.region r).hdrVa 64).2
      headerFail h (t.berthBytes (s.region r).part h) (t.part (s.region r).part).first = none) :
    s.reloadDiscard r = (s.pbytes (s.region r).ldr false (s.region r).hdrVa 64).2.reloadAs r h := by
  unfold State.reloadDiscard
  simp only at hf ⊢
  split
  · next e => exact absurd (e ▸ hb) (by simp [Except.toOption])
  · next l t e =>
    rw [e] at hb hf
    simp only [Except.toOption, Option.some.injEq] at hb
    subst hb
    simp only [ho, hf, e]
    rfl
/-- 16 R368: it is configured again from its image. -/
theorem test_discard : (discards.reloadDiscard 3).map (fun t => (t.stitchFail 3).isNone) = some true := by
  have b : (discards.pbytes (discards.region 3).ldr false (discards.region 3).hdrVa 64).2.berthBytes (discards.region 3).part header2 = 16777216 ∧
    ((discards.pbytes (discards.region 3).ldr false (discards.region 3).hdrVa 64).2.part (discards.region 3).part).first = 0 := by decide +kernel
  rw [reload discards 3 header2 (toBytes header2 64) (by decide +kernel) (by decide +kernel) (by simp only [b.1, b.2, test_header2])]
  decide +kernel

/-! Events: pilots (03, 09). -/

/-- 03 R87, 09 R225, R226, R232, R236: an illegal word, the event interrupt in both modes and masked, a WFE's time, a store that its slice acknowledges. -/
theorem test_pilot_events : (let ev (st : DWord) (w : PWait := .no) : State := pilot [] fun p => { p with status := st, evqtail := 1, wait := w }
    let st := pilot [] fun p => { p with stores := [⟨5, 0x40048, 1, 0, 0, [7, 8]⟩, ⟨6, 0x40049, 1, 0, 0, [9]⟩], acc := some ⟨7, 0x40040, 1, 0, 0, .load false 4, []⟩, wait := .mem }
    let old := pilot [] fun p => { p with acc := some ⟨7, 0x40040, 1, 0, 0, .load false 4, []⟩, wait := .mem }
    let wfe (n : Nat) : State := { pilot [] fun p => { p with wait := .wfe 9 } with clk := n }
    let took (p : Pilot) (st : DWord) : Bool := p.cause == 0x101 && p.pc == 0x20000 && p.epc == 0x10100 && p.status == st && p.wait == .no
    (ev 0).canInterrupt 0 = true ∧ (ev 0 .idle).canInterrupt 0 = true ∧ (ev 0 (.wfe 9)).canInterrupt 0 = true ∧ (ev 2 (.region 3)).canInterrupt 0 = false ∧ memWf st.mem = true ∧
    [endsP (.illegalInstruction 0 7) (pilot []) fun p => p.cause == 1 && p.tval == 7 && p.epc == 0x10100 && p.pc == 0x20000,
    endsP (.eventInterrupt 0) (ev 0x203) fun p => took p (trapStatus 0x203), endsP (.eventInterrupt 0) (ev 0) fun p => took p (trapStatus 0), waits (.eventInterrupt 0) (ev 1),
    endsP (.eventInterrupt 0) (ev 0 (.chtake 5)) fun p => took p (trapStatus 0),
    waits (.eventInterrupt 0) (ev 3 (.region 3)), waits (.eventInterrupt 0) (pilot []), endsP (.wfeTimeout 0) (wfe 9) fun p => p.woke, waits (.wfeTimeout 0) (wfe 8),
    ends (.pilotAccessComplete (0, 5)) st fun t => (t.pilot 0).stores.length == 1 && t.byteAt 1 0x40049 == 8 && (t.pilot 0).pc == 0x10100,
    ends (.pilotAccessComplete (0, 6)) st fun t => t.mem == st.mem && later t == [(1, .pilotAccessComplete (0, 6))],
    ends (.pilotAccessComplete (0, 7)) st fun t => t.mem == st.mem && later t == [(1, .pilotAccessComplete (0, 7))],
    endsP (.pilotAccessComplete (0, 7)) old fun p => p.acc.isNone, waits (.pilotAccessComplete (0, 8)) old, waits (.pilotAccessComplete (0, 8)) (pilot [])].all id = true) := by
  decide +kernel

/-! Events: the host and the platform (13, 15, 17). -/

/-- The mapped partition, the link active; the physical function reaches virtual device 0, virtual function 3 device 1, whose TDI runs, and function 4
device 2, which is unlocked. Channel 5 is the host's. -/
def hosting (f : Platform → Platform := id) (c : Chan → Chan := id) : State :=
  let s := ((mapped State.reset).setVd 1 { Vd.none with keys := 2, root := some 0x10000, vf := some 3, tdi := .run }).setVd 2 { Vd.none with vf := some 4 }
  { s.setChan 5 (c { channel with writer := 0x80000000 }) with host := f { s.host with link := true, up := true, powered := true, pfvd := 0x80 } }
def hostOf (i : Instr) (s : State) (P : Platform → Bool) : Bool := ends i s fun t => P t.host
def unlinked : State := hosting fun h => { h with link := false }

/-- 13 R302, 17 R376 to R379: doorbells, of a function that may use them and of one that may not; a second one takes the first one's place while the
queue has no room, and waits behind a write that waits; no link. -/
theorem test_doorbells : (let s := hosting
    let twice (t : State) : State := match exec (.notifyWrite 3 6) t with | .next u => u | _ => t
    let open_ (t : State) : State := t.modPilot (t.part 0).sup fun p => { p with online := true, evqbase := 0x5000 }
    (s.pilot (s.part 0).sup).takesRec = false ∧ ((open_ s).pilot (s.part 0).sup).takesRec = true ∧
    s.vfUp 3 = some 1 ∧ s.vfUp 4 = none ∧ s.vfVd 4 = some 2 ∧ (tblGet? s.vds 7).isNone = true ∧ ((tblGet? s.vds 0).bind fun d => d.vf) = none ∧
    [ends (.notifyWrite 3 7) s fun t => t.records == [notifyRec 1 7], ends (.notifyWrite 3 7) (twice s) fun t => t.records == [notifyRec 1 7],
    ends (.notifyWrite 3 7) (open_ (twice s)) fun t => t.records == [notifyRec 1 6, notifyRec 1 7],
    ends (.pfnotifyWrite 0 7) (hosting fun h => { h with swait := [(16, [⟨0, .chan, 640, [1]⟩])] }) fun t => t.records == [] && t.host.swait == [(16, [⟨0, .chan, 640, [1]⟩, ⟨0, .bell 7, 0, []⟩])],
    waits (.notifyWrite 4 7) s, ends (.notifyWrite 3 7) s fun t => (t.vd 1).notify == 7, ends (.pfnotifyWrite 0 7) s fun t => t.records == [notifyRec 0 7],
    ends (.pfnotifyWrite 7 7) s fun t => t.records == [] && t.host.pfdrops == 1,
    hostOf (.pfnotifyWrite 7 7) (hosting fun h => { h with pfdrops := 0xFFFFFFFF }) fun h => h.pfdrops == 0xFFFFFFFF,
    [Instr.isoerrRead, .pfdropsRead, .notifyWrite 3 7, .pfnotifyWrite 0 7].all fun i => waits i unlinked,
    [Instr.dropsRead 4, .hostMemoryRead .pf 0x10000 4, .hostMemoryWrite .pf 0x10000 [1]].all fun i => waits i unlinked,
    [Instr.hostChannelWrite .pf 0 [], .pfvdWrite 1, .hblossClear 1].all fun i => waits i unlinked, [Instr.registerWrite 8 1, .shadowCopyStart 1].all fun i => waits i unlinked].all id = true) := by
  decide +kernel

/-- 17 R380, R381: the memory window, and the channel aperture: an element, one of the wrong size, and one behind another. -/
theorem test_host_access : (let s := hosting
    let bs : List Byte := List.replicate 64 7
    let busy := hosting fun h => { h with swait := [(16, [⟨0, .chan, 640, bs⟩])] }
    let r := s.vbytes (s.hostQuay 0) 0 true 0x10040 2 4 0
    let t := s.translate (s.hostQuay 0) 0 true 0x10040 .w
    let j := s.vjudge (s.hostQuay 0) 0 0x30040 2 2
    let counted (n : Nat) (t : State) : Bool := t.host.drops == [(n, 1)] && t.mem == s.mem
    let ch := s.chanAt 0 5
    s.target .pf = some 0 ∧ s.target (.vf 3) = some 1 ∧ s.target (.vf 4) = none ∧ r.1.toOption = some [1, 0, 2, 0] ∧ t.1.toOption = some frame1 ∧ memWf t.2.mem = true ∧
    windowVa 0x10040 = 0x10040 ∧ windowVa (2 ^ 40 - 1) = 0x003FFFFFFFFFFFFF ∧ ch = 5 ∧ s.hostWaits 16 = false ∧ s.partOf 0 = some 0 ∧ j.1.toOption.isNone = true ∧ tblGet [] s.host.swait 16 = [] ∧
    [hostOf (.hostMemoryRead .pf 0x10040 4) s fun h => h.reply == .data [1, 0, 2, 0], hostOf (.hostMemoryRead (.vf 4) 0x10040 4) s fun h => h.reply == .unsupported,
    hostOf (.hostMemoryRead .pf 0x60000 4) s fun h => h.reply == .unsupported && h.pfdrops == 1,
    hostOf (.hostMemoryRead .pf 0x10040 4) { s with poison := [0x4004] } fun h => (match h.reply with | .data l => l.length == 4 | _ => false),
    ends (.hostMemoryWrite .pf 0x10040 [9, 8]) s fun t => t.bytesAt 1 0x40040 4 == [9, 8, 2, 0], ends (.hostMemoryWrite (.vf 4) 0x10040 [9]) s (counted 4), ends (.hostMemoryWrite (.vf 3) 0x30040 [9, 8]) s (counted 3),
    ends (.hostChannelWrite .pf 640 bs) s fun t => t.pend.length == 1 && t.pend.all fun e => e.due == 1 && (match e.ev with
      | .berthRequestArrival (.quay 0) q => q.kind == 2 && q.chan == 5 && q.toks.length == 2
      | _ => false),
    ends (.hostChannelWrite .pf 640 (bs.drop 1)) s fun t => t.pend == [] && t.host.pfdrops == 1, ends (.hostChannelWrite (.vf 4) 640 bs) s (counted 4), ends (.hostChannelWrite (.vf 9) 640 bs) s (counted 9),
    hostOf (.hostChannelWrite .pf 640 [1]) busy fun h => h.swait == [(16, [⟨0, .chan, 640, bs⟩, ⟨0, .chan, 640, [1]⟩])],
    hostOf (.hostMemoryWrite .pf 64 [1]) busy fun h => h.swait == [(16, [⟨0, .chan, 640, bs⟩, ⟨0, .mem, 64, [1]⟩])]].all id = true) := by decide +kernel

/-- 17 R378, R379, R392: the registers, each with all bits set, and the shadow engine: idle, busy, and with a range outside the partition. -/
theorem test_host_registers : (let ones : DWord := 0xFFFFFFFFFFFFFFFF
    let sh (d n : DWord) : State := hosting fun h => { h with shsrc := 0x50000, shdst := d, shlen := n }
    let job (n : Nat) : State := hosting fun h => { h with shBusy := true, shJob := (0x50000, 0x60000, n) }
    let reads (r : HostReg) (v : Reply) : Bool := match hosting.turn (.act (.read r)) with | .next t => t.host.reply == v | _ => false
    [reads .pfvd (.value 0x80), reads .status (.value 0), reads (.notify 3) (.value 0), reads (.notify 16) .unsupported, reads (.pfnotify 7) (.value 0), hostOf (.pfvdWrite ones) hosting fun h => h.pfvd == 0xFF, hostOf (.hblossClear 0x81) (hosting fun h => { h with hbloss := 0xFF }) fun h => h.hbloss == 0x7E,
    hostOf .isoerrRead (hosting fun h => { h with isoerr := 5 }) fun h => h.reply == .value 5 && h.isoerr == 0,
    hostOf .pfdropsRead (hosting fun h => { h with pfdrops := 6 }) fun h => h.reply == .value 6 && h.pfdrops == 0,
    hostOf (.dropsRead 4) (hosting fun h => { h with drops := [(4, 7)] }) fun h => h.reply == .value 7 && h.drops == [], hostOf (.dropsRead 16) hosting fun h => h.reply == .unsupported,
    hostOf (.registerWrite 0x008 ones) hosting fun h => h.ltol == 0x9FFF, hostOf (.registerWrite 0x020 ones) hosting fun h => h.shsrc == ones,
    hostOf (.registerWrite 0x028 ones) hosting fun h => h.shdst == ones, hostOf (.registerWrite 0x030 ones) hosting fun h => h.shlen == ones, waits (.registerWrite 0 ones) hosting,
    waits (.shadowCopyStart 0) (sh 0x60000 4096), waits (.shadowCopyStart 1) (hosting fun h => { h with shBusy := true }),
    ends (.shadowCopyStart 1) (sh 0x400000 4096) fun t => t.host.shErr && !t.host.shBusy && t.mem == (sh 0 0).mem, hostOf (.shadowCopyStart 1) (sh 0x60001 0) fun h => h.shErr,
    hostOf (.shadowCopyStart 1) (sh 0x60000 0) fun h => !h.shBusy && h.shDone == 0, waits .shadowCopyDone hosting,
    ends (.shadowCopyStart 1) (sh 0x60000 8192) fun t => t.host.shBusy && t.passes.map (fun p => p.ev) == [some .shadowCopyDone],
    hostOf .shadowCopyDone ((job 0).setVd 0 Vd.none) fun h => !h.shBusy && h.shErr].all id = true ∧
    (job 2).host.shBusy = true ∧ (job 2).host.shJob = (0x50000, 0x60000, 2) ∧
    ((job 0).vd 0).keys &&& ~~~1#64 ≠ 0 ∧
    (sh 0 0).spanOk 0 0x3FF000 4096 = true ∧ (sh 0 0).spanOk 0 0x400000 4096 = false ∧ memWf hosting.mem = true) := by decide +kernel

/-- 17 R376, R383, R384, R391: coming up with a good image and with a bad one; the power states at the tolerances that divide them. -/
theorem test_power : (let tol (v : DWord) (f : State → State := id) : State := f { State.reset with host := { Platform.reset with ltol := v } }
    let at0 (v : DWord) (p : Power) : Bool := ends (.powerStateEntry 0) (tol v) fun t => t.powerOf 0 == p && t.powerOf 1 == .p0
    let busy (s : State) : State := s.setPilot 1 { Pilot.reset with online := true }
    (tol 0).idleStrip 0 = true ∧ (tol 0).idlePackage = true ∧ (busy (tol 0)).idlePackage = false ∧ (busy (tol 0)).idleStrip 1 = false ∧
    [hostOf (.powerGood true) State.reset fun h => h.powered && !h.bootFailed, hostOf (.powerGood false) State.reset fun h => h.bootFailed,
    hostOf .linkActive (hosting fun h => { h with link := false, bootFailed := true }) fun h => h.link && h.up && !h.ready, ends (.powerGood true) { State.reset with llc := (hosting.touchSector 0 1 0 false 0x40000).llc } fun t => t.llc == [], waits .linkActive State.reset, hostOf .linkLeavesDlActive hosting fun h => !h.link,
    at0 0x7FFF .p0, at0 0x8000 .p0, at0 (0x8000 + 1024 + 62) .p0, at0 (0x8000 + 1024 + 63) .p1, at0 (0x8000 + 2048 + 58) .p1, at0 (0x8000 + 2048 + 59) .p2,
    ends (.powerStateEntry 0) (tol (0x8000 + 3072 + 62)) fun t => t.powerOf 47 == .p3, ends (.powerStateEntry 0) (tol (0x8000 + 3072 + 61)) fun t => t.powerOf 47 == .p0 && t.powerOf 0 == .p2,
    ends (.powerStateEntry 0) (tol (0x8000 + 3072 + 62) busy) fun t => t.powerOf 0 == .p2, ends (.powerStateEntry 1) (tol (0x8000 + 3072 + 62) busy) fun t => t.powerOf 1 == .p0,
    ends (.powerStateWake 0) { State.reset with host := { Platform.reset with power := [(0, .p3), (1, .p3)] } } fun t => t.powerOf 1 == .p0,
    ends (.powerStateWake 0) { State.reset with host := { Platform.reset with power := [(0, .p2), (1, .p2)] } } fun t => t.powerOf 0 == .p0 && t.powerOf 1 == .p2].all id = true) := by
  decide +kernel

/-- A die's responder in a state. -/
def spdmAt (die : Fin 9) (x : Spdm) : State := hosting fun h => { h with spdm := vset h.spdm die x }
def replied (i : Instr) (s : State) (kind : Nat) (P : Platform → Bool := fun _ => true) : Bool :=
  hostOf i s fun h => (match h.reply with | .spdmOk _ k _ _ => k == kind | .spdmError _ => kind == 0 | _ => false) && P h

/-- 15 R350, R351: each request in its order, and one out of it; the session; keys within it; the TDIs. -/
theorem test_spdm : (let z : Spdm := ⟨false, false, false, 0⟩
    let r : Spdm := ⟨true, true, true, 0⟩
    let ses : State := spdmAt 8 { r with sess := 2 }
    [replied (.getVersion 0) (spdmAt 0 r) 1 fun h => h.spdm[0] == { z with version := true }, replied (.getCapabilities 0) (spdmAt 0 z) 0,
    replied (.getCapabilities 0) (spdmAt 0 { z with version := true }) 2 fun h => h.spdm[0] == ⟨true, true, false, 0⟩,
    replied (.negotiateAlgorithms 0) (spdmAt 0 { r with algs := false }) 3 fun h => h.spdm[0] == r, replied (.getDigests 0) (spdmAt 0 r) 4, replied (.getCertificate 8) (spdmAt 8 r) 5,
    replied (.challenge 0 1) (spdmAt 0 r) 6, replied (.getMeasurements 8 1) (spdmAt 8 r) 7, replied (.getDigests 0) (spdmAt 0 z) 0, replied (.keyExchange 0 1) (spdmAt 0 r) 0,
    replied (.keyExchange 8 1) (spdmAt 8 r) 8 fun h => h.spdm[8] == { r with sess := 1 }, replied (.finish 8 true) (spdmAt 8 { r with sess := 1 }) 9 fun h => h.spdm[8] == { r with sess := 2 },
    replied (.finish 8 false) (spdmAt 8 { r with sess := 1 }) 0, replied (.endSession 8) ses 10 fun h => h.spdm[8] == r, replied (.endSession 8) (spdmAt 8 r) 0].all id = true ∧
    [replied (.ideKmExchange .pf) ses 11 fun h => h.idePf, replied (.ideKmExchange (.vf 3)) ses 11 fun h => h.ide == [3], replied (.ideKmExchange (.vf 9)) ses 0, replied (.ideKmExchange .pf) hosting 0].all id = true ∧
    [ends (.tdiLock 4) ses fun t => (t.vd 2).tdi == .locked, replied (.tdiLock 3) ses 0, replied (.startInterfaceRequest 4) ses 0,
    ends (.startInterfaceRequest 4) ((ses.modVd 2 fun v => { v with tdi := .locked }).modHost fun h => { h with ide := [4] }) fun t => (t.vd 2).tdi == .run,
    replied (.startInterfaceRequest 4) (ses.modVd 2 fun v => { v with tdi := .locked }) 0,
    ends (.tdiUnlock 3) (ses.modHost fun h => { h with ide := [3, 4] }) fun t => (t.vd 1).tdi == .unlocked && t.host.ide == [4],
    ends (.ideIntegrityFailure 3) (ses.modHost fun h => { h with ide := [3] }) fun t => (t.vd 1).tdi == .error && t.host.ide == [], waits (.ideIntegrityFailure 3) ses, waits (.ideIntegrityFailure 4) ses].all id = true) := by
  decide +kernel

/-! Events: the Seaway (16, 17). -/

/-- Port 0 trained, with a channel entry 9 for channel 5, which the port writes, and a window entry 10 of 64 bytes on page 1 of virtual device 0. -/
def seaway (f : SwPort → SwPort := id) (g : SwRx → SwRx := id) : State :=
  let x (t : RxTarget) : SwRx := ⟨t, 0, [], none, 0, 0, 0, 0, [], 0, []⟩
  let s := (mapped State.reset).setChan 5 { channel with writer := 0xC0000000 }
  { s with host := { s.host with up := true, partners := [77] }, ports := [(0, f { SwPort.reset with trained := true, rx := [(9, g (x (.channel 0 5))), (10, g (x (.window 0 0 0x10040 64 0x10080)))] })] }
def row (kind ch num off : Nat) (toks : List Token) : SwRow := ⟨0, 0, 0, kind, true, ch, num, off, toks, true⟩
def swTx : SwTx := { SwTx.reset with hasKey := true, credits := 1, kept := [row 0 9 4 0 [], row 0 9 5 0 [tok [1]]], ackHi := 5 }
/-- A port that hears a row, and a row of the layout for it, which it serves. -/
def heard (s : State) : State := s.wakeAll.modPort 0 fun p => { p with lastRx := s.wakeAll.clk }
theorem row_heard (s : State) (r : SwRow) (hu : s.host.up = true) (hp : (s.port 0).trained = true)
    (h : r.toks ≠ [] ∧ r.toks.length ≤ 29 ∧ r.pkg = Config.package.toNat ∧ r.port = 0) :
    exec (.seawayRowReceive 0 r) s = .next ((heard s).rowServe 0 r) ∧ exec (.acknowledgementReceive 0 r) s = .next ((heard s).ackIn 0 r) := by
  have e : r.toks.isEmpty = false := by cases he : r.toks <;> simp_all
  constructor
  · rw [exec_seawayRowReceive]
    simp [execSeawayRowReceive, State.rowIn, State.managed, hu, h.2.2.1, h.2.2.2, e, Nat.not_lt.mpr h.2.1, show (s.wakeAll.port 0).trained = true from hp, heard]
  · rw [exec_acknowledgementReceive]
    simp [execAcknowledgementReceive, State.rowIn, State.managed, hu, h.2.2.1, h.2.2.2, e, Nat.not_lt.mpr h.2.1, show (s.wakeAll.port 0).trained = true from hp, heard]
/-- The state in which a row leaves a port that serves it. -/
def rowOn (r : SwRow) (s : State) (P : State → Bool) : Bool := s.host.up && (s.port 0).trained && !r.toks.isEmpty && r.toks.length ≤ 29 && P ((heard s).rowServe 0 { r with pkg := Config.package.toNat })
def ackOn (r : SwRow) (s : State) (P : State → Bool) : Bool := s.host.up && (s.port 0).trained && P ((heard s).ackIn 0 { r with pkg := Config.package.toNat })
def portOf (i : Instr) (s : State) (P : SwPort → Bool) : Bool := ends i s fun t => P (t.port 0)

/-- 17 R385 to R390: training again, heartbeats, keys, the table with 256 entries and one less, the send queue's place. -/
theorem test_seaway_port : (let full (n : Nat) : State := seaway fun p => { p with rx := (List.range n).map fun i => (i, ⟨.channel 0 5, 0, [], none, 0, 0, 0, 0, [], 0, []⟩) }
    let down := seaway fun p => { p with trained := false, tx := [(9, swTx)] }
    let cut : State := { seaway with host := { seaway.host with up := false } }
    [portOf (.seawayPortTraining 0 true (some 77)) down fun p => p.trained && p.wire.map List.length == [80],
    portOf (.seawayPortTraining 0 true (some 78)) seaway fun p => !p.trained, portOf (.seawayPortTraining 0 true none) seaway fun p => !p.trained, waits (.seawayPortTraining 8 true (some 77)) seaway,
    waits (.seawayPortTraining 0 true (some 77)) cut, waits (.seawayRowReceive 0 (row 0 9 0 0 [tok [7]])) cut, waits (.seawayRowReceive 0 (row 0 9 0 0 [tok [7]])) down,
    portOf (.heartbeatSend 0) seaway fun p => p.wire.map List.length == [80],
    portOf (.heartbeatSend 0) (seaway fun p => { p with trained := false }) fun p => p.wire == [], ends (.heartbeatLoss 7) seaway fun t => t.host.hbloss == 0x80,
    ends (.seawayKeyLoad 0 9 6) (seaway id fun x => { x with low := 4 }) fun t => (t.tx 0 9).hasKey && (t.tx 0 9).key == 6 && (t.port 0).rx.map (fun x => x.2.low) == [0, 4], portOf (.receiveTableWrite 0 300 (.channel 0 6)) (full 255) fun p => p.rx.length == 256,
    portOf (.receiveTableWrite 0 300 (.channel 0 6)) (full 256) fun p => p.rx.length == 256,
    portOf (.receiveTableWrite 0 3 (.channel 0 6)) (full 256) fun p => (tblGet? p.rx 3).any fun x => x.target == .channel 0 6,
    ends (.sendQueuePlace 0 0x10000) seaway fun t => (t.vd 0).sendq == some 0x10000, waits (.sendQueuePlace 1 0) seaway, ends (.sendQueueTailStore 0) seaway fun t => (t.vd 0).tail].all id = true) := by
  decide +kernel

/-- 17 R388, 16 R369: rows received: an isolation error of each kind, a heartbeat, a channel row, a remote write of the last byte of its window, one
that faults and is parked, its retry, and the completion word. -/
theorem test_seaway_rows : (let t1 : List Token := [tok [7]]
    let r1 := row 1 10 0 1 t1
    let iso (r : SwRow) : Bool := rowOn r seaway fun t => t.host.isoerr == 1 && t.mem == seaway.mem && t.pend == []
    let high := seaway id fun x => { x with low := 3, got := [5], high := some 5 }
    let off (l : List SwRow) : State := seaway fun p => { p with parked := l, rx := [(10, ⟨.window 0 0 0x60040 64 0x10080, 0, [], none, 0, 0, 0, 0, [], 0, []⟩)] }
    let full := List.replicate 32 r1
    let taken (t : State) : Bool := t.pend == [] && t.host.isoerr == 0 && ((tblGet? (t.port 0).rx 9).any fun x => !x.admits 0)
    let done := seaway id fun x => { x with slow := 1, lasts := [0] }
    let w := seaway.remoteWrite 0 0x10040 r1
    [iso { row 0 9 0 0 t1 with part := 1 }, iso { row 0 9 0 0 t1 with tagOk := false }, iso (row 0 8 0 0 t1), iso (row 0 9 1024 0 t1), iso (row 1 9 0 0 t1), iso (row 0 10 0 0 t1), iso (row 1 10 0 2 t1),
    rowOn (row 0 9 5 0 t1) high fun t => t.host.isoerr == 1, rowOn (row 0 9 1029 0 t1) high fun t => t.host.isoerr == 1,
    rowOn (row 0 9 1028 0 t1) high fun t => t.host.isoerr == 0, ends (.seawayRowReceive 0 (row 2 0 0 0 [])) seaway fun t => t.host.isoerr == 0,
    ends (.seawayRowReceive 0 (row 0 9 0 0 [])) seaway fun t => t.host.isoerr == 1,
    rowOn (row 0 9 0 0 t1) (seaway.modChan 5 fun c => { c with closed := true }) taken,
    rowOn (row 0 9 0 0 t1) seaway fun t => t.pend.length == 1 && t.host.isoerr == 0 && t.pend.all fun e => (match e.ev with
      | .berthRequestArrival (.quay 0) q => q.kind == 3 && q.chan == 5 && q.toks == t1
      | _ => false),
    rowOn r1 seaway fun t => t.valAt 64 1 0x40060 8 == 7 && (t.port 0).parked.isEmpty,
    rowOn r1 (off []) fun t => (t.port 0).parked.length == 1 && t.records.length == 1,
    ends (.parkedRowRetry (0, 0)) (off [r1]) fun t => (t.port 0).parked.length == 1 && t.records.length == 1,
    rowOn (row 1 10 5 1 t1) (off full) fun t => (t.port 0).held.length == 1 && (t.port 0).parked.length == 32 && ((tblGet? (t.port 0).rx 10).any fun x => x.admits 5),
    ends (.parkedRowRetry (0, 0)) (seaway fun p => { p with parked := [r1], held := [row 1 10 1 0 t1] }) fun t => (t.port 0).parked == [] && (t.port 0).held == [] &&
      t.host.isoerr == 0 && t.valAt 64 1 0x40040 8 == 7 && ((tblGet? (t.port 0).rx 10).any fun x => !x.admits 1),
    waits (.parkedRowRetry (0, 0)) seaway, ends (.remoteWriteCompletion 0 10) done fun t => t.valAt 32 1 0x40080 4 == 1, waits (.remoteWriteCompletion 0 8) done].all id = true ∧
    ((off full).port 0).parked.length = 32 ∧ (heard (off full)).rowVd 0 r1 = some 0 ∧ (seaway.port 0).parked = [] ∧
    ((off []).remoteWrite 0 0x60040 r1).1.toOption.isNone = true ∧ ((off full).remoteWrite 0 0x60040 r1).1.toOption.isNone = true ∧
    w.1.toOption.isSome = true ∧ w.2.ports = seaway.ports ∧
    ((done.translate 0 0 true 0x10080 .w).1.toOption).isSome = true ∧ (done.translate 0 0 true 0x10080 .w).2.ports = done.ports ∧ memWf done.mem = true) := by decide +kernel

/-- A send queue of 4 entries at 0x10200, with a descriptor at 0x10280 of 30 tokens from 0x10000: the control block, head 2 and tail n. -/
def sending (n : Nat) (f : SwTx → SwTx := id) : State :=
  let s := seaway fun p => { p with tx := [(9, f swTx)] }
  { (s.modVd 0 fun v => { v with sendq := some 0x10200, tail := true }) with mem := memWrites (memWrites s.mem 0x40200
      ([0x00, 0x02, 1, 0, 0, 0, 0, 0, 4, 0, 0, 0, 2, 0, 0, 0] ++ [BitVec.ofNat 8 n])) 0x40280 [0, 0, 0, 0, 0, 0, 9, 0, 0, 0, 1, 0, 0, 0, 0, 0, 30] }

/-- 17 R389, R390: acknowledgements, taken and refused; an acknowledgement sent; the first row of a descriptor, 24 tokens of a channel; an empty queue. -/
theorem test_seaway_sends : (let ack : SwRow := row 3 9 0 5 [tok [6]]
    let s := seaway fun p => { p with tx := [(9, swTx)] }
    let c : Option SendCtl := some ⟨0x10200, 4, 2, 3⟩
    let db := (sending 3).sqRead 0 0x10280 64
    let bs := db.2.sqRead 0 0x10000 768
    (sending 3).sqCtl 0 = c ∧ db.1.isSome = true ∧ (bs.1.map List.length) = some 768 ∧ bs.2.ports = (sending 3).ports ∧ seaway.sqCtl 0 = none ∧
    [ackOn ack s fun t => (t.tx 0 9).credits == 7 && (t.tx 0 9).kept.map (fun r => r.num) == [5] && (t.tx 0 9).ackNext == 1 && t.host.isoerr == 0,
    rowOn ack s fun t => (t.tx 0 9).credits == 7, ackOn { ack with tagOk := false } s fun t => t.host.isoerr == 1 && (t.tx 0 9).credits == 1,
    ackOn ack (seaway fun p => { p with tx := [(9, { swTx with ackNext := 1 })] }) fun t => t.host.isoerr == 1,
    portOf (.ackTimeout 0 9) (seaway id fun x => { x with low := 7, freed := 3, ackSeq := 2 }) fun p => p.wire.map List.length == [80] &&
      p.rx.map (fun x => (x.2.freed, x.2.ackSeq)) == [(0, 3), (3, 2)],
    waits (.ackTimeout 0 9) (seaway fun p => { p with trained := false }),
    waits (.ackTimeout 0 8) seaway, waits (.seawayRowSend 0) seaway, ends (.seawayRowSend 0) (sending 2) fun t => !(t.vd 0).tail,
    ends (.seawayRowSend 0) (sending 3) fun t => (t.tx 0 9).credits == 0 && (t.tx 0 9).next == 1 &&
      (t.tx 0 9).waiting.map (fun r => (r.num, r.chan, r.kind, r.last, r.toks.length)) == [(0, 9, 0, false, 24)]].all id = true) := by decide +kernel

/-! Events: errors (14, 15, 16). -/

def failed (n : Nat) (t : State) : Bool := t.host.failing.contains n && t.host.replace
def failRecs (t : State) : List (Nat × Nat) := t.records.map fun r => (r.part, r.body.toNat % 256)

/-- 16 R370 to R375: the 4,095th error of a row and the 4,096th; each kind of unit; a strip with its pilot or its third row; a beacon channel's; an
isolation error; what was lost is not compared. -/
theorem test_errors : (let s := live (tok [1]) (tok [2])
    let h (f : Platform → Platform) : State := { s with host := f s.host }
    let run := s.setBeacon 31 { Beacon.reset with P := 5, arrivals := 2, gen := 9 }
    let e (n : Nat) : Pend := ⟨40, clsOther, 0, n, .tokenArrival 0 0 0 0 (tok []), none⟩
    let g (n : Nat) : Pass := { id := n, vd := 0, rclass := 3, rank := 0, since := 0, lat := 1, todo := [], queued := false, cls := clsOther, sub := 0, ev := some (.tokenArrival 0 0 0 0 (tok [])), via := none }
    s.partOf 0 = some 0 ∧ s.bcnOwner 31 = some 0 ∧ s.bcnOwner 3 = none ∧ (h fun k => { k with failing := [2, 3] }).badRows 0 = 2 ∧
    [hostOf (.correctableError (.row 0 7)) (h fun k => { k with errs := [(7, 4094)] }) fun k => k.errs == [(7, 4095)] && k.failing == [],
    ends (.correctableError (.row 0 7)) (h fun k => { k with errs := [(7, 4095)] }) fun t => failed 7 t,
    ends (.uncorrectableError (.store 0 0)) s fun t => (t.cell 0).stop == ⟨true, 0x20, 0⟩ && (t.cell 0).slot 4 == (s.cell 0).slot 4 && ((t.cell 0).slot 0).rdr == 1 && failed 0 t,
    ends (.uncorrectableError (.regs 126)) s fun t => (t.cell 126).stop.cause == 0x20 && failed 0x10000 t,
    ends (.uncorrectableError (.sector 0x40040)) s fun t => t.poison == [0x4004] && t.host.failing.length == 1 && (t.cell 0).stop.stopped == false,
    ends (.uncorrectableError (.slice 5)) s fun t => failed 0x30005 t && t.cells == s.cells, ends (.uncorrectableError (.strip 0)) s fun t => t.records == [failRec 0 1 1 0 1],
    ends (.uncorrectableError (.strip 47)) s fun t => failed (0x10000 + 47) t && t.records == [],
    ends (.uncorrectableError (.pilot 1)) s fun t => failed 0x20001 t && failed 0x10001 t,
    ends (.uncorrectableError (.row 0 4)) (h fun k => { k with failing := [2, 3] }) fun t => failed 0x10000 t,
    ends (.uncorrectableError (.row 0 4)) (h fun k => { k with failing := [2] }) fun t => !failed 0x10000 t && failed 4 t,
    ends (.beaconUncorrectableError 31) run fun t => (t.region 3).halt.isSome && t.beacon 31 == { Beacon.reset with P := 5, gen := 9 } && failRecs t == [(0, 0xD)],
    waits (.beaconUncorrectableError 3) run,
    ends (.isolationError (.hbm 2, 4)) { s with pend := [e 3, e 4], passes := [g 4] } fun t => t.host.isoerr == 1 && t.host.isoUnits == [(0x40002, 1)] && failed 0x40002 t && t.records == [] &&
      t.pend.map (fun p => p.owner) == [3] && t.passes == []].all id = true) := by decide +kernel

/-- 14 R325: a replay delays what is in flight to cell 5 and what goes there after it, nothing else. -/
theorem test_replay : (let e (due c owner : Nat) : Pend := ⟨due, clsOther, 0, owner, .tokenArrival c 0 0 0 (tok []), none⟩
    let s : State := { State.reset with pend := [e 3 5 1, e 4 5 2, e 2 5 2, e 4 6 2] }
    ends (.linkCrcReplay 1) s (fun t => t.pend.map (fun p => p.due) == [4, 5, 2, 4]) = true ∧ waits (.linkCrcReplay 9) s = true) := by decide +kernel

/-! Events: the management controller (01, 10, 15, 16, 17). -/

def part0 : PartDesc := ⟨0, 2, 3, 5, 0x80000000, [(0, 64)], [2048, 512, 1927529, 2228224, 240640], false, 1⟩
/-- The mapped partition with virtual device 1 of function 3, whose TDI is in a state. -/
def owned (t : Tdi := .unlocked) (f : State → State := id) : State := f (((mapped State.reset).modHost fun h => { h with up := true }).setVd 1 { Vd.none with keys := 4, vf := some 3, tdi := t })
/-- A change of what a locked TDI fixes. -/
def blockedChange (i : Instr) (s : State) : Bool := ends i s fun t => (t.vd 1).tdi == .error && t.parts == s.parts && t.quays == s.quays && t.cells == s.cells && t.host.held.length == 1

/-- 15 R332 to R336, R349: a partition is formed, not on a strip of another nor beyond the arbiters' capacity; it is removed; the maps. -/
theorem test_partitions : (let f (d : PartDesc) : Bool := State.reset.canForm 15 d
    let up : State := State.reset.modHost fun h => { h with up := true }
    let items : PartDesc := { part0 with colour := 1, mask := 1, allot := [7, 0, 0, 0, 0], closed := true }
    let acted (s : State) (a : Act) (P : State → Bool) : Bool := match s.turn (.act a) with | .next t => P t | _ => false
    let gone := owned .unlocked fun s => (s.modPart 0 fun p => { p with leaving := true }).modPart 0 id
    let maps (m : BitVec 98) : PlaceMaps := ⟨0, [(1, m)]⟩
    let m96 : BitVec 98 := BitVec.ofNat 98 (2 ^ 98 - 1 - 2 ^ 97 - 1)
    f part0 = true ∧ f { part0 with first := 46, count := 2, sup := 47 } = true ∧ f { part0 with first := 46, count := 3, sup := 47 } = false ∧
    f { part0 with allot := [2049, 0, 0, 0, 0] } = false ∧ f { part0 with ranges := [(2 ^ 36, 1)] } = false ∧ f { part0 with ranges := [(768 * 16384 - 1, 2)] } = false ∧
    f { part0 with ranges := [(768 * 16384 - 2, 2)] } = true ∧ ({ State.reset with host := { State.reset.host with failing := [0x10001] } } : State).canForm 15 part0 = false ∧
    coloursApart 3 5 2 1 = true ∧ coloursApart 3 5 1 1 = false ∧ State.reset.canForm 16 part0 = false ∧ (owned).canForm 1 part0 = false ∧
    (((List.range 98).countP fun i => m96.getLsbD i) = 96) ∧ (owned).lockedVds 0 = [] ∧ (owned .locked).lockedVds 0 = [1] ∧ (owned .error).lockedVds 0 = [1] ∧
    (let h (t : Tdi) : State := ((owned t).modHost fun x => { x with held := [.remove 0] }).heldGo
     (h .unlocked).host.held = [] ∧ ((h .unlocked).part 0).leaving = true ∧ (h .error).host.held.length = 1 ∧ ((h .error).part 0).leaving = false) ∧ (gone.part 0).leaving = true ∧
    [waits (.partitionForm 15 part0) State.reset, ends (.partitionForm 15 part0) up fun t => (t.part 15).count == 2 && (t.part 15).sup == 1 && (t.part 15).mask == 5, waits (.partitionForm 1 part0) owned,
    ends (.partitionRemove 0) owned fun t => (t.part 0).leaving && (t.vd 0).dying && (t.vd 1).dying, waits (.partitionRemove 1) owned, blockedChange (.partitionRemove 0) (owned .run),
    ends (.supervisorPilotNamed 0 1) owned fun t => (t.part 0).sup == 1, waits (.supervisorPilotNamed 0 2) owned,
    ends (.placeMapWrite 0 (maps m96)) owned fun t => tblGet? (t.part 0).rows 1 == some m96, blockedChange (.placeMapWrite 0 (maps m96)) (owned .locked),
    waits (.placeMapWrite 0 (maps m96)) (owned .unlocked fun s => s.setRegion 3 { Region.free with st := .running }), waits (.placeMapWrite 0 ⟨1, []⟩) owned,
    waits (.placeMapWrite 0 (maps m96)) (owned .unlocked fun s => { s with host := { s.host with failing := [129] } }),
    acted owned (.items 0 items) (fun t => (t.part 0).mask == 1 && (t.part 0).closed && (t.part 0).first == 0), acted owned (.keyMask 1 7) (fun t => (t.vd 1).keys == 6),
    acted (owned .run) (.keyMask 1 7) (fun t => (t.vd 1).keys == 4 && (t.vd 1).tdi == .error), acted owned (.basinQuota 1 5) (fun t => (t.vd 1).quota == 5),
    acted owned (.saveArea 1 0x1000 64) (fun t => (t.vd 1).saveBase == 0x1000), acted owned (.saveArea 1 0x400000 64) (fun t => t == owned), acted owned (.root 0 none) (fun t => (t.vd 0).root.isNone)].all id = true ∧
    (({ gone with vds := [] } : State).partEnd 0).parts = []) := by decide +kernel

/-- 01 R33, 15 R335, 10 R252, 16 R372: strips released and brought online at the ends of a partition; pilots; berth ways at 8 and 9, and of a fused slice. -/
theorem test_strips : (let d (n : Nat) : OnlineDesc := ⟨some 0, n, 8, 0x10000, 5⟩
    let used := owned .unlocked fun s => s.modCell 1024 fun c => { c with region := some 3 }
    let fused := owned .unlocked fun s => { s with host := { s.host with fused := [1] } }
    let area := owned .unlocked fun s => s.modQuay 1 fun q => { q with areas := [⟨0, 16, .inl 3⟩] }
    (owned).stripFree 1 = true ∧ used.stripFree 1 = false ∧ (owned).stripFree 2 = true ∧ (owned).partOf 2 = none ∧ (owned).partOf 1 = some 0 ∧
    (let low := owned .unlocked fun s => { s with host := { s.host with released := [0] } }
     ends (.stripOnline 0 ⟨none, 0, 0, 0, 0⟩) low (fun t => (t.part 0).first == 1 && (t.part 0).count == 1 && t.host.released == []) = true ∧
     waits (.stripOnline 0 ⟨none, 0, 0, 0, 0⟩) owned = true) ∧
    [ends (.stripRelease 1) (owned .unlocked fun s => s.modCell 1024 fun c => { c with flags := 1 }) fun t => t.host.released == [1] && t.cell 1024 == Cell.reset && t.parts == (owned).parts,
    waits (.stripRelease 1) used, waits (.stripRelease 2) owned,
    ends (.stripOnline 2 (d 8)) owned fun t => (t.part 0).count == 3 && (t.quay 4).bw == 8 && t.pilot 2 == { Pilot.reset with online := true, pc := 0x10000, vdid := 5 },
    waits (.stripOnline 2 (d 9)) owned, waits (.stripOnline 1 (d 8)) used, blockedChange (.stripOnline 2 (d 0)) (owned .locked),
    ends (.pilotOnline 1 0x10000 7) owned fun t => t.pilot 1 == { Pilot.reset with online := true, pc := 0x10000, vdid := 7 } && (t.pilot 1).sup, waits (.pilotOnline 2 0 0) owned,
    waits (.pilotOnline 0 0 0) (pilot []), ends (.berthWaySet 1 8) owned fun t => (t.quay 1).bw == 8, ends (.berthWaySet 1 8) fused fun t => (t.quay 1).bw == 0, waits (.berthWaySet 1 9) owned,
    waits (.berthWaySet 1 0) area, blockedChange (.berthWaySet 1 0) (owned .run)].all id = true) := by decide +kernel

/-- 04 R104, 15 R338, R347, R348: virtual devices, with a function that is taken and one that is not; keys; flags. -/
theorem test_devices : (let v (f : Option Nat) : VdDesc := ⟨f, 0x30, some 0x20000, 0x100000, 4096, 9, 3⟩
    let dying := owned .unlocked fun s => { s.modVd 1 fun d => { d with dying := true } with keySlots := [(2, 7), (3, 8)] }
    let cached := owned .unlocked fun s => s.modCell 0 fun c => { c with flags := 0x3F }
    (owned).vfVd 3 = some 1 ∧ (owned).vfVd 15 = none ∧ ((dying.vdEnd 1).vds.map fun x => x.1) = [0] ∧ (dying.vdEnd 1).keySlots = [(3, 8)] ∧
    [ends (.vdCreate 7 (v (some 15))) owned fun t => (t.vd 7).quota == 9 && (t.vd 7).keys == 0x30 && (t.vd 7).vf == some 15 && (t.vd 7).sl[4] == ⟨0, 1024, true, true⟩, ends (.vdCreate 7 (v none)) owned fun t => (t.vd 7).vf.isNone,
    waits (.vdCreate 7 (v (some 3))) owned, waits (.vdCreate 7 (v (some 16))) owned, waits (.vdCreate 1 (v none)) owned, waits (.vdCreate 8 (v none)) owned, waits (.vdCreate 7 { v none with saveBase := 0x400000 }) owned, waits (.vdCreate 7 (v (some 15))) (owned .unlocked fun s => { s with host := { s.host with bootFailed := true } }),
    ends (.vdDestroy 1) owned fun t => (t.vd 1).dying && t.vds.length == 2, waits (.vdDestroy 7) owned,
    ends (.keySlotLoad 63 9) owned fun t => t.keyVal 63 == 9 && t.keyVal 62 == 0, waits (.keySlotLoad 64 9) owned,
    ends (.stickyFlagClear 0 0x21) cached fun t => (t.cell 0).flags == 0x1E].all id = true) := by decide +kernel

/-- 15 R339 to R341; 16 R371, R372; 17 R391: staging and the module's reset; the refill of a bucket below its depth and at it; a row that a bucket covers. -/
theorem test_reset_and_arbiters : (let img : FwImage := ⟨3, 5, true⟩
    let s := hosting fun h => { h with staged := [(2, img)], failing := [5, 0x30005], fused := [9], replace := true }
    let sl : State := (mapped State.reset).modVd 0 fun d => { d with sl := .replicate 5 ⟨6, 2, false, false⟩ }
    let lv (n : Int) (l : List ArbReq) : State := sl.setArb 4 0 { Arb.reset with lv := [(0, n)], queue := l }
    let q : ArbReq := ⟨0, 0, 1, 9, 0, 0⟩
    let sends (n : Int) (on : Bool := true) : State := { lv n [q] with ports := [(0, { SwPort.reset with trained := on, tx := [(9, { swTx with waiting := [row 0 9 6 0 []] })] })] }
    [hostOf (.firmwareImageStaging 8 img) hosting fun h => h.staged == [(8, img)] && h.running == [],
    ends .moduleReset s fun t => t.mem == [] && t.parts == [] && t.host.fused == [9, 5] && t.host.failing == [5] && t.host.running == [(2, img)] && !t.host.replace && !t.host.link,
    ends (.arbitration 4 0) (lv 2041 []) fun t => t.level 4 (t.arb 4 0) 0 == 2047, ends (.arbitration 4 0) (lv 2044 []) fun t => t.level 4 (t.arb 4 0) 0 == 2048,
    ends (.arbitration 4 0) (lv 2048 []) fun t => t.level 4 (t.arb 4 0) 0 == 2048,
    ends (.arbitration 4 0) (sends 1) fun t => (t.arb 4 0).queue == [] && (t.port 0).wire.map List.length == [32] && (t.tx 0 9).waiting == [] && (t.tx 0 9).kept.length == 3 &&
      t.level 4 (t.arb 4 0) 0 == 7 - 1024, ends (.arbitration 4 0) (sends 1 false) fun t => (t.arb 4 0).queue == [q] && (t.tx 0 9).waiting.length == 1].all id = true) := by decide +kernel

/-- Bytes from a numeral as it is printed, and the bytes 0, 1, 2, …. -/
def printed (n k : Nat) : List Byte := (toBytes (BitVec.ofNat (8 * k) n) k).reverse
def counting (k : Nat) : List Byte := (List.range k).map fun i => BitVec.ofNat 8 i

/-- 15 R347: the block of FIPS 197, appendix C.3, both ways, and the first block of IEEE 1619's vector 10 (XTS-AES-256, data unit 0xFF). -/
theorem test_aes_enc : (aesEnc (counting 32) (printed 0x00112233445566778899aabbccddeeff 16) == printed 0x8ea2b7ca516745bfeafc49904b496089 16) = true := by decide +kernel
theorem test_aes_dec : (aesDec (counting 32) (printed 0x8ea2b7ca516745bfeafc49904b496089 16) == printed 0x00112233445566778899aabbccddeeff 16) = true := by decide +kernel
theorem test_xts : (xtsEnc (printed 0x2718281828459045235360287471352662497757247093699959574966967627 32 ++ printed 0x3141592653589793238462643383279502884197169399375105820974944592 32)
    0xFF (counting 16) == printed 0x1c3b3a102f770386e4836c99e370cf9b 16) = true := by decide +kernel

/-! The machine as a whole. -/

/-- 03 R61 to R85: the words of `DecodeWords`, of which 0xEA105000, 0xED310E19 and 0xFB00C824 stand in 09's own examples, and words that are none. -/
theorem test_decode_words : [
    (0x1244831B, .add .i32 ⟨.inp 0, .k 2, .w 1, .nul, true, false, .next⟩), (0x0242583C, .sel ⟨.inp 0, .inp 1, .out 0, 3, true, true, .ofA⟩), (0xA000D200, .berth ⟨1, 3⟩),
    (0xC0441918, .qld ⟨.inp 0, .k 0, .out 0, .nul, true, false, .ofA⟩), (0xBC002310, .mxclr), (0xEA105000, .ld ⟨2, 1, .h, 0⟩), (0xED310E19, .amo ⟨6, 4, 7, false, false, true, .cas⟩),
    (0xFB00C824, .bcnReduceMax ⟨3, 4⟩), (0xF9298001, .fabRstart ⟨5, 6⟩)].all decodes = true ∧ decodeTableWord 32 0xFF000000 = none ∧ decodeTableWord 32 0x0F000000 = none := by
  decide +kernel

/-- Encoding gives the word back; an instruction of each half of the opcode space, and the two rows whose words another row has. -/
theorem test_round_trip : encode (.add .i32 ⟨.inp 0, .k 2, .w 1, .nul, true, false, .next⟩) = some 0x1244831B ∧ encode (.ld ⟨2, 1, .h, 0⟩) = some 0xEA105000 ∧
    (Instr.ld ⟨2, 1, .h, 0⟩).fieldsOk = true ∧ (decode 0x1244831B).toOption = some (.add .i32 ⟨.inp 0, .k 2, .w 1, .nul, true, false, .next⟩) ∧
    encode (.chnChcloseFree ⟨1, 2, 3⟩) = encode (.chnChclose ⟨1, 2, 3⟩) ∧ (encode (.chnChcloseFree ⟨1, 2, 3⟩)).isSome = true ∧
    encode (.bcnCastConfigure ⟨1, 2, 3⟩) = encode (.bcnCast ⟨1, 2, 3⟩) ∧ (encode (.bcnCast ⟨1, 2, 3⟩)).isSome = true ∧ encode (.spliceComplete 5) = none := by decide +kernel

/-- What a step leaves of a state with an agenda. -/
def stepped (s : State) (l : List Turn) (P : State → Bool) : Bool := match step { s with agenda := l } with
  | .next t => P t && t.agenda == l.drop 1
  | _ => false
/-- A pilot at 0x10100 that holds the word w it has fetched. -/
def fetches (w : Word) (f : Pilot → Pilot := id) : State := pilot [(1, 0x20)] fun p => f { p with wait := .fetched w }
/-- Cell 0 with NOPs in slots 3 and 7; whether they conflict, and the control word. -/
def nops (conf : Bool) (ctl : Nat) : State := live (tok []) (tok []) fun c => c.modCtx 0 fun x => { x with
  ctl := BitVec.ofNat 64 ctl, trig := vset (vset x.trig 3 1) 7 1, inst := vset (vset x.inst 3 0x2310) 7 0x2310, conf := if conf then vset (vset x.conf 3 0x80) 7 8 else x.conf }

/-- 03 R86, R87, 05 R396, 09 R224: each kind of turn: an event, a slot, a frozen one, an unassigned word, a pilot's word, an illegal one, one that faults,
a pilot that waits, one that is offline; and an agenda that is empty. -/
theorem test_steps : (let s := nops false 0
    let bad := s.modCell 0 fun c => c.modCtx 0 fun x => { x with inst := vset x.inst 3 0x0F000000 }
    let good := fetches 0xE1204008
    let far := pilot [] fun p => walked 0x60000 .x { p with pc := 0x60000 }
    let waiting := (pilot [] fun p => { p with wait := .wfe 9, woke := true, held := 0xF7000002 })
    let off := fetches 0xE1204008 fun p => { p with online := false }
    let event := fetches 0xE1204008 fun p => { p with status := 0, evqtail := 1 }
    let past (d : Fin 32) (v : Option (Nat × BitVec 128)) := fetches 0xE1204008 fun p => { p with late := [⟨⟨9, 0x40140, 1, 0, 0, .load false 8, []⟩, d, .d, v⟩] }
    (decodeCell 0x2310).toOption = some .nop ∧ (decodeCell 0x0F000000).toOption = none ∧ (decodePilot 0xE1204008).toOption = some (.addi ⟨4, 1, 8⟩) ∧
    (match (far.fetch 0).1 with | .fault => true | _ => false) = true ∧ (match ((pilot []).fetch 0).1 with | .wait => true | _ => false) = true ∧
    (event.pilot 0).evTaken = true ∧ event.canInterrupt 0 = true ∧ (good.pilot 0).evTaken = false ∧
    (decodePilot 0xFF000000).toOption = none ∧ (decodePilot 0xF7000002).toOption = some .sysWfe ∧
    [stepped s [.event (.countTrigger 0), .pilot 0] fun t => t.cells == s.cells, stepped s [.slot 0 3] fun t => t.fired, stepped (frozen s) [.slot 0 3] fun t => !t.fired,
    stepped good [.pilot 0, .event (.countTrigger 0)] fun t => (t.pilot 0).reg 4 == 0x28 && (t.pilot 0).pc == 0x10104,
    stepped (past 5 none) [.pilot 0] fun t => (t.pilot 0).reg 4 == 0x28 && (t.pilot 0).late.length == 1,
    stepped (past 1 none) [.pilot 0] fun t => (t.pilot 0).wait == .late && (t.pilot 0).pc == 0x10100,
    stepped (past 1 (some (0, 7))) [.pilot 0] fun t => (t.pilot 0).reg 4 == 15 && (t.pilot 0).late == [],
    ends (.pilotAccessComplete (0, 9)) (past 5 none) fun t => (t.pilot 0).late.map (fun x => x.val.map (fun v => v.1)) == [some 1],
    stepped (fetches 0xFF000000) [.pilot 0] fun t => (t.pilot 0).cause == 1 && (t.pilot 0).tval == 0xFF000000, stepped far [.pilot 0] fun t => (t.pilot 0).cause == 2 && (t.pilot 0).tval == 0x60000,
    stepped waiting [.pilot 0] fun t => (t.pilot 0).pc == 0x10104 && (t.pilot 0).wait == .no, stepped off [.pilot 0] fun t => t.pilots == off.pilots,
    stepped event [.pilot 0] fun t => (t.pilot 0).cause == 0x101 && (t.pilot 0).epc == 0x10100, stepped (pilot []) [.pilot 0] fun t => (t.pilot 0).wait == .fetching,
    stepped (fetches 0 fun p => { p with wait := .fetching }) [.pilot 0] fun t => (t.pilot 0).wait == .fetching, stepped s [.act (.fuseVersion 4)] fun t => t.host.minVer == 4,
    (match step s with | .next t => t == s.nextPhase && t.agenda.length == 3 | _ => false)].all id = true ∧
    (match step { bad with agenda := [.slot 0 3] } with | .fault (.undecodableSlot w) => w == 0x0F000000 | _ => false) = true) := by decide +kernel

/-- 15 R341, 16 R356: a command takes no turn while the quay's unit walks for the page of its operand, nor while its read crosses the arbiters; then it
does, and has paid. Another pilot instruction takes its turn at once. -/
theorem test_walk_ahead : (let word (i : Instr) : Nat := ((encode i).getD 0).toNat
    let at_ (i : Instr) : State := { State.reset.withFetchWord 32 (word i) with agenda := [] }
    let w := at_ (.fabRload ⟨1, 0, 0⟩)
    let next (s : State) (P : State → Bool) : Bool := match step s with | .next t => P t && t.phase == 1 | _ => false
    let there (s : State) : State := { (s.translate 0 0 false 0 .w).2 with passes := [], pend := [] }
    (w.translate 0 0 false 0 .w).1.toOption.isSome = true ∧
    next w (fun t => t.agenda == [.event (.dredgerRound 0)] && (t.quay 0).walks.map (fun x => (x.who, x.va, x.level)) == [(.turn 0 0, 0, 2)]) = true ∧
    next (there w) (fun t => t.agenda == [.event (.dredgerRound 0)] && (t.quay 0).walks == [] && t.cleared == [(0, 0)] && !t.passes.isEmpty &&
      t.passes.all fun p => p.cls == clsAhead) = true ∧
    next { there w with cleared := [(0, 0)] } (fun t => t.agenda == [.pilot 0, .event (.dredgerRound 0)] && t.cleared == [] && !t.paid.isEmpty &&
      unpaid t.paid (t.paid.map fun x => ⟨0, x.1, 0, 0, 0, 0, x.2, false, 6, 0, none, none⟩) == []) = true ∧
    next (at_ (.addi ⟨1, 0, 0⟩)) (fun t => t.agenda == [.pilot 0, .event (.dredgerRound 0)] && (t.quay 0).walks == []) = true) := by decide +kernel

/-- 09 R224: a fetch of a line that the L1 holds, if it still holds it: one line, whose word at 0x10100 is 7. -/
theorem test_fetch_hit (h : Config.l1Keeps 0 = true) : ∃ s2, (pilot [] fun p => { p with l1i := [(0x802, 7)] }).fetch 0 = (.word 7, s2) := by
  have c : (let s := pilot [] fun p => { p with l1i := [(0x802, 7)] }
      gotIs (s.ptrans 0 (s.pilot 0).pc .x).1 frame1 = true ∧ ((s.ptrans 0 (s.pilot 0).pc .x).2.pilot 0).l1i = [(0x802, 7)] ∧ (s.ptrans 0 (s.pilot 0).pc .x).2.fresh = 0 ∧
      frame1.pa (s.pilot 0).pc = 0x40100 ∧ (inLine 7 0x40100).setWidth 32 = (7 : Word)) := by decide +kernel
  generalize (pilot [] fun p => { p with l1i := [(0x802, 7)] }) = s at c ⊢
  obtain ⟨a, l, n, q, v⟩ := c
  unfold State.fetch
  simp only
  generalize s.ptrans 0 (s.pilot 0).pc .x = x at a l n
  obtain ⟨g, s1⟩ := x
  cases g <;> simp only [gotIs, Bool.false_eq_true, beq_iff_eq] at a
  subst a
  simp only at l n
  exact ⟨{ s1 with fresh := 1 }, by simp only [q, l, State.l1Get, tblGet?, n, h]; exact congrArg (fun w => (Fetched.word w, ({ s1 with fresh := 1 } : State))) v⟩

/-- The first step from reset runs a word that is placed: a cell's, a quay's and a pilot's (log 1). -/
theorem test_with_fetch_word : (let go (w : Nat) (P : State → Bool) : Bool := match step (State.reset.withFetchWord 32 w) with | .next t => P t | _ => false
    go 0x2310 (fun t => t.fired && t.curCell == 0) = true ∧ go 0xE1204008 (fun t => (t.pilot 0).reg 4 == 8 && (t.pilot 0).pc == 4) = true ∧
    go 0xD0002310 (fun t => t.curCell == 126) = true) := by decide +kernel

/-- 05 R116, R117, R396: two slots, two in conflict, one with fair order from slot 5, none, and a cell whose region waits to run. -/
theorem test_chosen : (let s := nops false 0
    let c := nops true 0
    let f := (nops true 1).modCell 0 fun k => k.modCtx 0 fun x => { x with fptr := 5 }
    let none_ := live (tok []) (tok [])
    let el (s : State) : List Nat := ((s.cell 0).guarded.filter (s.eligible 0)).map fun x => x.1.val
    el s = [3, 7] ∧ el f = [7, 3] ∧ el none_ = [] ∧ s.mayFire 0 = true ∧ (s.modRegion 3 fun g => { g with runs := 9 }).mayFire 0 = false ∧ none_.chosen 0 = [] ∧
    (s.chosen 0).map (fun x => x.1.val) = [3, 7] ∧ (c.chosen 0).map (fun x => x.1.val) = [3] ∧ (f.chosen 0).map (fun x => x.1.val) = [7] ∧
    ((f.chosen 0).all fun x => f.firesNow 0 x) = true ∧ (s.choose 0).2 = [.slot 0 3, .slot 0 7] ∧ (c.choose 0).2 = [.slot 0 3] ∧ ((f.choose 0).1.cell 0).ctx.fptr = 8 ∧
    (f.cell 0).order.map (fun x => x.val) = [5, 6, 7, 8, 9, 10, 11, 12, 13, 14, 15, 0, 1, 2, 3, 4]) := by decide +kernel

/-- 01 R22, R29, 09 R221: what reset leaves. -/
theorem test_reset : State.reset.mem = [] ∧ (State.reset.pilot 47).status = 1 ∧ (State.reset.pilot 47).online = false ∧ (State.reset.cell 126).stop = ⟨false, 0, 0⟩ ∧
    State.reset.host.link = false ∧ State.reset.partOf 0 = none := by decide +kernel

/-- The canonical form: a state that has it, and a step of it that stores; a byte written under one key is read under it, and what an unlisted byte
reads as is listed no more once it is written. -/
theorem test_memory : (let s := pilot [] fun p => { p with stores := [⟨5, 0x40048, 1, 0, 0, [7, 8]⟩] }
    let t := s.store 1 0x4004F [5, 6]
    memWf s.mem = true ∧ stepped s [.event (.pilotAccessComplete (0, 5))] (fun u => memWf u.mem && u.mem != s.mem) = true ∧
    t.byteAt 1 0x4004F = 5 ∧ t.byteAt 1 0x40050 = 6 ∧ t.byteAt 1 0x4004E = s.byteAt 1 0x4004E ∧ t.byteAt 1 0x40051 = s.byteAt 1 0x40051 ∧ memWf t.mem = true ∧
    memWrite (memWrite [] 9 7) 9 memDefault = []) := by decide +kernel

/-- 09 R222, R225: ADDI in user mode keeps the mode; a write of a CSR in user mode is a trap. -/
theorem test_user_mode : (let u := pilot [(2, 5)] user
    u.me.sup = false ∧ (decodePilot 0xE120_4008).toOption = some (.addi ⟨4, 1, 8⟩) ∧ endsP (.addi ⟨4, 1, 8⟩) u (fun p => p.status == 0x200 && p.reg 4 == 8) = true ∧
    endsP (.csrWr ⟨2, 0x104⟩) u (fun p => p.tvec == 0x20000 && p.status == trapStatus 0x200 && p.pc == 0x20000) = true) := by decide +kernel

end Sys2Proof.Tests
end

section
/-! PROOFS. The untyped cell instructions (05 R123 to R127). -/

namespace Sys2Proof.Machine

/-! Payloads given element by element. -/

/-- Element i of the payload whose elements are the values of a function. -/
theorem elt_ofElts_range {n : Nat} (f : Nat → BitVec n) (i : Nat) (hi : i < 256 / n) :
    elt n (ofElts ((List.range (256 / n)).map f)) i = f i := by
  rw [elt_ofElts (pos_of_elt hi) _ i (elt_fits hi)]
  simp [hi]

theorem elt_ofLanes_range (f : Nat → Word) (l : Nat) (hl : l < 8) : elt 32 (ofLanes ((List.range 8).map f)) l = f l :=
  elt_ofElts_range f l hl

theorem elt_splat (k : Word) (l : Nat) (hl : l < 8) : elt 32 (splat k) l = k := by
  have : List.replicate 8 k = (List.range 8).map fun _ => k := rfl
  rw [splat, this, elt_ofLanes_range _ l hl]

/-- Flags of elements joined pair by pair. -/
theorem any_or_any (l : List Nat) (p q : Nat → Bool) : (l.any p || l.any q) = l.any fun k => p k || q k := by
  induction l with
  | nil => rfl
  | cons x xs ih => rw [List.any_cons, List.any_cons, List.any_cons, ← ih]; ac_rfl

/-! Bit fields (05 R126) and counts of bits (05 R123). -/

theorem ones_bit (len j : Nat) (hj : j < 32) : (ones len).getLsbD j = decide (j < len) := by
  rw [ones, BitVec.getLsbD_ofNat, Nat.testBit_two_pow_sub_one]
  simp [hj]

theorem bfxLane_bit (pos len : Nat) (x : Word) (j : Nat) (hj : j < 32) :
    (bfxLane pos len x).getLsbD j = (decide (j < len) && x.getLsbD (pos + j)) := by
  rw [bfxLane, BitVec.getLsbD_and, BitVec.getLsbD_ushiftRight, ones_bit len j hj, Bool.and_comm]

theorem bfiLane_bit (pos len : Nat) (w x : Word) (j : Nat) (hj : j < 32) :
    (bfiLane pos len w x).getLsbD j = if pos ≤ j ∧ j < pos + len then x.getLsbD (j - pos) else w.getLsbD j := by
  have mask : (ones len <<< pos).getLsbD j = decide (pos ≤ j ∧ j < pos + len) := by
    rw [BitVec.getLsbD_shiftLeft, ones_bit len (j - pos) (by omega), Bool.eq_iff_iff]
    simp only [hj, decide_true, Bool.true_and, Bool.and_eq_true, Bool.not_eq_true', decide_eq_false_iff_not, decide_eq_true_eq]
    omega
  simp only [bfiLane, BitVec.getLsbD_or, BitVec.getLsbD_and, BitVec.getLsbD_not, mask, BitVec.getLsbD_shiftLeft, hj]
  by_cases h : pos ≤ j ∧ j < pos + len
  · simp [h, Nat.not_lt.mpr h.1]
  · simp [h]

theorem popcount_le {w : Nat} (v : BitVec w) : popcount v ≤ w := by
  simpa [popcount] using List.countP_le_length (p := fun i => v.getLsbD i) (l := List.range w)

theorem clzN_le {w : Nat} (v : BitVec w) (n : Nat) : clzN v n ≤ n := by
  induction n with
  | zero => exact Nat.le_refl 0
  | succ n ih => rw [clzN]; split <;> omega

/-- The bits that are counted are zero. -/
theorem bit_of_clzN_counted {w : Nat} (v : BitVec w) (n : Nat) : ∀ j < n, n - clzN v n ≤ j → v.getLsbD j = false := by
  induction n with
  | zero => intro j hj; omega
  | succ n ih =>
    intro j hj hle
    rw [clzN] at hle
    split at hle
    case isTrue => omega
    case isFalse top =>
      rcases Nat.eq_or_lt_of_le (Nat.le_of_lt_succ hj) with rfl | hlt
      · simpa using top
      · exact ih j hlt (by omega)

/-- The count ends at a bit that is set. -/
theorem bit_below_clzN {w : Nat} (v : BitVec w) (n : Nat) : clzN v n < n → v.getLsbD (n - 1 - clzN v n) = true := by
  induction n with
  | zero => intro h; exact absurd h (Nat.not_lt_zero _)
  | succ n ih =>
    rw [clzN]
    split
    case isTrue top => intro _; exact top
    case isFalse =>
      intro h
      have := ih (by omega)
      rwa [show n + 1 - 1 - (1 + clzN v n) = n - 1 - clzN v n by omega]

/-! PACK and UNPK (05 R127): the elements of the narrow width m and of the wide width n, which is twice m. -/

/-- Twice as many narrow elements as wide ones. -/
theorem narrow_fits {m n k : Nat} (hn : n = 2 * m) (hk : k < 2 * (256 / n)) : m * (k + 1) ≤ 256 :=
  calc m * (k + 1) ≤ m * (2 * (256 / n)) := Nat.mul_le_mul_left m hk
    _ = n * (256 / n) := by rw [hn, Nat.mul_left_comm, Nat.mul_assoc]
    _ ≤ 256 := Nat.mul_div_le 256 n

theorem elt_pack_low {m n : Nat} (hn : n = 2 * m) (mode : Nat) (a b : Wide) (k : Nat) (hk : k < 256 / n) :
    elt m (pack n m mode a b).1 k = (narrow n m mode (elt n a k)).1 := by
  have hm : 0 < m := by have := pos_of_elt hk; omega
  rw [pack, gather, elt_ofElts hm _ k (narrow_fits hn (by omega))]
  simp [elts, hk, List.getElem?_append]

theorem elt_pack_high {m n : Nat} (hn : n = 2 * m) (mode : Nat) (a b : Wide) (k : Nat) (hk : k < 256 / n) :
    elt m (pack n m mode a b).1 (256 / n + k) = (narrow n m mode (elt n b k)).1 := by
  have hm : 0 < m := by have := pos_of_elt hk; omega
  rw [pack, gather, elt_ofElts hm _ _ (narrow_fits hn (by omega))]
  simp [elts, hk]

theorem pack_flags (n m mode : Nat) (a b : Wide) (f : Nat) :
    (pack n m mode a b).2.getLsbD f = (List.range (256 / n)).any fun k =>
      (narrow n m mode (elt n a k)).2.getLsbD f || (narrow n m mode (elt n b k)).2.getLsbD f := by
  rw [pack, gather, flOr_bit, ← any_or_any]
  simp [elts, List.any_append, Function.comp_def]

theorem elt_unpk {m n : Nat} (hn : n = 2 * m) (sgn half : Bool) (a : Wide) (k : Nat) (hk : k < 256 / n) :
    elt n (unpk m n sgn half a) k =
      let x := elt m a ((if half then 256 / n else 0) + k)
      if sgn then x.signExtend n else x.setWidth n := by
  have narrowCount : 2 * (256 / n) ≤ 256 / m := by
    have hm : 0 < m := by have := pos_of_elt hk; omega
    rw [Nat.le_div_iff_mul_le hm, Nat.mul_comm]
    have := narrow_fits (k := 2 * (256 / n) - 1) hn (by omega)
    rwa [show 2 * (256 / n) - 1 + 1 = 2 * (256 / n) by omega] at this
  have inRange : (if half then 256 / n else 0) + k < 256 / m := by split <;> omega
  rw [unpk, elt_ofElts (pos_of_elt hk) _ k (elt_fits hk)]
  simp [elts, hk, inRange, List.getElem?_drop]

/-- The widths that field y of PACK and UNPK names. -/
theorem packWidth_cases {y n : Nat} (h : (y, n) ∈ [(1, 16), (2, 32), (3, 64)]) :
    y = 1 ∧ n = 16 ∨ y = 2 ∧ n = 32 ∨ y = 3 ∧ n = 64 := by
  simpa using h

theorem execPack_eq (o : OpBF) (n : Nat) (h : (o.y.val % 4, n) ∈ [(1, 16), (2, 32), (3, 64)]) (s : State) :
    execPack o s = s.fireOp (ofBF o) fun _ a b => pack n (n / 2) (o.y.val / 4 % 4) a b := by
  obtain ⟨hy, rfl⟩ | ⟨hy, rfl⟩ | ⟨hy, rfl⟩ := packWidth_cases h <;> simp [execPack, hy]

theorem execUnpk_eq (o : OpUF) (n : Nat) (h : (o.y.val % 4, n) ∈ [(1, 16), (2, 32), (3, 64)]) (s : State) :
    execUnpk o s =
      s.firePure (ofUF o) fun _ a _ => unpk (n / 2) n (o.y.val / 4 % 2 == 1) (o.y.val / 8 % 2 == 1) a := by
  obtain ⟨hy, rfl⟩ | ⟨hy, rfl⟩ | ⟨hy, rfl⟩ := packWidth_cases h <;> simp [execUnpk, hy]

/-- The wide width is twice the narrow one. -/
theorem packWidth_even {y n : Nat} (h : (y, n) ∈ [(1, 16), (2, 32), (3, 64)]) : n = 2 * (n / 2) := by
  obtain ⟨-, rfl⟩ | ⟨-, rfl⟩ | ⟨-, rfl⟩ := packWidth_cases h <;> rfl

/-! The untyped instructions, one firing each. -/

theorem firesWith_sel_one (o : OpBF) (h : o.y.val < 8) : FiresWith (.sel o) (ofBF o) fun c a b v fl =>
    fl = 0 ∧ v = if c.p.getLsbD o.y.val then a else b :=
  firesWith_pure _ _ _ _ (exec_sel o) fun c a b => ⟨rfl, by simp [selPick, h, bit]⟩

theorem firesWith_sel_each (o : OpBF) (h : 8 ≤ o.y.val) : FiresWith (.sel o) (ofBF o) fun c a b v fl =>
    fl = 0 ∧ Each 32 v fun l => if c.p.getLsbD l then elt 32 a l else elt 32 b l := by
  refine firesWith_pure _ _ _ _ (exec_sel o) fun c a b => ⟨rfl, fun l hl => ?_⟩
  rw [selPick, if_neg (Nat.not_lt.mpr h), elt_ofLanes_range _ l hl]
  rfl

theorem firesWith_lane (o : OpUF) : FiresWith (.lane o) (ofUF o) fun _ a _ v fl =>
    fl = 0 ∧ Each 32 v fun _ => lane a o.y.val :=
  firesWith_pure _ _ _ _ (exec_lane o) fun _ a _ => ⟨rfl, elt_splat (lane a o.y.val)⟩

theorem firesWith_perm (o : OpB) : FiresWith (.perm o) (ofB o) fun _ a b v fl =>
    fl = 0 ∧ Each 8 v fun j => if (elt 8 b j).getLsbD 7 then 0 else elt 8 a ((elt 8 b j).toNat % 32) := by
  refine firesWith_pure _ _ _ _ (exec_perm o) fun _ a b => ⟨rfl, fun j hj => ?_⟩
  rw [permBytes, elt_map1 8 _ b j hj]
  simp [bit, bf]

theorem firesWith_bfx (o : OpUIF) : FiresWith (.bfx o) (ofUIF o) fun _ a _ v fl => fl = 0 ∧ ∀ l < 8, ∀ j < 32,
    (elt 32 v l).getLsbD j = (decide (j ≤ o.y.val) && (elt 32 a l).getLsbD (o.b.val + j)) := by
  refine firesWith_pure _ _ _ _ (exec_bfx o) fun _ a _ => ⟨rfl, fun l hl j hj => ?_⟩
  rw [elt_map1 32 _ a l hl, bfxLane_bit _ _ _ j hj]
  simp only [Nat.lt_succ_iff]

theorem firesWith_bfi (o : OpUIW) : FiresWith (.bfi o) (ofUIW o) fun c a _ v fl => fl = 0 ∧ ∀ l < 8, ∀ j < 32,
    (elt 32 v l).getLsbD j =
      if o.b.val ≤ j ∧ j ≤ o.b.val + o.y.val then (elt 32 a l).getLsbD (j - o.b.val) else (elt 32 c.w[o.x] l).getLsbD j := by
  refine firesWith_pure _ _ _ _ (exec_bfi o) fun c a _ => ⟨rfl, fun l hl j hj => ?_⟩
  rw [elt_map2 32 _ c.w[o.x] a l hl, bfiLane_bit _ _ _ _ j hj]
  simp only [← Nat.add_assoc, Nat.lt_succ_iff]

theorem firesWith_popc (o : OpU) : FiresWith (.popc o) (ofU o) fun _ a _ v fl => fl = 0 ∧ ∀ l < 8,
    (elt 32 v l).toNat = (List.range 32).countP fun j => (elt 32 a l).getLsbD j := by
  refine firesWith_pure _ _ _ _ (exec_popc o) fun _ a _ => ⟨rfl, fun l hl => ?_⟩
  have := popcount_le (elt 32 a l)
  rw [elt_map1 32 _ a l hl, BitVec.toNat_ofNat, Nat.mod_eq_of_lt (by omega)]
  rfl

theorem firesWith_clz (o : OpU) : FiresWith (.clz o) (ofU o) fun _ a _ v fl => fl = 0 ∧ ∀ l < 8, (elt 32 v l).toNat ≤ 32 ∧
    (∀ j < 32, 32 - (elt 32 v l).toNat ≤ j → (elt 32 a l).getLsbD j = false) ∧
    ((elt 32 v l).toNat < 32 → (elt 32 a l).getLsbD (31 - (elt 32 v l).toNat) = true) := by
  refine firesWith_pure _ _ _ _ (exec_clz o) fun _ a _ => ⟨rfl, fun l hl => ?_⟩
  have le := clzN_le (elt 32 a l) 32
  rw [elt_map1 32 _ a l hl, BitVec.toNat_ofNat, Nat.mod_eq_of_lt (by omega)]
  exact ⟨le, bit_of_clzN_counted _ 32, bit_below_clzN _ 32⟩

theorem firesWith_pack (o : OpBF) (n : Nat) (h : (o.y.val % 4, n) ∈ [(1, 16), (2, 32), (3, 64)]) (hy : o.y.val < 12) :
    FiresWith (.pack o) (ofBF o) fun _ a b v fl =>
      (∀ k < 256 / n, elt (n / 2) v k = (narrow n (n / 2) (o.y.val / 4) (elt n a k)).1 ∧
        elt (n / 2) v (256 / n + k) = (narrow n (n / 2) (o.y.val / 4) (elt n b k)).1) ∧
      ∀ f, fl.getLsbD f = (List.range (256 / n)).any fun k =>
        (narrow n (n / 2) (o.y.val / 4) (elt n a k)).2.getLsbD f || (narrow n (n / 2) (o.y.val / 4) (elt n b k)).2.getLsbD f := by
  have even := packWidth_even h
  refine firesWith_op _ _ _ _ (execPack_eq o n h) fun _ a b => ?_
  rw [Nat.mod_eq_of_lt (show o.y.val / 4 < 4 by omega)]
  exact ⟨fun k hk => ⟨elt_pack_low even _ a b k hk, elt_pack_high even _ a b k hk⟩, pack_flags n _ _ a b⟩

theorem firesWith_unpk (o : OpUF) (n : Nat) (h : (o.y.val % 4, n) ∈ [(1, 16), (2, 32), (3, 64)]) (hy : o.y.val < 16) :
    FiresWith (.unpk o) (ofUF o) fun _ a _ v fl => fl = 0 ∧ Each n v fun k =>
      let x := elt (n / 2) a (o.y.val / 8 * (256 / n) + k)
      if o.y.val / 4 % 2 = 1 then x.signExtend n else x.setWidth n := by
  refine firesWith_pure _ _ _ _ (execUnpk_eq o n h) fun _ a _ => ⟨rfl, fun k hk => ?_⟩
  have start : (if o.y.val / 8 % 2 == 1 then 256 / n else 0) = o.y.val / 8 * (256 / n) := by
    obtain h0 | h1 : o.y.val / 8 = 0 ∨ o.y.val / 8 = 1 := by omega
    · simp [h0]
    · simp [h1]
  rw [elt_unpk (packWidth_even h) _ _ a k hk, start]
  simp only [beq_iff_eq]

/-- Settles O1: each instruction is one firing whose result is known element by element, or bit by bit. -/
theorem untypedInstructionResults : Obligations.UntypedInstructionResults := by
  unfold Obligations.UntypedInstructionResults
  refine ⟨⟨?nop, ?mov, firesWith_sel_one, firesWith_sel_each, firesWith_lane, firesWith_perm, ?and, ?or, ?xor, ?andn,
    firesWith_bfx, firesWith_bfi, firesWith_popc, firesWith_clz⟩, firesWith_pack, firesWith_unpk⟩
  case nop => exact firesWith_pure _ _ _ _ exec_nop fun _ _ _ => rfl
  case mov => exact fun o => firesWith_pure _ _ _ _ (exec_mov o) fun _ _ _ => ⟨rfl, rfl⟩
  case and => exact fun o => firesWith_pure _ _ _ _ (exec_and o) fun _ _ _ => ⟨rfl, rfl⟩
  case or => exact fun o => firesWith_pure _ _ _ _ (exec_or o) fun _ _ _ => ⟨rfl, rfl⟩
  case xor => exact fun o => firesWith_pure _ _ _ _ (exec_xor o) fun _ _ _ => ⟨rfl, rfl⟩
  case andn => exact fun o => firesWith_pure _ _ _ _ (exec_andn o) fun _ _ _ => ⟨rfl, rfl⟩

end Sys2Proof.Machine
end

section
/-! PROOFS. The lane reductions and the predicates (05 R137 to R140). -/

namespace Sys2Proof.Machine

/-! The greatest of a list, as IMAXR finds it. -/

/-- IMAXR's step is the maximum. -/
theorem greater_eq_max : (fun m v : Int => if m < v then v else m) = max := by
  funext m v
  rw [Int.max_def]
  split <;> split <;> omega

/-- IMAXR's fold over a list that is not empty gives its greatest entry. -/
theorem foldl_greatest (xs : List Int) (h : xs ≠ []) :
    xs.max? = some (xs.foldl (fun m v => if m < v then v else m) (xs.headD 0)) := by
  obtain ⟨x, xs, rfl⟩ := List.exists_cons_of_ne_nil h
  rw [greater_eq_max, List.max?_cons', List.headD_cons, List.foldl_cons, Int.max_self]

theorem intBits_count_pos (k : Nat) : 0 < 256 / intBits k := by
  have : k % 4 < 4 := Nat.mod_lt k (by omega)
  obtain h | h | h | h : k % 4 = 0 ∨ k % 4 = 1 ∨ k % 4 = 2 ∨ k % 4 = 3 := by omega
  all_goals simp [intBits, h]

/-- IMAXR gives an element that no other exceeds. -/
theorem imaxr_greatest (y : Nat) (a : Wide) : ∃ k, k < 256 / intBits y ∧
    imaxr y a = BitVec.ofNat 256 (intCode (intBits y) (intVal y (eltN (intBits y) a k))) ∧
    ∀ j, j < 256 / intBits y → intVal y (eltN (intBits y) a j) ≤ intVal y (eltN (intBits y) a k) := by
  have nonempty : (eltsN (intBits y) a).map (intVal y) ≠ [] := by
    rw [eltsN, List.map_map, Ne, List.map_eq_nil_iff, List.range_eq_nil]
    exact Nat.ne_of_gt (intBits_count_pos y)
  obtain ⟨isElement, isGreatest⟩ := List.max?_eq_some_iff.mp (foldl_greatest _ nonempty)
  simp only [eltsN, List.map_map, List.mem_map, List.mem_range, Function.comp_apply, forall_exists_index, and_imp,
    forall_apply_eq_imp_iff₂] at isElement isGreatest
  obtain ⟨k, hk, hmax⟩ := isElement
  refine ⟨k, hk, ?_, fun j hj => ?_⟩
  · rw [hmax, imaxr, eltsN, List.map_map]
  · rw [hmax]; exact isGreatest j hj

/-! Predicates one bit at a time. -/

theorem setBit_bit {w : Nat} (v : BitVec w) (i k : Nat) (b : Bool) (hk : k < w) :
    (setBit v i b).getLsbD k = if k = i then b else v.getLsbD k := by
  have one : (1#w <<< i).getLsbD k = decide (k = i) := by
    rw [BitVec.getLsbD_shiftLeft, BitVec.getLsbD_one, Bool.eq_iff_iff]
    simp only [hk, decide_true, Bool.true_and, Bool.and_eq_true, Bool.not_eq_true', decide_eq_false_iff_not, decide_eq_true_eq]
    omega
  cases b with
  | true =>
    simp only [setBit, if_true, BitVec.getLsbD_or, one]
    by_cases h : k = i <;> simp [h]
  | false =>
    simp only [setBit, Bool.false_eq_true, if_false, BitVec.getLsbD_and, BitVec.getLsbD_not, one, hk]
    by_cases h : k = i <;> simp [h]

theorem setBits_bit {w : Nat} (g : Nat → Bool) (k : Nat) (hk : k < w) (l : List Nat) : ∀ v : BitVec w,
    (l.foldl (fun q i => setBit q i (g i)) v).getLsbD k = if k ∈ l then g k else v.getLsbD k := by
  induction l with
  | nil => intro v; simp
  | cons i l ih =>
    intro v
    rw [List.foldl_cons, ih, setBit_bit _ _ _ _ hk]
    by_cases h : k = i <;> simp [h]

theorem psetPreds_one (y : Nat) (p : Byte) (a : Wide) (k : Nat) (hy : y < 16) (hk : k < 8) :
    (psetPreds y p a).getLsbD k =
      if k = y % 8 then (if y < 8 then lane a 0 != 0 else lane a 0 == 0) else p.getLsbD k := by
  obtain h | h : y / 8 = 0 ∨ y / 8 = 1 := by omega
  · simp only [psetPreds, h, setBit_bit _ _ _ _ hk, if_pos (show y < 8 by omega)]
  · simp only [psetPreds, h, setBit_bit _ _ _ _ hk, if_neg (show ¬y < 8 by omega)]

theorem psetPreds_all (y : Nat) (p : Byte) (a : Wide) (k : Nat) (hy : 16 ≤ y) (hk : k < 8) :
    (psetPreds y p a).getLsbD k = (lane a k != 0) := by
  obtain ⟨j, hj⟩ : ∃ j, y / 8 = j + 2 := ⟨y / 8 - 2, by omega⟩
  simp only [psetPreds, hj, setBits_bit (fun l => lane a l != 0) k hk, List.mem_range, hk, if_true]

/-! The predicates that the end of a firing leaves. -/

theorem p_writeDst_of_ne_pr (s : State) (c : Nat) (d : Dst) (t : Token) (h : d ≠ .pr) :
    ((s.writeDst c d t).cell c).p = (s.cell c).p := by
  rw [cell_writeDst]
  cases d with
  | pr => exact absurd rfl h
  | _ => rfl

/-- The end of a firing with no destination pr keeps the predicates. -/
theorem p_finish_of_ne_pr (s : State) (f : Fire) (ps : List (Fin 4)) (v : Wide) (tag : Tag) (fl : BitVec 6)
    (hx : f.x ≠ .pr) (hy : f.y ≠ .pr) : ((s.finish f ps v tag fl).cell s.curCell).p = (s.cell s.curCell).p := by
  obtain ⟨u, pops, -, -, -, -, fin⟩ := finish_parts s f ps v tag fl
  obtain ⟨st, dl, trap⟩ := cell_arithTrap u s.curCell (s.cell s.curCell).flags fl
  have kept := congrArg Cell.p pops.1
  simp only [p_writeDst_of_ne_pr _ _ _ _ hy, p_writeDst_of_ne_pr _ _ _ _ hx, State.cell_mod_same, Cell.flagged] at kept
  rw [fin, State.cell_fired, trap]
  exact kept

/-- An instruction that fires after it has set the predicates, with no destination pr, leaves them as it set them. -/
theorem answers_fireTag_preds (i : Instr) (s : State) (f : Fire) (p : Cell → Byte) (hx : f.x ≠ .pr) (hy : f.y ≠ .pr)
    (hi : exec i s = s.fireTag f true 0 .zero fun c => { c with p := p c }) (ready : (s.cell s.curCell).ready f = true) :
    Answers i s fun t => (t.cell s.curCell).p = p (s.cell s.curCell) := by
  refine ⟨_, hi.trans (fireTag_next s f true 0 .zero _ (by simp [ready])), ?_⟩
  have := p_finish_of_ne_pr (s.modCell s.curCell fun c => { c with p := p c }) f f.popped 0 .zero 0 hx hy
  rwa [State.modCell_curCell, State.cell_mod_same] at this

theorem answers_imp {i : Instr} {s : State} {P Q : State → Prop} (h : Answers i s P) (hPQ : ∀ t, P t → Q t) :
    Answers i s Q :=
  let ⟨t, hi, hp⟩ := h
  ⟨t, hi, hPQ t hp⟩

theorem answers_pset (o : OpKF) (s : State) (ready : (s.cell s.curCell).ready (ofKF o) = true) :
    Answers (.pset o) s fun t =>
      (t.cell s.curCell).p = psetPreds o.y.val (s.cell s.curCell).p ((s.cell s.curCell).src o.a).pay :=
  answers_fireTag_preds _ s (ofKF o) (fun c => psetPreds o.y.val c.p (c.src o.a).pay) nofun nofun (exec_pset o s) ready

/-- PLOG has neither sources nor destinations, so it never waits. -/
theorem answers_plog (o : OpPF) (s : State) : Answers (.plog o) s fun t =>
    (t.cell s.curCell).p = plogPreds o.a.val o.b.val o.y.val (s.cell s.curCell).p :=
  answers_fireTag_preds _ s ofZ (fun c => plogPreds o.a.val o.b.val o.y.val c.p) nofun nofun (exec_plog o s) rfl

/-- Settles O7: the reductions are one firing each; PSET and PLOG leave the predicates they set, bit by bit. -/
theorem reductionAndPredicateResults : Obligations.ReductionAndPredicateResults := by
  unfold Obligations.ReductionAndPredicateResults
  refine ⟨⟨?fsumr, ?fmaxr, ?isumr, ?imaxr, fun _ _ _ _ _ _ _ _ _ => rfl⟩, ?psetOne, ?psetAll, ?plog, ?ptst⟩
  case fsumr => exact fun o => firesWith_op _ _ _ _ (exec_fsumr o) fun _ _ _ => rfl
  case fmaxr => exact fun o => firesWith_op _ _ _ _ (exec_fmaxr o) fun _ _ _ => rfl
  case isumr =>
    refine fun o => firesWith_op _ _ _ _ (exec_isumr o) fun _ a _ => ?_
    simp only [isumr, eltsN, List.map_map]
    exact ⟨rfl, rfl⟩
  case imaxr => exact fun o => firesWith_pure _ _ _ _ (exec_imaxr o) fun _ a _ => ⟨rfl, imaxr_greatest o.y.val a⟩
  case psetOne =>
    intro o s hy ready
    refine answers_imp (answers_pset o s ready) fun t ht k hk => ?_
    rw [ht, psetPreds_one _ _ _ k hy hk]
  case psetAll =>
    intro o s hy ready
    refine answers_imp (answers_pset o s ready) fun t ht k hk => ?_
    rw [ht, psetPreds_all _ _ _ k hy hk]
  case plog =>
    intro o s
    refine answers_imp (answers_plog o s) fun t ht k hk => ?_
    rw [ht, plogPreds, setBit_bit _ _ _ _ hk]
    rfl
  case ptst =>
    refine fun o => firesWith_pure _ _ _ _ (exec_ptst o) fun c _ _ => ⟨rfl, ?_⟩
    rw [ptstVal, apply_ite inLane0]
    rfl

end Sys2Proof.Machine
end

section
/-! PROOFS. TAG, MARK, SEQ and ORD (06 R148 to R151). -/

namespace Sys2Proof.Machine

/-- The model's test of a seam decides what the statements call sealed. -/
theorem sealed_iff (s : State) (a b : Nat) : s.sealed a b = true ↔ Sealed s a b := by
  simp [State.sealed, Sealed]

/-- On the way to another die the Causeway port discards what may not pass (15 R346), and the isolation error is the port's. -/
theorem across_sealed_dies (s : State) (c d : Nat) (ev : Instr) (dies : cellStrip c / 12 ≠ cellStrip d / 12)
    (closed : Sealed s (cellStrip c) (cellStrip d)) :
    s.across c d ev = .isolationError (.causeway (cellStrip d), s.seqNo) := by
  rw [State.across, if_pos ((sealed_iff s _ _).mpr closed), isoPoint, if_neg dies]

/-- `Reaches` asks for an isolation error of the strip's seam, also where a Causeway port is the point of discard. -/
theorem not_reaches_across_dies (s : State) (c d : Nat) (ev ev' : Instr) (dies : cellStrip c / 12 ≠ cellStrip d / 12)
    (closed : Sealed s (cellStrip c) (cellStrip d)) : ¬ Reaches s c d ev' (s.across c d ev) := by
  rintro ⟨-, atSeam⟩
  obtain ⟨m, hm⟩ := atSeam closed
  simp [across_sealed_dies s c d ev dies closed] at hm

/-- Two partitions of twelve strips, one on each die; cell 0 has a berth at cell 12288, the first cell of the other die. -/
def berthAbroad : State :=
  { State.reset with parts := [(0, { Part.none with first := 0, count := 12 }), (1, { Part.none with first := 12, count := 12 })] }.modCell
    0 fun c => c.modCtx 0 fun x => { x with
      hands := vset x.hands 0 ⟨true, 0, 0, 3, 8, false⟩
      routes := vset x.routes 0 (BitVec.ofNat 64 (12288 * 2 ^ 5)) }

/-- SEQ of w0 to out port 0. -/
def seqToPort : OpU := ⟨.w 0, .out 0, .nul, false, .ofA⟩

/-- A cell after SEQ draws its next tag (06 R150). -/
def Cell.drawTag (c : Cell) : Cell :=
  { c with tagMap := setBit c.tagMap (c.tagNext.toNat % 256) true, tagNext := c.tagNext + 1 }

/-- SEQ fires while the window has room. -/
theorem exec_seq_next (o : OpU) (s : State) (ready : (cur s).ready (ofU o) = true) (room : (cur s).outstanding < (cur s).tagSize) :
    exec (.seq o) s = .next ((s.modCell s.curCell Cell.drawTag).finish (ofU o) (ofU o).popped (payOf s o.a)
      ⟨0, false, (cur s).tagNext⟩ 0) :=
  fireTag_next s (ofU o) _ _ _ Cell.drawTag (Bool.and_eq_true_iff.mpr ⟨ready, decide_eq_true room⟩)

theorem seq_berthAbroad : Answers (.seq seqToPort) berthAbroad fun t =>
    t.passes.map (·.ev) = [some (berthAbroad.across 0 12288 (.tokenArrival 12288 0 0 8 ⟨0, .zero⟩))] :=
  ⟨_, exec_seq_next seqToPort berthAbroad (by decide +kernel) (by decide +kernel), by decide +kernel⟩

/-- Refutes O13: SEQ's clause fails where its token may not pass to another die. The discard there is counted at the Causeway port
(15 R346; log 93), and `Leaves` asks for an isolation error of the strip's seam. -/
theorem not_tagInstructionResults : ¬ Obligations.TagInstructionResults := by
  unfold Obligations.TagInstructionResults
  intro h
  obtain ⟨-, -, seqDraws, -⟩ := h berthAbroad
  obtain ⟨t, ht, -, -, leaves⟩ := seqDraws seqToPort (by decide +kernel) (by decide +kernel)
  obtain ⟨u, hu, sent⟩ := seq_berthAbroad
  obtain rfl : t = u := by simpa [ht] using hu
  obtain ⟨-, -, -, onWay⟩ := leaves 0 rfl rfl
  have route : berthAbroad.routeCell berthAbroad.curCell (cur berthAbroad).actx 0 = 12288 := by decide +kernel
  have flies := onWay _ (List.mem_singleton_self _)
  simp only [OnWay, route] at flies
  obtain ⟨p, hp, -, -, -, -, -, -, e, he, reaches⟩ := flies.2 (by decide +kernel)
  have event : p.ev ∈ t.passes.map (·.ev) := List.mem_map_of_mem hp
  rw [sent, List.mem_singleton, he, Option.some_inj] at event
  rw [event] at reaches
  exact not_reaches_across_dies _ _ _ _ _ (by decide) (.inl (by decide +kernel)) reaches

end Sys2Proof.Machine
end

section
/-! PROOFS. The pilot's integer functions and immediate instructions (09 R228, R229). -/

namespace Sys2Proof.Machine

/-! What the integer functions compute, as numbers. -/

theorem shAmt_eq (y : DWord) : shAmt y = y.toNat % 64 := by
  simp [shAmt, bf]

theorem add64_eq (x y : DWord) : x + y = BitVec.ofNat 64 (x.toNat + y.toNat) := by
  simp [BitVec.ofNat_add]

theorem sub64_eq (x y : DWord) : x - y = BitVec.ofInt 64 (x.toInt - y.toInt) := by
  apply BitVec.eq_of_toInt_eq
  rw [BitVec.toInt_sub, BitVec.toInt_ofInt]

theorem mul64_eq (x y : DWord) : x * y = BitVec.ofNat 64 (x.toNat * y.toNat) := by
  simp [BitVec.ofNat_mul]

theorem shiftLeft64_eq (x : DWord) (n : Nat) : x <<< n = BitVec.ofNat 64 (x.toNat * 2 ^ n) := by
  apply BitVec.eq_of_toNat_eq
  rw [BitVec.toNat_shiftLeft, Nat.shiftLeft_eq, BitVec.toNat_ofNat]

theorem ushiftRight64_eq (x : DWord) (n : Nat) : x >>> n = BitVec.ofNat 64 (x.toNat / 2 ^ n) := by
  apply BitVec.eq_of_toNat_eq
  rw [BitVec.toNat_ushiftRight, Nat.shiftRight_eq_div_pow, BitVec.toNat_ofNat,
    Nat.mod_eq_of_lt (Nat.lt_of_le_of_lt (Nat.div_le_self ..) x.isLt)]

theorem sshiftRight64_eq (x : DWord) (n : Nat) : x.sshiftRight n = BitVec.ofInt 64 (x.toInt / (2 ^ n : Nat)) := by
  rw [← Int.shiftRight_eq_div_pow, ← BitVec.toInt_sshiftRight, BitVec.ofInt_toInt]

theorem sll64_eq (x y : DWord) : sll64 x y = BitVec.ofNat 64 (x.toNat * 2 ^ (y.toNat % 64)) := by
  rw [sll64, shiftLeft64_eq, shAmt_eq]

theorem srl64_eq (x y : DWord) : srl64 x y = BitVec.ofNat 64 (x.toNat / 2 ^ (y.toNat % 64)) := by
  rw [srl64, ushiftRight64_eq, shAmt_eq]

theorem sra64_eq (x y : DWord) : sra64 x y = BitVec.ofInt 64 (x.toInt / (2 ^ (y.toNat % 64) : Nat)) := by
  rw [sra64, sshiftRight64_eq, shAmt_eq]

theorem min64_eq (x y : DWord) : (if x.toInt ≤ y.toInt then x else y) = BitVec.ofInt 64 (min x.toInt y.toInt) := by
  rw [Int.min_def, apply_ite (BitVec.ofInt 64), BitVec.ofInt_toInt, BitVec.ofInt_toInt]

theorem max64_eq (x y : DWord) : (if x.toInt ≤ y.toInt then y else x) = BitVec.ofInt 64 (max x.toInt y.toInt) := by
  rw [Int.max_def, apply_ite (BitVec.ofInt 64), BitVec.ofInt_toInt, BitVec.ofInt_toInt]

theorem minu64_eq (x y : DWord) : (if x.toNat ≤ y.toNat then x else y) = BitVec.ofNat 64 (min x.toNat y.toNat) := by
  rw [Nat.min_def, apply_ite (BitVec.ofNat 64), BitVec.ofNat_toNat, BitVec.ofNat_toNat, BitVec.setWidth_eq, BitVec.setWidth_eq]

theorem maxu64_eq (x y : DWord) : (if x.toNat ≤ y.toNat then y else x) = BitVec.ofNat 64 (max x.toNat y.toNat) := by
  rw [Nat.max_def, apply_ite (BitVec.ofNat 64), BitVec.ofNat_toNat, BitVec.ofNat_toNat, BitVec.setWidth_eq, BitVec.setWidth_eq]

/-- The floor of the quotient by 2^64 is the Euclidean quotient, the divisor being positive. -/
theorem mulh64_eq (x y : DWord) : mulh64 x y = BitVec.ofInt 64 (x.toInt * y.toInt / (2 ^ 64 : Nat)) := by
  rw [mulh64, Int.fdiv_eq_ediv_of_nonneg _ (by decide)]
  rfl

/-! Quotients and remainders, truncated toward zero. -/

theorem div64_eq_sdiv (x y : DWord) (hy : y ≠ 0) : div64 x y = x.sdiv y := by
  apply BitVec.eq_of_toInt_eq
  rw [div64, if_neg hy, BitVec.toInt_ofInt, BitVec.toInt_sdiv]

theorem rem64_eq_srem (x y : DWord) (hy : y ≠ 0) : rem64 x y = x.srem y := by
  apply BitVec.eq_of_toInt_eq
  rw [rem64, if_neg hy, ← BitVec.toInt_srem, BitVec.ofInt_toInt]

theorem eq_intMin_of_toInt {x : DWord} (h : x.toInt = -(2 ^ 63 : Nat)) : x = BitVec.intMin 64 :=
  BitVec.eq_of_toInt_eq h

theorem eq_neg_one_of_toInt {y : DWord} (h : y.toInt = -1) : y = -1#64 :=
  BitVec.eq_of_toInt_eq h

/-- A remainder is zero or has the sign of its dividend. -/
theorem tmod_sign (a b : Int) : a.tmod b = 0 ∨ (a.tmod b < 0 ↔ a < 0) := by
  rcases Int.lt_or_le a 0 with neg | nonneg
  · have := Int.tmod_nonneg b (Int.neg_nonneg_of_nonpos (Int.le_of_lt neg))
    rw [Int.neg_tmod] at this
    omega
  · have := Int.tmod_nonneg b nonneg
    omega

theorem natAbs_tmod_lt (a : Int) {b : Int} (hb : b ≠ 0) : (a.tmod b).natAbs < b.natAbs := by
  rw [Int.natAbs_tmod]
  exact Nat.mod_lt _ (Int.natAbs_pos.mpr hb)

theorem div64_rem64_overflow {x y : DWord} (hx : x.toInt = -(2 ^ 63 : Nat)) (hy : y.toInt = -1) :
    div64 x y = x ∧ rem64 x y = 0 := by
  obtain rfl := eq_intMin_of_toInt hx
  obtain rfl := eq_neg_one_of_toInt hy
  decide

/-- Division with remainder, in integers, wherever the quotient fits. -/
theorem div64_rem64_spec {x y : DWord} (hy : y ≠ 0) (fits : ¬(x.toInt = -(2 ^ 63 : Nat) ∧ y.toInt = -1)) :
    x.toInt = (div64 x y).toInt * y.toInt + (rem64 x y).toInt ∧ (rem64 x y).toInt.natAbs < y.toInt.natAbs ∧
      ((rem64 x y).toInt = 0 ∨ ((rem64 x y).toInt < 0 ↔ x.toInt < 0)) := by
  have quot : (div64 x y).toInt = x.toInt.tdiv y.toInt := by
    rw [div64_eq_sdiv x y hy]
    refine BitVec.toInt_sdiv_of_ne_or_ne x y (Decidable.not_and_iff_not_or_not.mp ?_)
    rintro ⟨rfl, rfl⟩
    exact fits (by decide)
  have rem : (rem64 x y).toInt = x.toInt.tmod y.toInt := by rw [rem64_eq_srem x y hy, BitVec.toInt_srem]
  have nonzero : y.toInt ≠ 0 := fun h => hy (BitVec.eq_of_toInt_eq h)
  rw [quot, rem]
  exact ⟨(Int.tdiv_mul_add_tmod ..).symm, natAbs_tmod_lt _ nonzero, tmod_sign ..⟩

theorem divu64_remu64_spec {x y : DWord} (hy : y ≠ 0) :
    x.toNat = (divu64 x y).toNat * y.toNat + (remu64 x y).toNat ∧ (remu64 x y).toNat < y.toNat := by
  have quot : (divu64 x y).toNat = x.toNat / y.toNat := by
    rw [divu64, if_neg hy, BitVec.toNat_ofNat, Nat.mod_eq_of_lt (Nat.lt_of_le_of_lt (Nat.div_le_self ..) x.isLt)]
  have rem : (remu64 x y).toNat = x.toNat % y.toNat := by
    rw [remu64, if_neg hy, BitVec.toNat_ofNat, Nat.mod_eq_of_lt (Nat.lt_of_le_of_lt (Nat.mod_le ..) x.isLt)]
  have pos : 0 < y.toNat := Nat.pos_of_ne_zero fun h => hy (BitVec.eq_of_toNat_eq h)
  rw [quot, rem]
  exact ⟨(Nat.div_add_mod' ..).symm, Nat.mod_lt _ pos⟩

/-! Counting zeros from the bottom. -/

theorem ctzN_le {w : Nat} (v : BitVec w) (i n : Nat) : ctzN v i n ≤ n := by
  induction n generalizing i with
  | zero => exact Nat.le_refl 0
  | succ n ih =>
    have := ih (i + 1)
    rw [ctzN]
    split <;> omega

/-- The bits that are counted are zero. -/
theorem bit_of_ctzN_counted {w : Nat} (v : BitVec w) (i n : Nat) : ∀ j, i ≤ j → j < i + ctzN v i n → v.getLsbD j = false := by
  induction n generalizing i with
  | zero => intro j hij hj; rw [ctzN] at hj; omega
  | succ n ih =>
    intro j hij hj
    rw [ctzN] at hj
    split at hj
    case isTrue => omega
    case isFalse low =>
      rcases Nat.eq_or_lt_of_le hij with rfl | above
      · simpa using low
      · exact ih (i + 1) j above (by omega)

/-- The count ends at a bit that is set. -/
theorem bit_above_ctzN {w : Nat} (v : BitVec w) (i n : Nat) : ctzN v i n < n → v.getLsbD (i + ctzN v i n) = true := by
  induction n generalizing i with
  | zero => intro h; exact absurd h (Nat.not_lt_zero _)
  | succ n ih =>
    rw [ctzN]
    split
    case isTrue low => intro _; exact low
    case isFalse =>
      intro h
      have := ih (i + 1) (by omega)
      rwa [Nat.add_assoc] at this

/-! Immediates (03 R80). -/

theorem setWidth64_eq (i : BitVec 14) : i.setWidth 64 = BitVec.ofNat 64 i.toNat :=
  (BitVec.ofNat_toNat 64 i).symm

theorem toNat_setWidth64 (i : BitVec 14) : (i.setWidth 64).toNat = i.toNat := by
  rw [BitVec.toNat_setWidth, Nat.mod_eq_of_lt (Nat.lt_trans i.isLt (by decide))]

theorem toInt_signExtend64 {n : Nat} (hn : n ≤ 64) (i : BitVec n) : (i.signExtend 64).toInt = i.toInt :=
  BitVec.toInt_signExtend_of_le hn

theorem add_signExtend64_eq (x : DWord) (i : BitVec 14) : x + i.signExtend 64 = BitVec.ofInt 64 (x.toInt + i.toInt) := by
  apply BitVec.eq_of_toInt_eq
  rw [BitVec.toInt_add, BitVec.toInt_ofInt, toInt_signExtend64 (by decide)]

theorem slt64_signExtend_eq (x : DWord) (i : BitVec 14) : slt64 x (i.signExtend 64) = flag64 (decide (x.toInt < i.toInt)) := by
  rw [slt64, toInt_signExtend64 (by decide)]

theorem sltu64_setWidth_eq (x : DWord) (i : BitVec 14) : sltu64 x (i.setWidth 64) = flag64 (decide (x.toNat < i.toNat)) := by
  rw [sltu64, toNat_setWidth64]

theorem upper_eq (i : BitVec 19) : upper i = BitVec.ofInt 64 (i.toInt * 16384) := by
  rw [BitVec.ofInt_mul, ← toInt_signExtend64 (by decide : 19 ≤ 64) i, BitVec.ofInt_toInt]
  exact BitVec.shiftLeft_eq_mul_twoPow ..

/-- A word with its low bits cleared. -/
theorem and_not_low_eq (x : DWord) (n : Nat) :
    x &&& ~~~BitVec.ofNat 64 (2 ^ n - 1) = BitVec.ofNat 64 (x.toNat / 2 ^ n * 2 ^ n) := by
  apply BitVec.eq_of_getLsbD_eq
  intro j hj
  rw [BitVec.getLsbD_and, BitVec.getLsbD_not, BitVec.getLsbD_ofNat, BitVec.getLsbD_ofNat, Nat.testBit_two_pow_sub_one,
    Nat.testBit_mul_two_pow, Nat.testBit_div_two_pow]
  by_cases low : j < n
  · simp [low, Nat.not_le.mpr low]
  · simp [low, hj, Nat.not_lt.mp low, BitVec.getLsbD]

theorem page_add_upper_eq (pc : DWord) (i : BitVec 19) :
    (pc &&& ~~~0x3FFF#64) + upper i = BitVec.ofInt 64 (pc.toNat / 16384 * 16384 + i.toInt * 16384) := by
  rw [BitVec.ofInt_add, ← upper_eq]
  exact congrArg (· + upper i) (and_not_low_eq pc 14)

/-! The instructions, by operand form. -/

/-- A three-register function, given what it computes. -/
theorem alu_eq {f g : DWord → DWord → DWord} (h : ∀ x y, f x y = g x y) (s : State) (o : OpR3) :
    s.alu o f = .next (s.ret o.d (g (s.g o.a) (s.g o.b))) := by
  rw [State.alu, h]

theorem immS_eq {f : DWord → DWord → DWord} {g : DWord → BitVec 14 → DWord} (h : ∀ x i, f x (i.signExtend 64) = g x i)
    (s : State) (o : OpI14) : s.immS o f = .next (s.ret o.d (g (s.g o.a) o.i)) := by
  rw [State.immS, h]

/-- A zero-extended immediate is a number. -/
theorem immZ_eq (f : DWord → DWord → DWord) (s : State) (o : OpI14) :
    s.immZ o f = .next (s.ret o.d (f (s.g o.a) (BitVec.ofNat 64 o.i.toNat))) := by
  rw [State.immZ, setWidth64_eq]

theorem execShi_eq (s : State) (o : OpShi) : execShi o s = .next (s.ret o.d (match o.k with
    | .sll => BitVec.ofNat 64 ((s.g o.a).toNat * 2 ^ o.n.val)
    | .srl => BitVec.ofNat 64 ((s.g o.a).toNat / 2 ^ o.n.val)
    | .sra => BitVec.ofInt 64 ((s.g o.a).toInt / (2 ^ o.n.val : Nat)))) := by
  rw [execShi]
  cases o.k
  case sll => rw [← shiftLeft64_eq]
  case srl => rw [← ushiftRight64_eq]
  case sra => rw [← sshiftRight64_eq]

/-- Settles O28: each function of the model computes the number that the statement writes. -/
theorem pilotIntegerResults : Obligations.PilotIntegerResults := by
  unfold Obligations.PilotIntegerResults
  constructor
  · intro s
    refine ⟨alu_eq add64_eq s, alu_eq sub64_eq s, fun _ => rfl, fun _ => rfl, fun _ => rfl,
      fun _ => rfl, alu_eq sll64_eq s, alu_eq srl64_eq s, alu_eq sra64_eq s, fun _ => rfl,
      fun _ => rfl, alu_eq min64_eq s, alu_eq max64_eq s, alu_eq minu64_eq s, alu_eq maxu64_eq s, alu_eq mul64_eq s,
      alu_eq mulh64_eq s, fun _ => rfl, ?div, ?divu, ?clz, ?ctz, ?popc⟩
    case div =>
      exact fun o => ⟨_, _, rfl, rfl, fun zero => ⟨if_pos zero, if_pos zero⟩, div64_rem64_overflow, div64_rem64_spec⟩
    case divu => exact fun o => ⟨_, _, rfl, rfl, fun zero => ⟨if_pos zero, if_pos zero⟩, divu64_remu64_spec⟩
    case clz => exact fun o => ⟨_, clzN_le _ 64, rfl, bit_of_clzN_counted _ 64, bit_below_clzN _ 64⟩
    case ctz =>
      refine fun o => ⟨_, ctzN_le _ 0 64, rfl, fun j hj => ?_, fun h => ?_⟩
      · exact bit_of_ctzN_counted _ 0 64 j (Nat.zero_le j) (by rwa [Nat.zero_add])
      · rw [← bit_above_ctzN _ 0 64 h, Nat.zero_add]
    case popc => exact fun o => ⟨_, popcount_le _, rfl, rfl⟩
  · intro s
    refine ⟨immS_eq add_signExtend64_eq s, immZ_eq (· &&& ·) s, immZ_eq (· ||| ·) s, immZ_eq (· ^^^ ·) s, immS_eq slt64_signExtend_eq s,
      ?sltiu, execShi_eq s, ?lui, ?adpc⟩
    case sltiu => intro o; rw [exec_sltiu, execSltiu, State.immZ, sltu64_setWidth_eq]; rfl
    case lui => intro o; rw [exec_lui, execLui, upper_eq]
    case adpc => intro o; rw [exec_adpc, execAdpc, page_add_upper_eq]

end Sys2Proof.Machine
end

section
/-! PROOFS. The pilot's branches and jumps, and the fetch fault at a target (09 R224, R230). -/

namespace Sys2Proof.Machine

/-! Targets (03 R80). -/

/-- The target of a displacement in instructions. -/
theorem target_eq {n : Nat} (hn : n ≤ 64) (pc : DWord) (i : BitVec n) :
    pc + i.signExtend 64 * 4 = BitVec.ofInt 64 (pc.toInt + i.toInt * 4) := by
  rw [BitVec.ofInt_add, BitVec.ofInt_toInt, BitVec.ofInt_mul, ← toInt_signExtend64 hn i, BitVec.ofInt_toInt]
  rfl

theorem branch_eq (c : DWord → DWord → Bool) (s : State) (o : OpBr) : s.branch o c = .next (s.modMe fun m =>
    { m with pc := if c (s.g o.a) (s.g o.b) then BitVec.ofInt 64 (m.pc.toInt + o.o.toInt * 4) else m.pc + 4 }) := by
  rw [State.branch]
  cases c (s.g o.a) (s.g o.b)
  case false => rfl
  case true => simp only [if_true, target_eq (by decide : 14 ≤ 64)]

theorem execJal_eq (s : State) (o : OpI19) : execJal o s = .next (s.modMe fun m =>
    { m.setReg o.d (m.pc + 4) with pc := BitVec.ofInt 64 (m.pc.toInt + o.i.toInt * 4) }) := by
  rw [execJal]
  simp only [target_eq (by decide : 19 ≤ 64)]

theorem execJalr_aligned (s : State) (o : OpI14) (h : (s.g o.a + o.i.signExtend 64).toNat % 4 = 0) :
    execJalr o s = .next (s.modMe fun m => { m.setReg o.d (m.pc + 4) with pc := s.g o.a + o.i.signExtend 64 }) :=
  if_neg fun misaligned => misaligned (by simpa [bf] using h)

theorem execJalr_misaligned (s : State) (o : OpI14) (h : (s.g o.a + o.i.signExtend 64).toNat % 4 ≠ 0) :
    execJalr o s = .next (s.trap 3 (s.g o.a + o.i.signExtend 64)) :=
  if_pos (by simpa [bf] using h)

/-! A pilot's turn begins with the loads that have come; they change only registers (09 R234; log 59). -/

/-- Two pilots differ at most in their registers and in the loads that they have gone on past. -/
def SameButLoads (m n : Pilot) : Prop := ∃ g l, n = { m with g := g, late := l }

theorem SameButLoads.refl (m : Pilot) : SameButLoads m m := ⟨m.g, m.late, rfl⟩

section
variable {m n : Pilot} (h : SameButLoads m n)
include h

theorem SameButLoads.online : n.online = m.online := by obtain ⟨_, _, rfl⟩ := h; rfl
theorem SameButLoads.pc : n.pc = m.pc := by obtain ⟨_, _, rfl⟩ := h; rfl
theorem SameButLoads.tvec : n.tvec = m.tvec := by obtain ⟨_, _, rfl⟩ := h; rfl
theorem SameButLoads.vdid : n.vdid = m.vdid := by obtain ⟨_, _, rfl⟩ := h; rfl
theorem SameButLoads.wait : n.wait = m.wait := by obtain ⟨_, _, rfl⟩ := h; rfl
theorem SameButLoads.walk : n.walk = m.walk := by obtain ⟨_, _, rfl⟩ := h; rfl
theorem SameButLoads.sup : n.sup = m.sup := by obtain ⟨_, _, rfl⟩ := h; rfl
theorem SameButLoads.evTaken : n.evTaken = m.evTaken := by obtain ⟨_, _, rfl⟩ := h; rfl

theorem SameButLoads.trans {k : Pilot} (h' : SameButLoads n k) : SameButLoads m k := by
  obtain ⟨_, _, rfl⟩ := h
  exact h'

theorem SameButLoads.setReg (d : Fin 32) (v : DWord) : SameButLoads m (n.setReg d v) := by
  obtain ⟨g, l, rfl⟩ := h
  rw [Pilot.setReg]
  split
  · exact ⟨g, l, rfl⟩
  · exact ⟨_, l, rfl⟩

theorem SameButLoads.setLate (l : List PLate) : SameButLoads m { n with late := l } := by
  obtain ⟨g, _, rfl⟩ := h
  exact ⟨g, l, rfl⟩

theorem SameButLoads.loadRegs (d : Fin 32) (z : MemSz) (v : BitVec 128) : SameButLoads m (n.loadRegs d z v) := by
  rw [Pilot.loadRegs]
  split
  · exact (h.setReg ..).setReg ..
  · exact h.setReg ..

end

theorem sameButLoads_foldl (l : List PLate) (m : Pilot) :
    SameButLoads m (l.foldl (fun m x => m.loadRegs x.d x.z ((x.val.map (·.2)).getD 0)) m) := by
  induction l generalizing m with
  | nil => exact .refl m
  | cons x xs ih => exact ((SameButLoads.refl m).loadRegs ..).trans (ih _)

/-- Retiring the loads that have come is a write of the pilot. -/
theorem retire_eq (s : State) (p : Nat) : s.retire p = s ∨ ∃ n, SameButLoads (s.pilot p) n ∧ s.retire p = s.setPilot p n := by
  unfold State.retire
  split
  · exact .inl rfl
  · exact .inr ⟨_, (sameButLoads_foldl ..).setLate _, rfl⟩

/-- The state in which a pilot's turn acts. -/
def State.turnStart (s : State) (p : Nat) : State := ({ s with curPilot := p } : State).retire p

theorem pilot_turnStart (s : State) (p : Nat) : SameButLoads (s.pilot p) ((s.turnStart p).pilot p) := by
  obtain h | ⟨n, same, h⟩ := retire_eq { s with curPilot := p } p
  · rw [State.turnStart, h]
    exact .refl _
  · rwa [State.turnStart, h, State.pilot_set_same]

/-! A pilot's translation. -/

/-- What a translation finds at its beginning does not depend on the pilot's registers and loads. -/
theorem pbegin_fst_setPilot {s : State} {p : Nat} {n : Pilot} (same : SameButLoads (s.pilot p) n) (va : DWord) (acc : Acc) :
    ((s.setPilot p n).pbegin p va acc).1 = (s.pbegin p va acc).1 := by
  have vd : (s.setPilot p n).pilotVd p = s.pilotVd p := by rw [State.pilotVd, State.pilot_set_same, same.vdid]; rfl
  have begins (q d : Nat) (u : Bool) : (s.setPilot p n).begin q d u va acc = s.begin q d u va acc := rfl
  have quay : (s.setPilot p n).pilotQuay p = s.pilotQuay p := rfl
  unfold State.pbegin
  simp only [State.pilot_set_same, same.sup, vd, begins, quay]
  split <;> rfl

/-- Nor does what a translation gives. -/
theorem ptrans_fst_setPilot {s : State} {p : Nat} {n : Pilot} (same : SameButLoads (s.pilot p) n) (va : DWord) (acc : Acc) :
    ((s.setPilot p n).ptrans p va acc).1 = (s.ptrans p va acc).1 := by
  unfold State.ptrans
  simp only [State.pilot_set_same, same.walk]
  split
  · split
    · split <;> rfl
    · exact pbegin_fst_setPilot same va acc
  · exact pbegin_fst_setPilot same va acc

theorem ptrans_fst_turnStart (s : State) (p : Nat) (va : DWord) (acc : Acc) :
    ((s.turnStart p).ptrans p va acc).1 = (({ s with curPilot := p } : State).ptrans p va acc).1 := by
  obtain h | ⟨n, same, h⟩ := retire_eq { s with curPilot := p } p
  · rw [State.turnStart, h]
  · rw [State.turnStart, h, ptrans_fst_setPilot same]

theorem pbegin_bad {s : State} {p : Nat} {va : DWord} {acc : Acc} (bad : (s.pbegin p va acc).1 = .bad) :
    (s.pbegin p va acc).2 = s := by
  unfold State.pbegin at bad ⊢
  dsimp only at bad ⊢
  split at bad
  · cases bad
  · rfl
  · cases bad

/-- A translation begins, waits for its walk, or takes what the walk ended with. -/
theorem ptrans_cases (s : State) (p : Nat) (va : DWord) (acc : Acc) :
    s.ptrans p va acc = s.pbegin p va acc ∨ s.ptrans p va acc = (.wait, s) ∨
      ∃ g, s.ptrans p va acc = (g, s.modPilot p fun m => { m with walk := none }) := by
  unfold State.ptrans
  split
  · split
    · split
      · exact .inr (.inl rfl)
      · exact .inr (.inr ⟨_, rfl⟩)
      · exact .inr (.inr ⟨_, rfl⟩)
    · exact .inl rfl
  · exact .inl rfl

/-- A failed translation leaves of the pilot all but its walk. -/
theorem pilot_ptrans_bad {s : State} {p : Nat} {va : DWord} {acc : Acc} (bad : (s.ptrans p va acc).1 = .bad) :
    ∃ w, (s.ptrans p va acc).2.pilot p = { s.pilot p with walk := w } := by
  obtain h | h | ⟨g, h⟩ := ptrans_cases s p va acc
  · rw [h] at bad ⊢
    exact ⟨(s.pilot p).walk, by rw [pbegin_bad bad]⟩
  · rw [h] at bad
    cases bad
  · exact ⟨none, by rw [h, State.pilot_mod_same]⟩

theorem fetch_of_bad {s : State} {p : Nat} (bad : (s.ptrans p (s.pilot p).pc .x).1 = .bad) :
    s.fetch p = (.fault, (s.ptrans p (s.pilot p).pc .x).2) := by
  have : s.ptrans p (s.pilot p).pc .x = (.bad, (s.ptrans p (s.pilot p).pc .x).2) := Prod.ext bad rfl
  rw [State.fetch, this]

/-- A pilot in no instruction whose pc cannot be fetched takes the fetch fault there. -/
theorem fetchTurn_of_bad {s : State} {p : Nat} (bad : (s.ptrans p (s.pilot p).pc .x).1 = .bad) :
    Answers' (s.fetchTurn p) fun t => t.pilot p = (s.pilot p).trap 2 (s.pilot p).pc (s.pilot p).pc := by
  obtain ⟨w, left⟩ := pilot_ptrans_bad bad
  refine ⟨_, by rw [State.fetchTurn, fetch_of_bad bad], ?_⟩
  dsimp only
  rw [State.pilot_mod_same, left]
  rfl

/-- A pilot that is online, takes no interrupt and is in no instruction fetches. -/
theorem pilotTurn_of_fetches {s : State} {p : Nat} (online : (s.pilot p).online = true) (idle : (s.pilot p).wait = .no)
    (noEvent : (s.pilot p).evTaken = false) : s.pilotTurn p = (s.turnStart p).fetchTurn p := by
  have same := pilot_turnStart s p
  replace online := same.online.trans online
  replace idle := same.wait.trans idle
  replace noEvent := same.evTaken.trans noEvent
  rw [State.turnStart] at online idle noEvent ⊢
  rw [State.pilotTurn]
  simp only [online, idle, noEvent, Bool.not_true, Bool.false_and, Bool.false_eq_true, if_false]

/-- Settles O29: a branch's displacement is added to the pc, and a turn at a pc that cannot be fetched takes trap 2 there. -/
theorem branchesAndJumps : Obligations.BranchesAndJumps := by
  unfold Obligations.BranchesAndJumps
  constructor
  · intro s
    exact ⟨branch_eq (fun x y => x == y) s, branch_eq (fun x y => x != y) s, branch_eq (fun x y => x.toInt < y.toInt) s,
      branch_eq (fun x y => y.toInt ≤ x.toInt) s, branch_eq (fun x y => x.toNat < y.toNat) s,
      branch_eq (fun x y => y.toNat ≤ x.toNat) s, execJal_eq s, fun o => ⟨execJalr_aligned s o, execJalr_misaligned s o⟩⟩
  · intro s p online idle noEvent bad
    have same := pilot_turnStart s p
    rw [← ptrans_fst_turnStart, ← same.pc] at bad
    obtain ⟨t, turn, trapped⟩ := fetchTurn_of_bad bad
    rw [same.pc] at trapped
    refine ⟨t, (pilotTurn_of_fetches online idle noEvent).trans turn, ?_⟩
    dsimp only
    rw [trapped]
    exact ⟨rfl, rfl, rfl, same.tvec⟩

end Sys2Proof.Machine
end

section
/-! PROOFS. Taking a trap, SYS TRAP, and returning from a trap (09 R225, R227, R236). -/

namespace Sys2Proof.Machine

/-! The current and the saved byte of status (09 R222). -/

theorem byteMask_bit (j : Nat) (hj : j < 64) : (0xFF#64).getLsbD j = decide (j < 8) := by
  rw [show 0xFF#64 = BitVec.ofNat 64 (2 ^ 8 - 1) from rfl, BitVec.getLsbD_ofNat, Nat.testBit_two_pow_sub_one]
  simp [hj]

theorem savedMask_bit (j : Nat) (hj : j < 64) : (0xFF00#64).getLsbD j = (!decide (j < 8) && decide (j - 8 < 8)) := by
  rw [show 0xFF00#64 = 0xFF#64 <<< 8 from rfl, BitVec.getLsbD_shiftLeft, byteMask_bit _ (by omega)]
  simp [hj]

/-- Trap entry saves the current byte. -/
theorem trapStatus_saved (st : DWord) (j : Nat) (hj : j < 8) : (trapStatus st).getLsbD (8 + j) = st.getLsbD j := by
  have mask : (0xFF : DWord).getLsbD j = true := (byteMask_bit j (by omega)).trans (decide_eq_true hj)
  rw [trapStatus, BitVec.getLsbD_or, BitVec.getLsbD_shiftLeft, Nat.add_sub_cancel_left, BitVec.getLsbD_and, mask]
  simp [show 8 + j < 64 by omega]

theorem trapStatus_mode (st : DWord) : (trapStatus st).getLsbD 0 = true := by
  simp [trapStatus]

theorem trapStatus_ie (st : DWord) : (trapStatus st).getLsbD 1 = false := by
  simp [trapStatus]

/-- ERET gives the current byte what was saved. -/
theorem eret_current (p : Pilot) (j : Nat) (hj : j < 8) : p.eret.status.getLsbD j = p.status.getLsbD (8 + j) := by
  simp [Pilot.eret, savedMask_bit j (by omega), byteMask_bit j (by omega), hj]

/-- ERET leaves the saved byte. -/
theorem eret_saved (p : Pilot) (j : Nat) (hj : j < 8) : p.eret.status.getLsbD (8 + j) = p.status.getLsbD (8 + j) := by
  simp [Pilot.eret, savedMask_bit (8 + j) (by omega), byteMask_bit (8 + j) (by omega), hj, show ¬ 8 + j < 8 by omega]

/-- An aligned address is kept whole in epc. -/
theorem and_not_three_of_aligned {x : DWord} (h : x.toNat % 4 = 0) : x &&& ~~~3#64 = x :=
  calc x &&& ~~~3#64 = BitVec.ofNat 64 (x.toNat / 4 * 4) := and_not_low_eq x 2
    _ = BitVec.ofNat 64 x.toNat := by rw [Nat.div_mul_cancel (Nat.dvd_of_mod_eq_zero h)]
    _ = x := by simp

/-! A write of the pilot whose turn it is changes only the pilots; an instruction of supervisor mode (09 R236). -/

theorem modMe_frame (s : State) (f : Pilot → Pilot) : { s.modMe f with pilots := s.pilots } = s := rfl

theorem execSysEret_supervisor {s : State} (sup : s.me.sup = true) : execSysEret s = .next (s.modMe Pilot.eret) :=
  if_pos sup

theorem priv_user {s : State} {i : Instr} {w : Word} (user : s.me.sup = false) (coded : encode i = some w) (k : Out) :
    s.priv i k = .next (s.trap 1 (w.setWidth 64)) := by
  rw [State.priv, user, State.illegalI, coded]
  rfl

/-- Settles O33: status is read bit by bit after trap entry and after ERET; both write only the pilot whose turn it is. -/
theorem trapEntryAndReturn : Obligations.TrapEntryAndReturn := by
  unfold Obligations.TrapEntryAndReturn
  intro s
  refine ⟨?entry, fun o => rfl, ?eret, ?user⟩
  case entry =>
    intro cause tval
    dsimp only
    rw [State.me_trap]
    exact ⟨rfl, rfl, rfl, and_not_three_of_aligned, trapStatus_saved _, trapStatus_mode _, trapStatus_ie _, rfl,
      fun q other => State.pilot_modMe_ne s _ q other, modMe_frame s _⟩
  case eret =>
    intro sup
    refine ⟨_, execSysEret_supervisor sup, ?_⟩
    dsimp only
    rw [State.me_modMe]
    exact ⟨rfl, eret_current _, eret_saved _, rfl, rfl, modMe_frame s _⟩
  case user => exact fun user => ⟨_, rfl, priv_user user rfl _⟩

end Sys2Proof.Machine
end
